-- ==== Sys2Proof/Word.lean ====
section
/-! DEFINITION. The plain types of Xanom data (R4, R5, R117): words, bytes and register numbers. -/

namespace Sys2Proof

/-- A doubleword: a general register, an address, a control register (R150). -/
abbrev Word := BitVec 64
/-- A 32-bit word, the unit of ownership and ordering (R123). -/
abbrev W32 := BitVec 32
/-- A byte (R4). -/
abbrev Byte := BitVec 8
/-- A vector register's contents (R240). -/
abbrev VWord := BitVec 1024
/-- A tensor map (R118). -/
abbrev TMap := BitVec 256
/-- A task record of 64 bytes (R43). -/
abbrev Rec := BitVec 512
/-- A core name: [12:8] logical die, [7:0] core number (R61). -/
abbrev CoreName := BitVec 16
/-- A general-register number g0 to g31 (R117). -/
abbrev Reg := BitVec 5
/-- A tile number t0 to t63 (R117). -/
abbrev TileNo := BitVec 6

/-- `x[hi:lo]` as a value of `n = hi - lo + 1` bits (R5). -/
abbrev bits {w : Nat} (x : BitVec w) (lo n : Nat) : BitVec n := BitVec.extractLsb' lo n x

/-- `x[n]` (R5). -/
abbrev bit {w : Nat} (x : BitVec w) (n : Nat) : Bool := x.getLsbD n

/-- `x` with the `n`-bit field at `lo` replaced by `v`. -/
def setBits {w n : Nat} (x : BitVec w) (lo : Nat) (v : BitVec n) : BitVec w :=
  (x &&& ~~~((BitVec.allOnes n).setWidth w <<< lo)) ||| ((v.setWidth w) <<< lo)

end Sys2Proof
end

