-- ==== Sys2Proof/Syntax.lean ====
section
/-! DEFINITION. Syntax: one constructor for each row of spec/opcode_table.json, in the table's order. The rows
without an encoding (MIGRATION and later) are steps of the device's engines and of the outside world (95). -/

namespace Sys2Proof

/-- The operand width W of format G (R100). -/
inductive Width | d64 | w32
  deriving DecidableEq, Repr

/-- The lane width lw of format V (R104). -/
inductive Lane | b8 | h16 | w32
  deriving DecidableEq, Repr

/-- The ordering field fn[5:4] of an atomic (R109, R202). -/
inductive AmoOrder | plain | acq | rel
  deriving DecidableEq, Repr

/-- A sequencer of a core: the three of R114 and the class-routine bank (R288). -/
inductive Seq | control | vector | matrix | routine
  deriving DecidableEq, Repr

/-- The two launch windows: a context's own and the privileged one (R58, R485), and the SP's request (R477). -/
inductive LaunchWindow | own | privileged | sp
  deriving DecidableEq, Repr

/-- A launch: the write of `bytes` bytes to LREC, and the end of its checks (R59, R486). `saves` are the loader's regions. -/
inductive LaunchStep
  | write (window : LaunchWindow) (lrec : Word) (bytes : Nat) (saves : List (Word × Nat × Nat))
  | checked
  deriving DecidableEq, Repr

/-- A host CXL.mem access of one line (R484). -/
inductive HostAccess
  | read (line : Nat)
  | write (line : Nat) (mask : BitVec 32) (data : List W32)
  deriving DecidableEq, Repr

/-- A gang stop as the service processors raise it: the partition, and the address of its gang-stop table (R191, R192). -/
structure StopOrder where
  part : Nat
  table : Nat
  deriving DecidableEq, Repr

/-- What the ECC of a line read by the scrub says (R488). -/
inductive Scrubbed | clean | corrected | uncorrectable
  deriving DecidableEq, Repr

/-- The self-test of the reserve (R434): the charge measured, in mJ, and whether Lockkeeper discards the saved image that is offered
(R435). -/
structure SelfTest where
  charge : Nat
  discard : Bool
  deriving DecidableEq, Repr

/-- Where an error of a stored bit is found: in a line of memory (R488), or in a cell of a core's slot 0 to 7 or bank, 8 and 9
(R366). -/
inductive ScrubAt
  | line (n : Nat)
  | cell (c : CoreName) (n : Nat)
  deriving DecidableEq, Repr

/-- The instructions and steps (spec/opcode_table.json). -/
inductive Instr
  /-- ADD (R157) -/
  | add (w : Width) (d a b : Reg)
  /-- SUB (R157) -/
  | sub (w : Width) (d a b : Reg)
  /-- AND (R157) -/
  | and (w : Width) (d a b : Reg)
  /-- OR (R157) -/
  | or (w : Width) (d a b : Reg)
  /-- XOR (R157) -/
  | xor (w : Width) (d a b : Reg)
  /-- SHL (R157) -/
  | shl (w : Width) (d a b : Reg)
  /-- SHR (R157) -/
  | shr (w : Width) (d a b : Reg)
  /-- SAR (R157) -/
  | sar (w : Width) (d a b : Reg)
  /-- SLT (R157) -/
  | slt (w : Width) (d a b : Reg)
  /-- SLTU (R157) -/
  | sltu (w : Width) (d a b : Reg)
  /-- MIN (R157) -/
  | min (w : Width) (d a b : Reg)
  /-- MAX (R157) -/
  | max (w : Width) (d a b : Reg)
  /-- MUL (R157) -/
  | mul (w : Width) (d a b : Reg)
  /-- MULH (R157) -/
  | mulh (w : Width) (d a b : Reg)
  /-- DIV (R157) -/
  | div (w : Width) (d a b : Reg)
  /-- REM (R157) -/
  | rem (w : Width) (d a b : Reg)
  /-- ADD_IMM_D (R158) -/
  | addImmD (d a : Reg) (i : BitVec 12)
  /-- AND_IMM_D (R158) -/
  | andImmD (d a : Reg) (i : BitVec 12)
  /-- OR_IMM_D (R158) -/
  | orImmD (d a : Reg) (i : BitVec 12)
  /-- XOR_IMM_D (R158) -/
  | xorImmD (d a : Reg) (i : BitVec 12)
  /-- SHL_IMM_D (R158) -/
  | shlImmD (d a : Reg) (i : BitVec 12)
  /-- SHR_IMM_D (R158) -/
  | shrImmD (d a : Reg) (i : BitVec 12)
  /-- SAR_IMM_D (R158) -/
  | sarImmD (d a : Reg) (i : BitVec 12)
  /-- SLT_IMM_D (R158) -/
  | sltImmD (d a : Reg) (i : BitVec 12)
  /-- SLTU_IMM_D (R158) -/
  | sltuImmD (d a : Reg) (i : BitVec 12)
  /-- MIN_IMM_D (R158) -/
  | minImmD (d a : Reg) (i : BitVec 12)
  /-- MAX_IMM_D (R158) -/
  | maxImmD (d a : Reg) (i : BitVec 12)
  /-- MUL_IMM_D (R158) -/
  | mulImmD (d a : Reg) (i : BitVec 12)
  /-- ADD_IMM_W (R158) -/
  | addImmW (d a : Reg) (i : BitVec 12)
  /-- AND_IMM_W (R158) -/
  | andImmW (d a : Reg) (i : BitVec 12)
  /-- OR_IMM_W (R158) -/
  | orImmW (d a : Reg) (i : BitVec 12)
  /-- XOR_IMM_W (R158) -/
  | xorImmW (d a : Reg) (i : BitVec 12)
  /-- SHL_IMM_W (R158) -/
  | shlImmW (d a : Reg) (i : BitVec 12)
  /-- SHR_IMM_W (R158) -/
  | shrImmW (d a : Reg) (i : BitVec 12)
  /-- SAR_IMM_W (R158) -/
  | sarImmW (d a : Reg) (i : BitVec 12)
  /-- SLT_IMM_W (R158) -/
  | sltImmW (d a : Reg) (i : BitVec 12)
  /-- SLTU_IMM_W (R158) -/
  | sltuImmW (d a : Reg) (i : BitVec 12)
  /-- MIN_IMM_W (R158) -/
  | minImmW (d a : Reg) (i : BitVec 12)
  /-- MAX_IMM_W (R158) -/
  | maxImmW (d a : Reg) (i : BitVec 12)
  /-- MUL_IMM_W (R158) -/
  | mulImmW (d a : Reg) (i : BitVec 12)
  /-- LI (R159) -/
  | li (d : Reg) (i : BitVec 19)
  /-- LEA_PC (R159) -/
  | leaPc (d : Reg) (i : BitVec 19)
  /-- LEA_REG (R159) -/
  | leaReg (d a : Reg) (i : BitVec 12)
  /-- JR (R163) -/
  | jr (a : Reg) (i : BitVec 12)
  /-- BEQ (R161) -/
  | beq (a b : Reg) (o : BitVec 11)
  /-- BNE (R161) -/
  | bne (a b : Reg) (o : BitVec 11)
  /-- BLT (R161) -/
  | blt (a b : Reg) (o : BitVec 11)
  /-- BGE (R161) -/
  | bge (a b : Reg) (o : BitVec 11)
  /-- BLTU (R161) -/
  | bltu (a b : Reg) (o : BitVec 11)
  /-- BGEU (R161) -/
  | bgeu (a b : Reg) (o : BitVec 11)
  /-- JAL (R162) -/
  | jal (d : Reg) (o : BitVec 19)
  /-- B (R162) -/
  | b (o : BitVec 19)
  /-- KRD (R154) -/
  | krd (d : Reg) (k : BitVec 8)
  /-- KWR (R154) -/
  | kwr (a : Reg) (k : BitVec 8)
  /-- TRAP (R165) -/
  | trap (i : BitVec 8)
  /-- KRET (R168) -/
  | kret
  /-- EBRK (R166) -/
  | ebrk (i : BitVec 8)
  /-- HALT (R167) -/
  | halt
  /-- WAIT (R169) -/
  | wait (l s c x : BitVec 3)
  /-- REND (R175) -/
  | rend
  /-- NOP (R167) -/
  | nop
  /-- FORK (R173) -/
  | fork (a b : Reg)
  /-- FMT (R115) -/
  | fmt (f g h : BitVec 4) (s t : Reg) (e : BitVec 2)
  /-- LD (R197) -/
  | ld (z : BitVec 2) (d a : Reg) (o : BitVec 12)
  /-- LD_ACQ (R197) -/
  | ldAcq (z : BitVec 2) (d a : Reg) (o : BitVec 12)
  /-- ST (R197) -/
  | st (z : BitVec 2) (d a : Reg) (o : BitVec 12)
  /-- ST_REL (R197) -/
  | stRel (z : BitVec 2) (d a : Reg) (o : BitVec 12)
  /-- AMO_SWAP (R203) -/
  | amoSwap (q : AmoOrder) (w : Width) (d a b : Reg)
  /-- AMO_CAS (R203) -/
  | amoCas (q : AmoOrder) (w : Width) (d a b : Reg)
  /-- AMO_ADD (R203) -/
  | amoAdd (q : AmoOrder) (w : Width) (d a b : Reg)
  /-- AMO_AND (R203) -/
  | amoAnd (q : AmoOrder) (w : Width) (d a b : Reg)
  /-- AMO_OR (R203) -/
  | amoOr (q : AmoOrder) (w : Width) (d a b : Reg)
  /-- AMO_XOR (R203) -/
  | amoXor (q : AmoOrder) (w : Width) (d a b : Reg)
  /-- AMO_MIN (R203) -/
  | amoMin (q : AmoOrder) (w : Width) (d a b : Reg)
  /-- AMO_MAX (R203) -/
  | amoMax (q : AmoOrder) (w : Width) (d a b : Reg)
  /-- AMO_FADD (R203) -/
  | amoFadd (q : AmoOrder) (d a b : Reg)
  /-- FENCE_ACQ (R204) -/
  | fenceAcq
  /-- FENCE_REL (R204) -/
  | fenceRel
  /-- FENCE_FULL (R204) -/
  | fenceFull
  /-- STASH_MAP (R206) -/
  | stashMap (d a b : Reg)
  /-- STASH_UNMAP (R208) -/
  | stashUnmap (a b : Reg)
  /-- STASH_WB (R207) -/
  | stashWb (a b : Reg)
  /-- SPILL (R210) -/
  | spill (a b : Reg)
  /-- FILL (R211) -/
  | fill (d a b : Reg)
  /-- TSTATE (R212) -/
  | tstate (d a : Reg)
  /-- TMLD (R118) -/
  | tmld (a : Reg) (m : BitVec 4)
  /-- TMST (R118) -/
  | tmst (a : Reg) (m : BitVec 4)
  /-- SPAWN (R230) -/
  | spawn (d a b : Reg)
  /-- SPAWNT (R231) -/
  | spawnt (d a b : Reg)
  /-- RETIRE (R232) -/
  | retire
  /-- YIELD (R239) -/
  | yield
  /-- CHOPEN (R233) -/
  | chopen (d a b : Reg)
  /-- CHCLOSE (R234) -/
  | chclose (d a : Reg)
  /-- NEST (R236) -/
  | nest (d a b : Reg)
  /-- CHBUDGET (R235) -/
  | chbudget (d a b : Reg)
  /-- CHPRIO (R235) -/
  | chprio (d a b : Reg)
  /-- NEXTIT (R237) -/
  | nextit (o : BitVec 19)
  /-- VFADD (R244) -/
  | vfadd (l : Lane) (p : Option (BitVec 3)) (d a b : Reg)
  /-- VFSUB (R244) -/
  | vfsub (l : Lane) (p : Option (BitVec 3)) (d a b : Reg)
  /-- VFMUL (R244) -/
  | vfmul (l : Lane) (p : Option (BitVec 3)) (d a b : Reg)
  /-- VFMA (R244) -/
  | vfma (l : Lane) (p : Option (BitVec 3)) (d a b : Reg)
  /-- VFMS (R244) -/
  | vfms (l : Lane) (p : Option (BitVec 3)) (d a b : Reg)
  /-- VFMIN (R244) -/
  | vfmin (l : Lane) (p : Option (BitVec 3)) (d a b : Reg)
  /-- VFMAX (R244) -/
  | vfmax (l : Lane) (p : Option (BitVec 3)) (d a b : Reg)
  /-- VFABS (R244) -/
  | vfabs (l : Lane) (p : Option (BitVec 3)) (d a : Reg)
  /-- VADD (R245) -/
  | vadd (l : Lane) (p : Option (BitVec 3)) (d a b : Reg)
  /-- VSUB (R245) -/
  | vsub (l : Lane) (p : Option (BitVec 3)) (d a b : Reg)
  /-- VMUL (R245) -/
  | vmul (l : Lane) (p : Option (BitVec 3)) (d a b : Reg)
  /-- VMIN (R245) -/
  | vmin (l : Lane) (p : Option (BitVec 3)) (d a b : Reg)
  /-- VMAX (R245) -/
  | vmax (l : Lane) (p : Option (BitVec 3)) (d a b : Reg)
  /-- VAND (R245) -/
  | vand (l : Lane) (p : Option (BitVec 3)) (d a b : Reg)
  /-- VOR (R245) -/
  | vor (l : Lane) (p : Option (BitVec 3)) (d a b : Reg)
  /-- VXOR (R245) -/
  | vxor (l : Lane) (p : Option (BitVec 3)) (d a b : Reg)
  /-- VSHL (R246) -/
  | vshl (l : Lane) (p : Option (BitVec 3)) (d a : Reg) (s : BitVec 5)
  /-- VSHR (R246) -/
  | vshr (l : Lane) (p : Option (BitVec 3)) (d a : Reg) (s : BitVec 5)
  /-- VSAR (R246) -/
  | vsar (l : Lane) (p : Option (BitVec 3)) (d a : Reg) (s : BitVec 5)
  /-- VSADD (R246) -/
  | vsadd (l : Lane) (p : Option (BitVec 3)) (d a b : Reg)
  /-- VSSUB (R246) -/
  | vssub (l : Lane) (p : Option (BitVec 3)) (d a b : Reg)
  /-- VABS (R246) -/
  | vabs (l : Lane) (p : Option (BitVec 3)) (d a : Reg)
  /-- VNEG (R246) -/
  | vneg (l : Lane) (p : Option (BitVec 3)) (d a : Reg)
  /-- VCMPEQ (R247) -/
  | vcmpeq (l : Lane) (p : Option (BitVec 3)) (d : BitVec 3) (a b : Reg)
  /-- VCMPLT (R247) -/
  | vcmplt (l : Lane) (p : Option (BitVec 3)) (d : BitVec 3) (a b : Reg)
  /-- VCMPLE (R247) -/
  | vcmple (l : Lane) (p : Option (BitVec 3)) (d : BitVec 3) (a b : Reg)
  /-- VFCMPEQ (R247) -/
  | vfcmpeq (l : Lane) (p : Option (BitVec 3)) (d : BitVec 3) (a b : Reg)
  /-- VFCMPLT (R247) -/
  | vfcmplt (l : Lane) (p : Option (BitVec 3)) (d : BitVec 3) (a b : Reg)
  /-- VFCMPLE (R247) -/
  | vfcmple (l : Lane) (p : Option (BitVec 3)) (d : BitVec 3) (a b : Reg)
  /-- VSEL (R247) -/
  | vsel (l : Lane) (p : BitVec 3) (d a b : Reg)
  /-- VFREDSUM (R248) -/
  | vfredsum (l : Lane) (p : Option (BitVec 3)) (d a b : Reg)
  /-- VFREDMAX (R248) -/
  | vfredmax (l : Lane) (p : Option (BitVec 3)) (d a b : Reg)
  /-- VFREDMIN (R248) -/
  | vfredmin (l : Lane) (p : Option (BitVec 3)) (d a b : Reg)
  /-- VREDSUM (R248) -/
  | vredsum (l : Lane) (p : Option (BitVec 3)) (d a b : Reg)
  /-- VREDMAX (R248) -/
  | vredmax (l : Lane) (p : Option (BitVec 3)) (d a b : Reg)
  /-- VREDMIN (R248) -/
  | vredmin (l : Lane) (p : Option (BitVec 3)) (d a b : Reg)
  /-- VPERM (R249) -/
  | vperm (l : Lane) (p : Option (BitVec 3)) (d a b : Reg)
  /-- VSLIDE (R249) -/
  | vslide (l : Lane) (p : Option (BitVec 3)) (d a : Reg) (s : BitVec 5)
  /-- VCVT (R251) -/
  | vcvt (l : Lane) (p : Option (BitVec 3)) (d a : Reg) (r : Bool) (t : BitVec 3)
  /-- VCVTS (R252) -/
  | vcvts (l : Lane) (d a b : Reg)
  /-- VEXP2 (R254) -/
  | vexp2 (l : Lane) (p : Option (BitVec 3)) (d a : Reg)
  /-- VRCP (R255) -/
  | vrcp (l : Lane) (p : Option (BitVec 3)) (d a : Reg)
  /-- VRSQ (R256) -/
  | vrsq (l : Lane) (p : Option (BitVec 3)) (d a : Reg)
  /-- VBCAST (R250) -/
  | vbcast (l : Lane) (p : Option (BitVec 3)) (d a : Reg)
  /-- VEXTR (R250) -/
  | vextr (l : Lane) (d a b : Reg)
  /-- VLD (R257) -/
  | vld (d a : Reg) (o : BitVec 12)
  /-- VST (R257) -/
  | vst (d a : Reg) (o : BitVec 12)
  /-- KVDEC (R263) -/
  | kvdec (p : Option (BitVec 3)) (d a b : Reg)
  /-- KVSCORE (R264) -/
  | kvscore (d a b : Reg)
  /-- TOPK (R265) -/
  | topk (p : Option (BitVec 3)) (d a b : Reg)
  /-- SEND (R296) -/
  | send (d a b : Reg)
  /-- SENDD (R296) -/
  | sendd (d a b : Reg)
  /-- CBIND (R284) -/
  | cbind (d a b : Reg)
  /-- CUNBIND (R285) -/
  | cunbind (d a : Reg)
  /-- MRET (R298) -/
  | mret
  /-- MPOLL (R293) -/
  | mpoll (d a b : Reg)
  /-- COPY (R314) -/
  | copy (d : Reg) (t : TileNo) (u : Reg)
  /-- COPYM (R315) -/
  | copym (d : Reg) (t : TileNo) (u : Reg) (m : BitVec 4)
  /-- GATHER (R317) -/
  | gather (d : Reg) (t i : TileNo) (m : BitVec 4)
  /-- SCATTER (R317) -/
  | scatter (d : Reg) (t i : TileNo) (m : BitVec 4)
  /-- CFILL (R316) -/
  | cfill (d u : Reg)
  /-- KVMOVE (R319) -/
  | kvmove (d : Reg) (t : TileNo) (u : Reg)
  /-- STRIPE_UPD (R323) -/
  | stripeUpd (d u : Reg)
  /-- STRIPE_REC (R324) -/
  | stripeRec (d u : Reg)
  /-- BALLOC (R340) -/
  | balloc (d : Reg) (t : TileNo) (u : Reg)
  /-- BSEAL (R341) -/
  | bseal (d : Reg) (t : TileNo)
  /-- BLD (R342) -/
  | bld (d : Reg) (t : TileNo)
  /-- BFORFEIT (R344) -/
  | bforfeit (d u : Reg)
  /-- BFORFEIT_T (R345) -/
  | bforfeitT (t : TileNo)
  /-- BQUERY (R346) -/
  | bquery (d u : Reg) (s : BitVec 4)
  /-- BPART (R338) -/
  | bpart (d u : Reg)
  /-- MTEAM_JOIN (R369) -/
  | mteamJoin (d u : Reg)
  /-- MTEAM_LEAVE (R370) -/
  | mteamLeave (d : Reg)
  /-- MLDB (R371) -/
  | mldb (t : TileNo) (u : Reg) (m : BitVec 4) (s : BitVec 5)
  /-- MLDA (R371) -/
  | mlda (t : TileNo) (u : Reg) (m : BitVec 4) (s : BitVec 5)
  /-- MMA (R372) -/
  | mma (t : TileNo) (u : Reg) (s : BitVec 5)
  /-- MMAT (R372) -/
  | mmat (t : TileNo) (u : Reg) (s : BitVec 5)
  /-- MZERO (R373) -/
  | mzero (t : TileNo)
  /-- MST (R374) -/
  | mst (d : Reg) (t : TileNo) (u : Reg) (m : BitVec 4)
  /-- MCHK (R375) -/
  | mchk (d u : Reg) (s : BitVec 4)
  /-- NKEY (R390) -/
  | nkey (d u : Reg)
  /-- MMEMBER (R391) -/
  | mmember (u : Reg) (s : BitVec 5)
  /-- NGEN (R392) -/
  | ngen (d u : Reg)
  /-- NGRAD (R393) -/
  | ngrad (d u : Reg)
  /-- TLBW (R415) -/
  | tlbw (d a b : Reg)
  /-- TLBI (R416) -/
  | tlbi (d a b : Reg)
  /-- TLBIG (R416) -/
  | tlbig (d b : Reg)
  /-- SHIP (R417) -/
  | ship (d a b : Reg)
  /-- MIGR_BEGIN (R418) -/
  | migrBegin (d a b : Reg)
  /-- MIGR_END (R418) -/
  | migrEnd (d a : Reg)
  /-- PGREQ (R419) -/
  | pgreq (d a b : Reg)
  /-- PAIR (R429) -/
  | pair (d : Reg)
  /-- UNPAIR (R430) -/
  | unpair (d : Reg)
  /-- FPX (R430) -/
  | fpx (d : Reg)
  /-- PSTAT (R431) -/
  | pstat (d a : Reg)
  /-- MSDECL (R451) -/
  | msdecl (d a b : Reg)
  /-- MSOPEN (R452) -/
  | msopen (d a : Reg)
  /-- MSCLOSE (R453) -/
  | msclose (d a : Reg)
  /-- MSQUERY (R454) -/
  | msquery (d a b : Reg)
  /-- ADD_16 (R108) -/
  | add16 (d a : Reg)
  /-- SUB_16 (R108) -/
  | sub16 (d a : Reg)
  /-- AND_16 (R108) -/
  | and16 (d a : Reg)
  /-- OR_16 (R108) -/
  | or16 (d a : Reg)
  /-- XOR_16 (R108) -/
  | xor16 (d a : Reg)
  /-- ADD_IMM_16 (R108) -/
  | addImm16 (d : Reg) (i : BitVec 6)
  /-- LI_16 (R108) -/
  | li16 (d : Reg) (i : BitVec 6)
  /-- SHL_16 (R108) -/
  | shl16 (d : Reg) (i : BitVec 6)
  /-- SHR_16 (R108) -/
  | shr16 (d : Reg) (i : BitVec 6)
  /-- SAR_16 (R108) -/
  | sar16 (d : Reg) (i : BitVec 6)
  /-- LD_16 (R108) -/
  | ld16 (d : Reg) (i : BitVec 6)
  /-- ST_16 (R108) -/
  | st16 (d : Reg) (i : BitVec 6)
  /-- B_16 (R108) -/
  | b16 (o : BitVec 11)
  /-- BEQ_16 (R108) -/
  | beq16 (a : Reg) (o : BitVec 6)
  /-- BNE_16 (R108) -/
  | bne16 (a : Reg) (o : BitVec 6)
  /-- JR_16 (R108) -/
  | jr16 (a : Reg)
  /-- NOP_16 (R108) -/
  | nop16
  /-- REND_16 (R108) -/
  | rend16
  /-- EBRK_16 (R108) -/
  | ebrk16
  /-- MIGRATION (R111) -/
  | migration (c : CoreName)
  /-- ISSUE_AFTER_STALL (R26) -/
  | issueAfterStall (c : CoreName) (q : Seq)
  /-- PENDING_FAULT_TAKE (R496) -/
  | pendingFaultTake (c : CoreName)
  /-- PREEMPT (R188) -/
  | preempt (c : CoreName)
  /-- INTERRUPT_WAIT_EXPIRY (R184) -/
  | interruptWaitExpiry (c : CoreName)
  /-- GANG_STOP (R191) -/
  | gangStop (p : StopOrder)
  /-- GANG_RESUME (R193) -/
  | gangResume (p : Nat)
  /-- GANG_ROLLBACK (R471) -/
  | gangRollback (p : Nat)
  /-- RESTART (R225) -/
  | restart (k : Nat)
  /-- DEFERRED_PUSH (R62) -/
  | deferredPush (k : Nat)
  /-- SELECT (R217) -/
  | select (c : CoreName)
  /-- STEAL (R220) -/
  | steal (k : Nat)
  /-- STEAL_REPLY (R220) -/
  | stealReply (k : Nat)
  /-- STEAL_PAUSE_EXPIRY (R220) -/
  | stealPauseExpiry (c : CoreName)
  /-- GANG_BIND (R222) -/
  | gangBind (k : Nat)
  /-- GANG_RESERVE_TIMEOUT (R222) -/
  | gangReserveTimeout (k : Nat)
  /-- PUSH (R231) -/
  | push (k : Nat)
  /-- CLAIM (R224) -/
  | claim (k : Nat)
  /-- RSV (R222) -/
  | rsv (k : Nat)
  /-- LAUNCH (R59) -/
  | launch (step : LaunchStep)
  /-- CONTEXT_END (R234) -/
  | contextEnd (ctx : BitVec 16)
  /-- CONTEXT_END_HEAD (R487) -/
  | contextEndHead (head : Word)
  /-- WAKE_BEGIN (R31) -/
  | wakeBegin (die : Nat)
  /-- WAKE_COMPLETE (R31) -/
  | wakeComplete (c : CoreName)
  /-- MATRIX_SLEEP (R31) -/
  | matrixSleep (c : CoreName)
  /-- ROUTE_FLIT (R272) -/
  | routeFlit (router plane : Nat)
  /-- EJECT_FLIT (R276) -/
  | ejectFlit (k : Nat)
  /-- HOLD_NOTICE (R277) -/
  | holdNotice (k : Nat)
  /-- HOLD_NOTICE_RECEIVED (R277) -/
  | holdNoticeReceived (k : Nat)
  /-- RETRANSMIT (R278) -/
  | retransmit (k : Nat)
  /-- CHANNEL_FREE (R279) -/
  | channelFree (k : Nat)
  /-- CHANNEL_EVICT (R279) -/
  | channelEvict (k : Nat)
  /-- LINK_FAIL (R497) -/
  | linkFail (link : Nat)
  /-- SCALEUP_LINK_DEAD (R281) -/
  | scaleupLinkDead (link : Nat)
  /-- SET_ASIDE (R282) -/
  | setAside (flow : Nat)
  /-- SET_ASIDE_RELEASE (R282) -/
  | setAsideRelease (flow : Nat)
  /-- DIE_FENCED (R280) -/
  | dieFenced (k : Nat)
  /-- QSCE (R280) -/
  | qsce (die : Nat)
  /-- MESSAGE_COMPLETION (R296) -/
  | messageCompletion (k : Nat)
  /-- CLASS_INSTALL (R284) -/
  | classInstall (k : Nat)
  /-- UNBOUND_HOLD_EXPIRY (R286) -/
  | unboundHoldExpiry (c : CoreName) (k : Nat)
  /-- ROUTINE_START (R288) -/
  | routineStart (c : CoreName)
  /-- LD_REQUEST (R131) -/
  | ldRequest (k : Nat)
  /-- ST_REQUEST (R131) -/
  | stRequest (k : Nat)
  /-- STL (R310) -/
  | stl (k : Nat)
  /-- AMO_REQUEST (R136) -/
  | amoRequest (k : Nat)
  /-- LOAD_RETURN (R195) -/
  | loadReturn (k : Nat)
  /-- STORE_COMPLETE (R195) -/
  | storeComplete (k : Nat)
  /-- REG (R130) -/
  | reg (k : Nat)
  /-- REG_ACK (R125) -/
  | regAck (k : Nat)
  /-- REG_SET_FREE (R142) -/
  | regSetFree (k : Nat)
  /-- REV (R141) -/
  | rev (k : Nat)
  /-- REV_ANSWER (R141) -/
  | revAnswer (k : Nat)
  /-- WB (R207) -/
  | wb (k : Nat)
  /-- FWD (R143) -/
  | fwd (k : Nat)
  /-- COPYQ (R303) -/
  | copyq (k : Nat)
  /-- COPYD (R303) -/
  | copyd (k : Nat)
  /-- GSUB (R318) -/
  | gsub (k : Nat)
  /-- SSUB (R318) -/
  | ssub (k : Nat)
  /-- STRIPE (R321) -/
  | stripe (k : Nat)
  /-- ENGINE_COMPLETE (R146) -/
  | engineComplete (c : CoreName) (k : Nat)
  /-- LOST_CLEAR (R325) -/
  | lostClear (rid : Nat)
  /-- BASIN_ALLOC_GRANT (R340) -/
  | basinAllocGrant (slice partition : Nat)
  /-- BASIN_READ_SERVE (R342) -/
  | basinReadServe (slice partition k : Nat)
  /-- PSUM (R362) -/
  | psum (k : Nat)
  /-- MTEAM_JOIN_COMPLETE (R369) -/
  | mteamJoinComplete (c : CoreName)
  /-- TEAM_PREEMPT_TIMEOUT (R378) -/
  | teamPreemptTimeout (c : CoreName)
  /-- TLBM (R401) -/
  | tlbm (k : Nat)
  /-- TLBF (R403) -/
  | tlbf (k : Nat)
  /-- SHIP_ARRIVAL (R405) -/
  | shipArrival (k : Nat)
  /-- REDIR (R412) -/
  | redir (k : Nat)
  /-- LINE_MOVE (R411) -/
  | lineMove (m : Nat)
  /-- FINGERPRINT_EXCHANGE (R423) -/
  | fingerprintExchange (c : CoreName)
  /-- SUPPLY_LOSS (R441) -/
  | supplyLoss
  /-- RESERVE_SELF_TEST (R434) -/
  | reserveSelfTest (test : SelfTest)
  /-- COLD_RESET (R14) -/
  | coldReset
  /-- DIAGNOSIS (R460) -/
  | diagnosis (sp : Nat) (d : Rec)
  /-- SPMB (R461) -/
  | spmb (sp : Nat)
  /-- VOTE_TIMEOUT (R461) -/
  | voteTimeout (k : Nat)
  /-- REFEREE_TIMEOUT (R461) -/
  | refereeTimeout (k : Nat)
  /-- HEARTBEAT_PROBE (R467) -/
  | heartbeatProbe (die : Nat) (answered : Bool)
  /-- DIE_LOSS_RECOVERY (R473) -/
  | dieLossRecovery (die : Nat)
  /-- REBUILD_COMPLETE (R473) -/
  | rebuildComplete (die : Nat)
  /-- PACKAGE_LOSS (R477) -/
  | packageLoss (pkg : Nat)
  /-- GATEWAY_LOSS (R478) -/
  | gatewayLoss (die : Nat)
  /-- CHECKPOINT_BOUNDARY (R470) -/
  | checkpointBoundary (p : Nat)
  /-- UNDO_LOG_FULL (R468) -/
  | undoLogFull (die : Nat)
  /-- WATCHDOG (R479) -/
  | watchdog (p : Nat)
  /-- SP_PREEMPT_COMMAND (R216) -/
  | spPreemptCommand (c : CoreName)
  /-- SET_GOVERNOR_BUDGET (R30) -/
  | setGovernorBudget (die units : Nat)
  /-- INSTALL_REGION (R465) -/
  | installRegion (sp : Nat)
  /-- REMOVE_REGION (R465) -/
  | removeRegion (sp : Nat)
  /-- SET_CHECKPOINT_INTERVAL (R465) -/
  | setCheckpointInterval (sp : Nat)
  /-- HOLD_PARTITION (R479) -/
  | holdPartition (sp : Nat)
  /-- RELEASE_PARTITION (R465) -/
  | releasePartition (sp : Nat)
  /-- HALT_DIE (R479) -/
  | haltDie (sp : Nat)
  /-- RESUME_DIE (R465) -/
  | resumeDie (sp : Nat)
  /-- RESTART_CORE (R480) -/
  | restartCore (sp : Nat)
  /-- SET_BUDGET_REQUEST (R465) -/
  | setBudgetRequest (sp : Nat)
  /-- ATTESTATION (R493) -/
  | attestation (sp : Nat)
  /-- HOST_MEM_ACCESS (R484) -/
  | hostMemAccess (a : HostAccess)
  /-- HOSTBI (R484) -/
  | hostbi (line : Nat) (answer : Option (List W32))
  /-- SNOOP_TIMEOUT (R484) -/
  | snoopTimeout (k : Nat)
  /-- UE_SEND (R490) -/
  | ueSend (port : Nat)
  /-- UE_RECEIVE (R490) -/
  | ueReceive (port : Nat) (peer : Nat) (data : List Byte)
  /-- LINK_TRAINING (R491) -/
  | linkTraining (link : Nat) (ours theirs : Nat)
  /-- PATROL_SCRUB (R488) -/
  | patrolScrub (place : ScrubAt) (found : Scrubbed)
  /-- FIRMWARE_VERIFY (R492) -/
  | firmwareVerify (sp : Nat) (image : List Byte)
  /-- DISCOVERY_FLOOD (R495) -/
  | discoveryFlood (serial : Word) (plane : Nat)
  /-- IMAGE_MULTICAST (R495) -/
  | imageMulticast (image : List Byte)
  /-- REGISTER_WRITE (R485) -/
  | registerWrite (offset : Nat) (data : Word)
  /-- DEBUGGER_BREAK_REQUEST (R183) -/
  | debuggerBreakRequest (c : CoreName)
  /-- SP_PARTNER_LOST (R467) -/
  | spPartnerLost (sp : Nat)
  /-- UE_SEND_COMPLETION (R490) -/
  | ueSendCompletion (port : Nat) (status : Byte)
  /-- SPILL_WRITE_ACCEPTED (R148) -/
  | spillWriteAccepted (c : CoreName) (k : Nat)
  /-- MAILBOX_REQUEST_MALFORMED (R465) -/
  | mailboxRequestMalformed (sp : Nat)
  deriving DecidableEq, Repr

end Sys2Proof
end

