-- ==== Sys2Proof/WellFormed.lean ====
section
/-! DEFINITION. Well-formed instructions: those that are the meaning of some word. -/

namespace Sys2Proof

/-- The shift amount of an immediate shift is below the width (R158). -/
def shiftOk (i : BitVec 12) (n : Nat) : Bool := decide (i.toNat < n)

/-- The instruction is what some word means: an immediate shift has an amount in range (R158); a `jal` has a link
register, since with d = 0 the word is `b` (R162); a step of the device or of the outside world has no word. -/
def WellFormed : Instr → Bool
  | .shlImmD _ _ i => shiftOk i 64
  | .shrImmD _ _ i => shiftOk i 64
  | .sarImmD _ _ i => shiftOk i 64
  | .shlImmW _ _ i => shiftOk i 32
  | .shrImmW _ _ i => shiftOk i 32
  | .sarImmW _ _ i => shiftOk i 32
  | .jal d _ => d != 0
  | .migration _ => false
  | .issueAfterStall _ _ => false
  | .pendingFaultTake _ => false
  | .preempt _ => false
  | .interruptWaitExpiry _ => false
  | .gangStop _ => false
  | .gangResume _ => false
  | .gangRollback _ => false
  | .restart _ => false
  | .deferredPush _ => false
  | .select _ => false
  | .steal _ => false
  | .stealReply _ => false
  | .stealPauseExpiry _ => false
  | .gangBind _ => false
  | .gangReserveTimeout _ => false
  | .push _ => false
  | .claim _ => false
  | .rsv _ => false
  | .launch _ => false
  | .contextEnd _ => false
  | .contextEndHead _ => false
  | .wakeBegin _ => false
  | .wakeComplete _ => false
  | .matrixSleep _ => false
  | .routeFlit _ _ => false
  | .ejectFlit _ => false
  | .holdNotice _ => false
  | .holdNoticeReceived _ => false
  | .retransmit _ => false
  | .channelFree _ => false
  | .channelEvict _ => false
  | .linkFail _ => false
  | .scaleupLinkDead _ => false
  | .setAside _ => false
  | .setAsideRelease _ => false
  | .dieFenced _ => false
  | .qsce _ => false
  | .messageCompletion _ => false
  | .classInstall _ => false
  | .unboundHoldExpiry _ _ => false
  | .routineStart _ => false
  | .ldRequest _ => false
  | .stRequest _ => false
  | .stl _ => false
  | .amoRequest _ => false
  | .loadReturn _ => false
  | .storeComplete _ => false
  | .reg _ => false
  | .regAck _ => false
  | .regSetFree _ => false
  | .rev _ => false
  | .revAnswer _ => false
  | .wb _ => false
  | .fwd _ => false
  | .copyq _ => false
  | .copyd _ => false
  | .gsub _ => false
  | .ssub _ => false
  | .stripe _ => false
  | .engineComplete _ _ => false
  | .lostClear _ => false
  | .basinAllocGrant _ _ => false
  | .basinReadServe _ _ _ => false
  | .psum _ => false
  | .mteamJoinComplete _ => false
  | .teamPreemptTimeout _ => false
  | .tlbm _ => false
  | .tlbf _ => false
  | .shipArrival _ => false
  | .redir _ => false
  | .lineMove _ => false
  | .fingerprintExchange _ => false
  | .supplyLoss => false
  | .reserveSelfTest _ => false
  | .coldReset => false
  | .diagnosis _ _ => false
  | .spmb _ => false
  | .voteTimeout _ => false
  | .refereeTimeout _ => false
  | .heartbeatProbe _ _ => false
  | .dieLossRecovery _ => false
  | .rebuildComplete _ => false
  | .packageLoss _ => false
  | .gatewayLoss _ => false
  | .checkpointBoundary _ => false
  | .undoLogFull _ => false
  | .watchdog _ => false
  | .spPreemptCommand _ => false
  | .setGovernorBudget _ _ => false
  | .installRegion _ => false
  | .removeRegion _ => false
  | .setCheckpointInterval _ => false
  | .holdPartition _ => false
  | .releasePartition _ => false
  | .haltDie _ => false
  | .resumeDie _ => false
  | .restartCore _ => false
  | .setBudgetRequest _ => false
  | .attestation _ => false
  | .hostMemAccess _ => false
  | .hostbi _ _ => false
  | .snoopTimeout _ => false
  | .ueSend _ => false
  | .ueReceive _ _ _ => false
  | .linkTraining _ _ _ => false
  | .patrolScrub _ _ => false
  | .firmwareVerify _ _ => false
  | .discoveryFlood _ _ => false
  | .imageMulticast _ => false
  | .registerWrite _ _ => false
  | .debuggerBreakRequest _ => false
  | .spPartnerLost _ => false
  | .ueSendCompletion _ _ => false
  | .spillWriteAccepted _ _ => false
  | .mailboxRequestMalformed _ => false
  | _ => true

end Sys2Proof
end

