-- ==== Sys2Proof/Decode.lean ====
section
/-! DEFINITION. The decoder (R98 to R110) and, after it, the encoder. An instruction is decoded from the bytes at rising
addresses (R4); every pattern that is no instruction is rejected by name. -/

namespace Sys2Proof

/-- Why bytes are no instruction (R110). The number is the major opcode. -/
inductive Reject
  /-- bytes are missing -/
  | short
  /-- a reserved 16-bit major, or a reserved sub or bit-5 value of R108 -/
  | code16 (major : Nat)
  /-- a 32-bit major not in R109 -/
  | major (major : Nat)
  /-- an unassigned minor -/
  | minor (major : Nat)
  /-- a nonzero unused field or a reserved field value (R99) -/
  | field (major : Nat)
  deriving DecidableEq, Repr

/-- Length in bytes of what was rejected (R98). -/
def Reject.len : Reject → Nat
  | .short => 0
  | .code16 _ => 2
  | .major _ => 4
  | .minor _ => 4
  | .field _ => 4

/-- The group that owns a 32-bit major, as its bit in kcap0 (R109, R112). -/
def groupOf (major : Nat) : Nat :=
  if major = 0x37 then 4
  else if 0x30 ≤ major ∧ major ≤ 0x36 then 1
  else if major = 0x48 then 3
  else if major = 0x4C ∨ major = 0x4D then 2
  else if major = 0x50 then 5
  else 0

/-- The group whose absence governs the rejected pattern (R110, R111): the base group for a reserved major. -/
def Reject.group : Reject → Nat
  | .minor m => groupOf m
  | .field m => groupOf m
  | _ => 0

/-- The instruction if the fields it does not use are as they must be (R99). -/
def need (major : Nat) (b : Bool) (i : Instr) : Except Reject Instr := if b then .ok i else .error (.field major)

/-- Go on with the width that W selects (R100). -/
def withWidth (major : Nat) (w : BitVec 2) (f : Width → Except Reject Instr) : Except Reject Instr :=
  if w = 0 then f .d64 else if w = 1 then f .w32 else .error (.field major)

/-- Go on with the lane width that lw selects (R104). -/
def withLane (major : Nat) (w : BitVec 2) (f : Lane → Except Reject Instr) : Except Reject Instr :=
  if w = 0 then f .b8 else if w = 1 then f .h16 else if w = 2 then f .w32 else .error (.field major)

/-- Go on with the ordering that fn[5:4] of an atomic selects (R109). -/
def withOrder (major : Nat) (w : BitVec 2) (f : AmoOrder → Except Reject Instr) : Except Reject Instr :=
  if w = 0 then f .plain else if w = 1 then f .acq else if w = 2 then f .rel else .error (.field major)

/-- Go on with the mask that me and pm give (R104). -/
def withMask (major : Nat) (w : W32) (f : Option (BitVec 3) → Except Reject Instr) : Except Reject Instr :=
  if bit w 26 then f (some (bits w 13 3)) else if bits w 13 3 = 0 then f none else .error (.field major)

/-- Major 0x01 (R109). -/
def decodeAlu (w : W32) : Except Reject Instr :=
  withWidth 0x01 (bits w 13 2) fun q =>
  match (bits w 25 7).toNat with
  | 0 => .ok (.add q (bits w 8 5) (bits w 15 5) (bits w 20 5))
  | 1 => .ok (.sub q (bits w 8 5) (bits w 15 5) (bits w 20 5))
  | 2 => .ok (.and q (bits w 8 5) (bits w 15 5) (bits w 20 5))
  | 3 => .ok (.or q (bits w 8 5) (bits w 15 5) (bits w 20 5))
  | 4 => .ok (.xor q (bits w 8 5) (bits w 15 5) (bits w 20 5))
  | 5 => .ok (.shl q (bits w 8 5) (bits w 15 5) (bits w 20 5))
  | 6 => .ok (.shr q (bits w 8 5) (bits w 15 5) (bits w 20 5))
  | 7 => .ok (.sar q (bits w 8 5) (bits w 15 5) (bits w 20 5))
  | 8 => .ok (.slt q (bits w 8 5) (bits w 15 5) (bits w 20 5))
  | 9 => .ok (.sltu q (bits w 8 5) (bits w 15 5) (bits w 20 5))
  | 10 => .ok (.min q (bits w 8 5) (bits w 15 5) (bits w 20 5))
  | 11 => .ok (.max q (bits w 8 5) (bits w 15 5) (bits w 20 5))
  | _ => .error (.minor 0x01)

/-- Major 0x02 (R109). -/
def decodeMulDiv (w : W32) : Except Reject Instr :=
  withWidth 0x02 (bits w 13 2) fun q =>
  match (bits w 25 7).toNat with
  | 0 => .ok (.mul q (bits w 8 5) (bits w 15 5) (bits w 20 5))
  | 1 => .ok (.mulh q (bits w 8 5) (bits w 15 5) (bits w 20 5))
  | 2 => .ok (.div q (bits w 8 5) (bits w 15 5) (bits w 20 5))
  | 3 => .ok (.rem q (bits w 8 5) (bits w 15 5) (bits w 20 5))
  | _ => .error (.minor 0x02)

/-- Major 0x03 (R109). -/
def decodeImmD1 (w : W32) : Except Reject Instr :=
  match (bits w 13 2).toNat with
  | 0 => .ok (.addImmD (bits w 8 5) (bits w 15 5) (bits w 20 12))
  | 1 => .ok (.andImmD (bits w 8 5) (bits w 15 5) (bits w 20 12))
  | 2 => .ok (.orImmD (bits w 8 5) (bits w 15 5) (bits w 20 12))
  | 3 => .ok (.xorImmD (bits w 8 5) (bits w 15 5) (bits w 20 12))
  | _ => .error (.minor 0x03)

/-- Major 0x04 (R109). -/
def decodeImmD2 (w : W32) : Except Reject Instr :=
  match (bits w 13 2).toNat with
  | 0 => need 0x04 (decide ((bits w 20 12).toNat < 64)) (.shlImmD (bits w 8 5) (bits w 15 5) (bits w 20 12))
  | 1 => need 0x04 (decide ((bits w 20 12).toNat < 64)) (.shrImmD (bits w 8 5) (bits w 15 5) (bits w 20 12))
  | 2 => need 0x04 (decide ((bits w 20 12).toNat < 64)) (.sarImmD (bits w 8 5) (bits w 15 5) (bits w 20 12))
  | 3 => .ok (.sltImmD (bits w 8 5) (bits w 15 5) (bits w 20 12))
  | _ => .error (.minor 0x04)

/-- Major 0x05 (R109). -/
def decodeImmD3 (w : W32) : Except Reject Instr :=
  match (bits w 13 2).toNat with
  | 0 => .ok (.sltuImmD (bits w 8 5) (bits w 15 5) (bits w 20 12))
  | 1 => .ok (.minImmD (bits w 8 5) (bits w 15 5) (bits w 20 12))
  | 2 => .ok (.maxImmD (bits w 8 5) (bits w 15 5) (bits w 20 12))
  | 3 => .ok (.mulImmD (bits w 8 5) (bits w 15 5) (bits w 20 12))
  | _ => .error (.minor 0x05)

/-- Major 0x06 (R109). -/
def decodeLi (w : W32) : Except Reject Instr :=
  .ok (.li (bits w 8 5) (bits w 13 19))

/-- Major 0x07 (R109). -/
def decodeLeaPc (w : W32) : Except Reject Instr :=
  .ok (.leaPc (bits w 8 5) (bits w 13 19))

/-- Major 0x08 (R109). -/
def decodeLeaJr (w : W32) : Except Reject Instr :=
  match (bits w 13 2).toNat with
  | 0 => .ok (.leaReg (bits w 8 5) (bits w 15 5) (bits w 20 12))
  | 1 => need 0x08 (bits w 8 5 == 0) (.jr (bits w 15 5) (bits w 20 12))
  | _ => .error (.minor 0x08)

/-- Major 0x09 (R109). -/
def decodeBranch (w : W32) : Except Reject Instr :=
  match (bits w 12 3).toNat with
  | 0 => .ok (.beq (bits w 15 5) (bits w 20 5) (bits w 25 7 ++ bits w 8 4))
  | 1 => .ok (.bne (bits w 15 5) (bits w 20 5) (bits w 25 7 ++ bits w 8 4))
  | 2 => .ok (.blt (bits w 15 5) (bits w 20 5) (bits w 25 7 ++ bits w 8 4))
  | 3 => .ok (.bge (bits w 15 5) (bits w 20 5) (bits w 25 7 ++ bits w 8 4))
  | 4 => .ok (.bltu (bits w 15 5) (bits w 20 5) (bits w 25 7 ++ bits w 8 4))
  | 5 => .ok (.bgeu (bits w 15 5) (bits w 20 5) (bits w 25 7 ++ bits w 8 4))
  | _ => .error (.minor 0x09)

/-- Major 0x0A (R109). -/
def decodeJal (w : W32) : Except Reject Instr :=
  if bits w 8 5 = 0 then .ok (.b (bits w 13 19)) else .ok (.jal (bits w 8 5) (bits w 13 19))

/-- Major 0x0B (R109). -/
def decodeImmW1 (w : W32) : Except Reject Instr :=
  match (bits w 13 2).toNat with
  | 0 => .ok (.addImmW (bits w 8 5) (bits w 15 5) (bits w 20 12))
  | 1 => .ok (.andImmW (bits w 8 5) (bits w 15 5) (bits w 20 12))
  | 2 => .ok (.orImmW (bits w 8 5) (bits w 15 5) (bits w 20 12))
  | 3 => .ok (.xorImmW (bits w 8 5) (bits w 15 5) (bits w 20 12))
  | _ => .error (.minor 0x0B)

/-- Major 0x0C (R109). -/
def decodeImmW2 (w : W32) : Except Reject Instr :=
  match (bits w 13 2).toNat with
  | 0 => need 0x0C (decide ((bits w 20 12).toNat < 32)) (.shlImmW (bits w 8 5) (bits w 15 5) (bits w 20 12))
  | 1 => need 0x0C (decide ((bits w 20 12).toNat < 32)) (.shrImmW (bits w 8 5) (bits w 15 5) (bits w 20 12))
  | 2 => need 0x0C (decide ((bits w 20 12).toNat < 32)) (.sarImmW (bits w 8 5) (bits w 15 5) (bits w 20 12))
  | 3 => .ok (.sltImmW (bits w 8 5) (bits w 15 5) (bits w 20 12))
  | _ => .error (.minor 0x0C)

/-- Major 0x0D (R109). -/
def decodeImmW3 (w : W32) : Except Reject Instr :=
  match (bits w 13 2).toNat with
  | 0 => .ok (.sltuImmW (bits w 8 5) (bits w 15 5) (bits w 20 12))
  | 1 => .ok (.minImmW (bits w 8 5) (bits w 15 5) (bits w 20 12))
  | 2 => .ok (.maxImmW (bits w 8 5) (bits w 15 5) (bits w 20 12))
  | 3 => .ok (.mulImmW (bits w 8 5) (bits w 15 5) (bits w 20 12))
  | _ => .error (.minor 0x0D)

/-- Major 0x0E (R109). -/
def decodeSystem (w : W32) : Except Reject Instr :=
  match (bits w 13 6).toNat with
  | 0 => need 0x0E (bits w 19 5 == 0) (.krd (bits w 8 5) (bits w 24 8))
  | 1 => need 0x0E (bits w 8 5 == 0) (.kwr (bits w 19 5) (bits w 24 8))
  | 2 => need 0x0E (bits w 8 5 == 0 && bits w 19 5 == 0) (.trap (bits w 24 8))
  | 3 => need 0x0E (bits w 8 5 == 0 && bits w 19 13 == 0) .kret
  | 4 => need 0x0E (bits w 8 5 == 0 && bits w 19 5 == 0) (.ebrk (bits w 24 8))
  | 5 => need 0x0E (bits w 8 5 == 0 && bits w 19 13 == 0) .halt
  | 6 => need 0x0E (bits w 8 5 == 0 && bits w 19 1 == 0) (.wait (bits w 29 3) (bits w 26 3) (bits w 23 3) (bits w 20 3))
  | 7 => need 0x0E (bits w 8 5 == 0 && bits w 19 13 == 0) .rend
  | 8 => need 0x0E (bits w 8 5 == 0 && bits w 19 13 == 0) .nop
  | _ => .error (.minor 0x0E)

/-- Major 0x0F (R109). -/
def decodeFork (w : W32) : Except Reject Instr :=
  match (bits w 25 7).toNat with
  | 0 => need 0x0F (bits w 8 7 == 0) (.fork (bits w 15 5) (bits w 20 5))
  | _ => .error (.minor 0x0F)

/-- Major 0x10 (R109). -/
def decodeFmt (w : W32) : Except Reject Instr :=
  .ok (.fmt (bits w 28 4) (bits w 24 4) (bits w 20 4) (bits w 15 5) (bits w 10 5) (bits w 8 2))

/-- Major 0x18 (R109). -/
def decodeLd (w : W32) : Except Reject Instr :=
  .ok (.ld (bits w 13 2) (bits w 8 5) (bits w 15 5) (bits w 20 12))

/-- Major 0x19 (R109). -/
def decodeLdAcq (w : W32) : Except Reject Instr :=
  .ok (.ldAcq (bits w 13 2) (bits w 8 5) (bits w 15 5) (bits w 20 12))

/-- Major 0x1A (R109). -/
def decodeSt (w : W32) : Except Reject Instr :=
  .ok (.st (bits w 13 2) (bits w 8 5) (bits w 15 5) (bits w 20 12))

/-- Major 0x1B (R109). -/
def decodeStRel (w : W32) : Except Reject Instr :=
  .ok (.stRel (bits w 13 2) (bits w 8 5) (bits w 15 5) (bits w 20 12))

/-- Major 0x1C (R109). -/
def decodeAmo (w : W32) : Except Reject Instr :=
  withOrder 0x1C (bits w 29 2) fun q => withWidth 0x1C (bits w 13 2) fun x =>
  if bit w 31 then .error (.field 0x1C) else
  match (bits w 25 4).toNat with
  | 0 => .ok (.amoSwap q x (bits w 8 5) (bits w 15 5) (bits w 20 5))
  | 1 => .ok (.amoCas q x (bits w 8 5) (bits w 15 5) (bits w 20 5))
  | 2 => .ok (.amoAdd q x (bits w 8 5) (bits w 15 5) (bits w 20 5))
  | 3 => .ok (.amoAnd q x (bits w 8 5) (bits w 15 5) (bits w 20 5))
  | 4 => .ok (.amoOr q x (bits w 8 5) (bits w 15 5) (bits w 20 5))
  | 5 => .ok (.amoXor q x (bits w 8 5) (bits w 15 5) (bits w 20 5))
  | 6 => .ok (.amoMin q x (bits w 8 5) (bits w 15 5) (bits w 20 5))
  | 7 => .ok (.amoMax q x (bits w 8 5) (bits w 15 5) (bits w 20 5))
  | 8 => if x = .w32 then .ok (.amoFadd q (bits w 8 5) (bits w 15 5) (bits w 20 5)) else .error (.field 0x1C)
  | _ => .error (.minor 0x1C)

/-- Major 0x1D (R109). -/
def decodeAccess (w : W32) : Except Reject Instr :=
  match (bits w 25 7).toNat with
  | 0 => need 0x1D (bits w 8 17 == 0) .fenceAcq
  | 1 => need 0x1D (bits w 8 17 == 0) .fenceRel
  | 2 => need 0x1D (bits w 8 17 == 0) .fenceFull
  | 8 => need 0x1D (bits w 13 2 == 0) (.stashMap (bits w 8 5) (bits w 15 5) (bits w 20 5))
  | 9 => need 0x1D (bits w 8 7 == 0) (.stashUnmap (bits w 15 5) (bits w 20 5))
  | 10 => need 0x1D (bits w 8 7 == 0) (.stashWb (bits w 15 5) (bits w 20 5))
  | 16 => need 0x1D (bits w 8 7 == 0) (.spill (bits w 15 5) (bits w 20 5))
  | 17 => need 0x1D (bits w 13 2 == 0) (.fill (bits w 8 5) (bits w 15 5) (bits w 20 5))
  | 24 => need 0x1D (bits w 13 2 == 0 && bits w 20 5 == 0) (.tstate (bits w 8 5) (bits w 15 5))
  | 32 => need 0x1D (bits w 12 3 == 0 && bits w 20 5 == 0) (.tmld (bits w 15 5) (bits w 8 4))
  | 33 => need 0x1D (bits w 12 3 == 0 && bits w 20 5 == 0) (.tmst (bits w 15 5) (bits w 8 4))
  | _ => .error (.minor 0x1D)

/-- Major 0x20 (R109). -/
def decodeSched (w : W32) : Except Reject Instr :=
  match (bits w 25 7).toNat with
  | 0 => need 0x20 (bits w 13 2 == 0) (.spawn (bits w 8 5) (bits w 15 5) (bits w 20 5))
  | 1 => need 0x20 (bits w 13 2 == 0) (.spawnt (bits w 8 5) (bits w 15 5) (bits w 20 5))
  | 2 => need 0x20 (bits w 8 17 == 0) .retire
  | 3 => need 0x20 (bits w 8 17 == 0) .yield
  | 4 => need 0x20 (bits w 13 2 == 0) (.chopen (bits w 8 5) (bits w 15 5) (bits w 20 5))
  | 5 => need 0x20 (bits w 13 2 == 0 && bits w 20 5 == 0) (.chclose (bits w 8 5) (bits w 15 5))
  | 6 => need 0x20 (bits w 13 2 == 0) (.nest (bits w 8 5) (bits w 15 5) (bits w 20 5))
  | 8 => need 0x20 (bits w 13 2 == 0) (.chbudget (bits w 8 5) (bits w 15 5) (bits w 20 5))
  | 9 => need 0x20 (bits w 13 2 == 0) (.chprio (bits w 8 5) (bits w 15 5) (bits w 20 5))
  | _ => .error (.minor 0x20)

/-- Major 0x21 (R109). -/
def decodeNextIt (w : W32) : Except Reject Instr :=
  need 0x21 (bits w 8 5 == 0) (.nextit (bits w 13 19))

/-- Major 0x30 (R109). -/
def decodeVFloat (w : W32) : Except Reject Instr :=
  withLane 0x30 (bits w 27 2) fun l =>
  match (bits w 29 3).toNat with
  | 0 => withMask 0x30 w fun p => .ok (.vfadd l p (bits w 8 5) (bits w 16 5) (bits w 21 5))
  | 1 => withMask 0x30 w fun p => .ok (.vfsub l p (bits w 8 5) (bits w 16 5) (bits w 21 5))
  | 2 => withMask 0x30 w fun p => .ok (.vfmul l p (bits w 8 5) (bits w 16 5) (bits w 21 5))
  | 3 => withMask 0x30 w fun p => .ok (.vfma l p (bits w 8 5) (bits w 16 5) (bits w 21 5))
  | 4 => withMask 0x30 w fun p => .ok (.vfms l p (bits w 8 5) (bits w 16 5) (bits w 21 5))
  | 5 => withMask 0x30 w fun p => .ok (.vfmin l p (bits w 8 5) (bits w 16 5) (bits w 21 5))
  | 6 => withMask 0x30 w fun p => .ok (.vfmax l p (bits w 8 5) (bits w 16 5) (bits w 21 5))
  | 7 => withMask 0x30 w fun p => need 0x30 (bits w 21 5 == 0) (.vfabs l p (bits w 8 5) (bits w 16 5))
  | _ => .error (.minor 0x30)

/-- Major 0x31 (R109). -/
def decodeVInt (w : W32) : Except Reject Instr :=
  withLane 0x31 (bits w 27 2) fun l =>
  match (bits w 29 3).toNat with
  | 0 => withMask 0x31 w fun p => .ok (.vadd l p (bits w 8 5) (bits w 16 5) (bits w 21 5))
  | 1 => withMask 0x31 w fun p => .ok (.vsub l p (bits w 8 5) (bits w 16 5) (bits w 21 5))
  | 2 => withMask 0x31 w fun p => .ok (.vmul l p (bits w 8 5) (bits w 16 5) (bits w 21 5))
  | 3 => withMask 0x31 w fun p => .ok (.vmin l p (bits w 8 5) (bits w 16 5) (bits w 21 5))
  | 4 => withMask 0x31 w fun p => .ok (.vmax l p (bits w 8 5) (bits w 16 5) (bits w 21 5))
  | 5 => withMask 0x31 w fun p => .ok (.vand l p (bits w 8 5) (bits w 16 5) (bits w 21 5))
  | 6 => withMask 0x31 w fun p => .ok (.vor l p (bits w 8 5) (bits w 16 5) (bits w 21 5))
  | 7 => withMask 0x31 w fun p => .ok (.vxor l p (bits w 8 5) (bits w 16 5) (bits w 21 5))
  | _ => .error (.minor 0x31)

/-- Major 0x32 (R109). -/
def decodeVShift (w : W32) : Except Reject Instr :=
  withLane 0x32 (bits w 27 2) fun l =>
  match (bits w 29 3).toNat with
  | 0 => withMask 0x32 w fun p => .ok (.vshl l p (bits w 8 5) (bits w 16 5) (bits w 21 5))
  | 1 => withMask 0x32 w fun p => .ok (.vshr l p (bits w 8 5) (bits w 16 5) (bits w 21 5))
  | 2 => withMask 0x32 w fun p => .ok (.vsar l p (bits w 8 5) (bits w 16 5) (bits w 21 5))
  | 3 => withMask 0x32 w fun p => .ok (.vsadd l p (bits w 8 5) (bits w 16 5) (bits w 21 5))
  | 4 => withMask 0x32 w fun p => .ok (.vssub l p (bits w 8 5) (bits w 16 5) (bits w 21 5))
  | 5 => withMask 0x32 w fun p => need 0x32 (bits w 21 5 == 0) (.vabs l p (bits w 8 5) (bits w 16 5))
  | 6 => withMask 0x32 w fun p => need 0x32 (bits w 21 5 == 0) (.vneg l p (bits w 8 5) (bits w 16 5))
  | _ => .error (.minor 0x32)

/-- Major 0x33 (R109). -/
def decodeVCompare (w : W32) : Except Reject Instr :=
  withLane 0x33 (bits w 27 2) fun l =>
  match (bits w 29 3).toNat with
  | 0 => withMask 0x33 w fun p => need 0x33 (bits w 11 2 == 0) (.vcmpeq l p (bits w 8 3) (bits w 16 5) (bits w 21 5))
  | 1 => withMask 0x33 w fun p => need 0x33 (bits w 11 2 == 0) (.vcmplt l p (bits w 8 3) (bits w 16 5) (bits w 21 5))
  | 2 => withMask 0x33 w fun p => need 0x33 (bits w 11 2 == 0) (.vcmple l p (bits w 8 3) (bits w 16 5) (bits w 21 5))
  | 3 => withMask 0x33 w fun p => need 0x33 (bits w 11 2 == 0) (.vfcmpeq l p (bits w 8 3) (bits w 16 5) (bits w 21 5))
  | 4 => withMask 0x33 w fun p => need 0x33 (bits w 11 2 == 0) (.vfcmplt l p (bits w 8 3) (bits w 16 5) (bits w 21 5))
  | 5 => withMask 0x33 w fun p => need 0x33 (bits w 11 2 == 0) (.vfcmple l p (bits w 8 3) (bits w 16 5) (bits w 21 5))
  | 6 => need 0x33 (bits w 26 1 == 1) (.vsel l (bits w 13 3) (bits w 8 5) (bits w 16 5) (bits w 21 5))
  | _ => .error (.minor 0x33)

/-- Major 0x34 (R109). -/
def decodeVReduce (w : W32) : Except Reject Instr :=
  withLane 0x34 (bits w 27 2) fun l =>
  match (bits w 29 3).toNat with
  | 0 => withMask 0x34 w fun p => .ok (.vfredsum l p (bits w 8 5) (bits w 16 5) (bits w 21 5))
  | 1 => withMask 0x34 w fun p => .ok (.vfredmax l p (bits w 8 5) (bits w 16 5) (bits w 21 5))
  | 2 => withMask 0x34 w fun p => .ok (.vfredmin l p (bits w 8 5) (bits w 16 5) (bits w 21 5))
  | 3 => withMask 0x34 w fun p => .ok (.vredsum l p (bits w 8 5) (bits w 16 5) (bits w 21 5))
  | 4 => withMask 0x34 w fun p => .ok (.vredmax l p (bits w 8 5) (bits w 16 5) (bits w 21 5))
  | 5 => withMask 0x34 w fun p => .ok (.vredmin l p (bits w 8 5) (bits w 16 5) (bits w 21 5))
  | 6 => withMask 0x34 w fun p => .ok (.vperm l p (bits w 8 5) (bits w 16 5) (bits w 21 5))
  | 7 => withMask 0x34 w fun p => .ok (.vslide l p (bits w 8 5) (bits w 16 5) (bits w 21 5))
  | _ => .error (.minor 0x34)

/-- Major 0x35 (R109). -/
def decodeVConvert (w : W32) : Except Reject Instr :=
  withLane 0x35 (bits w 27 2) fun l =>
  match (bits w 29 3).toNat with
  | 0 => withMask 0x35 w fun p => need 0x35 (bits w 24 1 == 0) (.vcvt l p (bits w 8 5) (bits w 16 5) (bit w 25) (bits w 21 3))
  | 1 => need 0x35 (bits w 13 3 == 0 && bits w 26 1 == 0) (.vcvts l (bits w 8 5) (bits w 16 5) (bits w 21 5))
  | 2 => withMask 0x35 w fun p => need 0x35 (bits w 21 5 == 0) (.vexp2 l p (bits w 8 5) (bits w 16 5))
  | 3 => withMask 0x35 w fun p => need 0x35 (bits w 21 5 == 0) (.vrcp l p (bits w 8 5) (bits w 16 5))
  | 4 => withMask 0x35 w fun p => need 0x35 (bits w 21 5 == 0) (.vrsq l p (bits w 8 5) (bits w 16 5))
  | 5 => withMask 0x35 w fun p => need 0x35 (bits w 21 5 == 0) (.vbcast l p (bits w 8 5) (bits w 16 5))
  | 6 => need 0x35 (bits w 13 3 == 0 && bits w 26 1 == 0) (.vextr l (bits w 8 5) (bits w 16 5) (bits w 21 5))
  | _ => .error (.minor 0x35)

/-- Major 0x36 (R109). -/
def decodeVMem (w : W32) : Except Reject Instr :=
  match (bits w 13 2).toNat with
  | 0 => .ok (.vld (bits w 8 5) (bits w 15 5) (bits w 20 12))
  | 1 => .ok (.vst (bits w 8 5) (bits w 15 5) (bits w 20 12))
  | _ => .error (.minor 0x36)

/-- Major 0x37 (R109). -/
def decodePage (w : W32) : Except Reject Instr :=
  match (bits w 29 3).toNat with
  | 0 => withMask 0x37 w fun p => need 0x37 (bits w 27 2 == 1) (.kvdec p (bits w 8 5) (bits w 16 5) (bits w 21 5))
  | 1 => need 0x37 (bits w 13 3 == 0 && bits w 26 3 == 4) (.kvscore (bits w 8 5) (bits w 16 5) (bits w 21 5))
  | 2 => withMask 0x37 w fun p => need 0x37 (bits w 27 2 == 2) (.topk p (bits w 8 5) (bits w 16 5) (bits w 21 5))
  | _ => .error (.minor 0x37)

/-- Major 0x40 (R109). -/
def decodeMessage (w : W32) : Except Reject Instr :=
  match (bits w 25 7).toNat with
  | 0 => need 0x40 (bits w 13 2 == 0) (.send (bits w 8 5) (bits w 15 5) (bits w 20 5))
  | 1 => need 0x40 (bits w 13 2 == 0) (.sendd (bits w 8 5) (bits w 15 5) (bits w 20 5))
  | 2 => need 0x40 (bits w 13 2 == 0) (.cbind (bits w 8 5) (bits w 15 5) (bits w 20 5))
  | 3 => need 0x40 (bits w 13 2 == 0 && bits w 20 5 == 0) (.cunbind (bits w 8 5) (bits w 15 5))
  | 4 => need 0x40 (bits w 8 17 == 0) .mret
  | 5 => need 0x40 (bits w 13 2 == 0) (.mpoll (bits w 8 5) (bits w 15 5) (bits w 20 5))
  | _ => .error (.minor 0x40)

/-- Major 0x44 (R109). -/
def decodeCopy (w : W32) : Except Reject Instr :=
  match (bits w 13 3).toNat with
  | 0 => need 0x44 (bits w 16 4 == 0 && bits w 25 1 == 0) (.copy (bits w 8 5) (bits w 26 6) (bits w 20 5))
  | 1 => need 0x44 (bits w 25 1 == 0) (.copym (bits w 8 5) (bits w 26 6) (bits w 20 5) (bits w 16 4))
  | 2 => .ok (.gather (bits w 8 5) (bits w 26 6) (bits w 20 6) (bits w 16 4))
  | 3 => .ok (.scatter (bits w 8 5) (bits w 26 6) (bits w 20 6) (bits w 16 4))
  | 4 => need 0x44 (bits w 16 4 == 0 && bits w 25 7 == 0) (.cfill (bits w 8 5) (bits w 20 5))
  | 5 => need 0x44 (bits w 16 4 == 0 && bits w 25 1 == 0) (.kvmove (bits w 8 5) (bits w 26 6) (bits w 20 5))
  | 6 => need 0x44 (bits w 16 4 == 0 && bits w 25 7 == 0) (.stripeUpd (bits w 8 5) (bits w 20 5))
  | 7 => need 0x44 (bits w 16 4 == 0 && bits w 25 7 == 0) (.stripeRec (bits w 8 5) (bits w 20 5))
  | _ => .error (.minor 0x44)

/-- Major 0x48 (R109). -/
def decodeBasin (w : W32) : Except Reject Instr :=
  match (bits w 13 3).toNat with
  | 0 => need 0x48 (bits w 16 4 == 0 && bits w 25 1 == 0) (.balloc (bits w 8 5) (bits w 26 6) (bits w 20 5))
  | 1 => need 0x48 (bits w 16 10 == 0) (.bseal (bits w 8 5) (bits w 26 6))
  | 2 => need 0x48 (bits w 16 10 == 0) (.bld (bits w 8 5) (bits w 26 6))
  | 3 =>
    if bits w 16 4 = 1 then need 0x48 (bits w 20 6 == 0 && bits w 8 5 == 0) (.bforfeitT (bits w 26 6))
    else need 0x48 (bits w 16 4 == 0 && bits w 25 7 == 0) (.bforfeit (bits w 8 5) (bits w 20 5))
  | 4 => need 0x48 (bits w 25 7 == 0) (.bquery (bits w 8 5) (bits w 20 5) (bits w 16 4))
  | 5 => need 0x48 (bits w 16 4 == 0 && bits w 25 7 == 0) (.bpart (bits w 8 5) (bits w 20 5))
  | _ => .error (.minor 0x48)

/-- Major 0x4C (R109). -/
def decodeMatrix1 (w : W32) : Except Reject Instr :=
  match (bits w 13 3).toNat with
  | 0 => need 0x4C (bits w 16 4 == 0 && bits w 25 7 == 0) (.mteamJoin (bits w 8 5) (bits w 20 5))
  | 1 => need 0x4C (bits w 16 16 == 0) (.mteamLeave (bits w 8 5))
  | 2 => need 0x4C (bits w 25 1 == 0) (.mldb (bits w 26 6) (bits w 20 5) (bits w 16 4) (bits w 8 5))
  | 3 => need 0x4C (bits w 25 1 == 0) (.mlda (bits w 26 6) (bits w 20 5) (bits w 16 4) (bits w 8 5))
  | 4 => need 0x4C (bits w 16 4 == 0 && bits w 25 1 == 0) (.mma (bits w 26 6) (bits w 20 5) (bits w 8 5))
  | 5 => need 0x4C (bits w 16 4 == 0 && bits w 25 1 == 0) (.mmat (bits w 26 6) (bits w 20 5) (bits w 8 5))
  | 6 => need 0x4C (bits w 8 5 == 0 && bits w 16 10 == 0) (.mzero (bits w 26 6))
  | 7 => need 0x4C (bits w 25 1 == 0) (.mst (bits w 8 5) (bits w 26 6) (bits w 20 5) (bits w 16 4))
  | _ => .error (.minor 0x4C)

/-- Major 0x4D (R109). -/
def decodeMatrix2 (w : W32) : Except Reject Instr :=
  match (bits w 13 3).toNat with
  | 0 => need 0x4D (bits w 25 7 == 0) (.mchk (bits w 8 5) (bits w 20 5) (bits w 16 4))
  | 1 => need 0x4D (bits w 16 4 == 0 && bits w 25 7 == 0) (.nkey (bits w 8 5) (bits w 20 5))
  | 2 => need 0x4D (bits w 16 4 == 0 && bits w 25 7 == 0) (.mmember (bits w 20 5) (bits w 8 5))
  | 3 => need 0x4D (bits w 16 4 == 0 && bits w 25 7 == 0) (.ngen (bits w 8 5) (bits w 20 5))
  | 4 => need 0x4D (bits w 16 4 == 0 && bits w 25 7 == 0) (.ngrad (bits w 8 5) (bits w 20 5))
  | _ => .error (.minor 0x4D)

/-- Major 0x50 (R109). -/
def decodeWalk (w : W32) : Except Reject Instr :=
  match (bits w 25 7).toNat with
  | 0 => need 0x50 (bits w 13 2 == 0) (.tlbw (bits w 8 5) (bits w 15 5) (bits w 20 5))
  | 1 => need 0x50 (bits w 13 2 == 0) (.tlbi (bits w 8 5) (bits w 15 5) (bits w 20 5))
  | 2 => need 0x50 (bits w 13 7 == 0) (.tlbig (bits w 8 5) (bits w 20 5))
  | 3 => need 0x50 (bits w 13 2 == 0) (.ship (bits w 8 5) (bits w 15 5) (bits w 20 5))
  | 4 => need 0x50 (bits w 13 2 == 0) (.migrBegin (bits w 8 5) (bits w 15 5) (bits w 20 5))
  | 5 => need 0x50 (bits w 13 2 == 0 && bits w 20 5 == 0) (.migrEnd (bits w 8 5) (bits w 15 5))
  | _ => .error (.minor 0x50)

/-- Major 0x51 (R109). -/
def decodePageReq (w : W32) : Except Reject Instr :=
  match (bits w 25 7).toNat with
  | 0 => need 0x51 (bits w 13 2 == 0) (.pgreq (bits w 8 5) (bits w 15 5) (bits w 20 5))
  | _ => .error (.minor 0x51)

/-- Major 0x54 (R109). -/
def decodeHinge (w : W32) : Except Reject Instr :=
  match (bits w 25 7).toNat with
  | 0 => need 0x54 (bits w 13 12 == 0) (.pair (bits w 8 5))
  | 1 => need 0x54 (bits w 13 12 == 0) (.unpair (bits w 8 5))
  | 2 => need 0x54 (bits w 13 12 == 0) (.fpx (bits w 8 5))
  | 3 => need 0x54 (bits w 13 2 == 0 && bits w 20 5 == 0) (.pstat (bits w 8 5) (bits w 15 5))
  | _ => .error (.minor 0x54)

/-- Major 0x58 (R109). -/
def decodeReserve (w : W32) : Except Reject Instr :=
  match (bits w 25 7).toNat with
  | 0 => need 0x58 (bits w 13 2 == 0) (.msdecl (bits w 8 5) (bits w 15 5) (bits w 20 5))
  | 1 => need 0x58 (bits w 13 2 == 0 && bits w 20 5 == 0) (.msopen (bits w 8 5) (bits w 15 5))
  | 2 => need 0x58 (bits w 13 2 == 0 && bits w 20 5 == 0) (.msclose (bits w 8 5) (bits w 15 5))
  | 3 => need 0x58 (bits w 13 2 == 0) (.msquery (bits w 8 5) (bits w 15 5) (bits w 20 5))
  | _ => .error (.minor 0x58)

/-- A 32-bit instruction, by its major opcode (R109). -/
def decode32 (w : W32) : Except Reject Instr :=
  match (bits w 1 7).toNat with
  | 0x01 => decodeAlu w
  | 0x02 => decodeMulDiv w
  | 0x03 => decodeImmD1 w
  | 0x04 => decodeImmD2 w
  | 0x05 => decodeImmD3 w
  | 0x06 => decodeLi w
  | 0x07 => decodeLeaPc w
  | 0x08 => decodeLeaJr w
  | 0x09 => decodeBranch w
  | 0x0A => decodeJal w
  | 0x0B => decodeImmW1 w
  | 0x0C => decodeImmW2 w
  | 0x0D => decodeImmW3 w
  | 0x0E => decodeSystem w
  | 0x0F => decodeFork w
  | 0x10 => decodeFmt w
  | 0x18 => decodeLd w
  | 0x19 => decodeLdAcq w
  | 0x1A => decodeSt w
  | 0x1B => decodeStRel w
  | 0x1C => decodeAmo w
  | 0x1D => decodeAccess w
  | 0x20 => decodeSched w
  | 0x21 => decodeNextIt w
  | 0x30 => decodeVFloat w
  | 0x31 => decodeVInt w
  | 0x32 => decodeVShift w
  | 0x33 => decodeVCompare w
  | 0x34 => decodeVReduce w
  | 0x35 => decodeVConvert w
  | 0x36 => decodeVMem w
  | 0x37 => decodePage w
  | 0x40 => decodeMessage w
  | 0x44 => decodeCopy w
  | 0x48 => decodeBasin w
  | 0x4C => decodeMatrix1 w
  | 0x4D => decodeMatrix2 w
  | 0x50 => decodeWalk w
  | 0x51 => decodePageReq w
  | 0x54 => decodeHinge w
  | 0x58 => decodeReserve w
  | m => .error (.major m)

/-- A 16-bit instruction, by its major (R108). -/
def decode16 (h : BitVec 16) : Except Reject Instr :=
  match (bits h 1 4).toNat with
  | 1 => .ok (if bit h 5 then .sub16 (bits h 6 5) (bits h 11 5) else .add16 (bits h 6 5) (bits h 11 5))
  | 2 => .ok (if bit h 5 then .or16 (bits h 6 5) (bits h 11 5) else .and16 (bits h 6 5) (bits h 11 5))
  | 3 => if bit h 5 then .error (.code16 3) else .ok (.xor16 (bits h 6 5) (bits h 11 5))
  | 4 => .ok (.addImm16 (bits h 5 5) (bits h 10 6))
  | 5 => .ok (.li16 (bits h 5 5) (bits h 10 6))
  | 6 => .ok (.shl16 (bits h 5 5) (bits h 10 6))
  | 7 => .ok (.shr16 (bits h 5 5) (bits h 10 6))
  | 8 => .ok (.sar16 (bits h 5 5) (bits h 10 6))
  | 9 => .ok (.ld16 (bits h 5 5) (bits h 10 6))
  | 10 => .ok (.st16 (bits h 5 5) (bits h 10 6))
  | 11 => .ok (.b16 (bits h 5 11))
  | 12 => .ok (.beq16 (bits h 5 5) (bits h 10 6))
  | 13 => .ok (.bne16 (bits h 5 5) (bits h 10 6))
  | 14 =>
    match (bits h 5 6).toNat with
    | 0 => .ok (.jr16 (bits h 11 5))
    | 1 => if bits h 11 5 = 0 then .ok .nop16 else .error (.code16 14)
    | 2 => if bits h 11 5 = 0 then .ok .rend16 else .error (.code16 14)
    | 3 => if bits h 11 5 = 0 then .ok .ebrk16 else .error (.code16 14)
    | _ => .error (.code16 14)
  | m => .error (.code16 m)

/-- The instruction at the head of the bytes, and the bytes after it (R98). -/
def decode : List Byte → Except Reject (Instr × List Byte)
  | b0 :: b1 :: rest =>
    if bit b0 0 then
      match rest with
      | b2 :: b3 :: rest => (decode32 (b3 ++ b2 ++ b1 ++ b0)).map fun i => (i, rest)
      | _ => .error .short
    else (decode16 (b1 ++ b0)).map fun i => (i, rest)
  | _ => .error .short

/-! ## The encoder -/

/-- Code of W (R100). -/
def Width.code : Width → BitVec 2
  | .d64 => 0
  | .w32 => 1

/-- Code of lw (R104). -/
def Lane.code : Lane → BitVec 2
  | .b8 => 0
  | .h16 => 1
  | .w32 => 2

/-- Code of fn[5:4] of an atomic (R109). -/
def AmoOrder.code : AmoOrder → BitVec 2
  | .plain => 0
  | .acq => 1
  | .rel => 2

/-- Bit me of a mask operand (R104). -/
def maskOn (p : Option (BitVec 3)) : BitVec 1 := if p.isSome then 1 else 0
/-- Field pm of a mask operand (R104). -/
def maskNo (p : Option (BitVec 3)) : BitVec 3 := p.getD 0

/-- Format G (R100). -/
def formatG (fn : BitVec 7) (b a : Reg) (w : BitVec 2) (d : Reg) (major : BitVec 7) : W32 :=
  fn ++ b ++ a ++ w ++ d ++ major ++ 1#1
/-- Layouts I12 (R101) and M (R102). -/
def formatI (i : BitVec 12) (a : Reg) (fn : BitVec 2) (d : Reg) (major : BitVec 7) : W32 :=
  i ++ a ++ fn ++ d ++ major ++ 1#1
/-- Layouts I19 (R101) and B19 (R103). -/
def formatL (i : BitVec 19) (d : Reg) (major : BitVec 7) : W32 := i ++ d ++ major ++ 1#1
/-- Layout B12 (R103); `o` is off[11:1]. -/
def formatB (o : BitVec 11) (b a : Reg) (cond : BitVec 3) (major : BitVec 7) : W32 :=
  bits o 4 7 ++ b ++ a ++ cond ++ bits o 0 4 ++ major ++ 1#1
/-- Format V (R104). -/
def formatV (fn : BitVec 3) (lw : BitVec 2) (me : BitVec 1) (b a : BitVec 5) (pm : BitVec 3) (d : BitVec 5)
    (major : BitVec 7) : W32 := fn ++ lw ++ me ++ b ++ a ++ pm ++ d ++ major ++ 1#1
/-- Format X (R105). -/
def formatX (t u : BitVec 6) (m : BitVec 4) (fn : BitVec 3) (d : BitVec 5) (major : BitVec 7) : W32 :=
  t ++ u ++ m ++ fn ++ d ++ major ++ 1#1
/-- Format K (R106), major 0x0E. -/
def formatK (kn : BitVec 8) (a : BitVec 5) (fn : BitVec 6) (d : BitVec 5) : W32 :=
  kn ++ a ++ fn ++ d ++ 0x0E#7 ++ 1#1
/-- Format P (R107). -/
def formatP (fa fb fd : BitVec 4) (sa sb : BitVec 5) (es : BitVec 2) : W32 :=
  fa ++ fb ++ fd ++ sa ++ sb ++ es ++ 0x10#7 ++ 1#1

/-- The 32-bit word of an instruction (R100 to R109). -/
def encode32 : Instr → Option W32
  | .add w d a b => some (formatG 0 b a w.code d 0x01)
  | .sub w d a b => some (formatG 1 b a w.code d 0x01)
  | .and w d a b => some (formatG 2 b a w.code d 0x01)
  | .or w d a b => some (formatG 3 b a w.code d 0x01)
  | .xor w d a b => some (formatG 4 b a w.code d 0x01)
  | .shl w d a b => some (formatG 5 b a w.code d 0x01)
  | .shr w d a b => some (formatG 6 b a w.code d 0x01)
  | .sar w d a b => some (formatG 7 b a w.code d 0x01)
  | .slt w d a b => some (formatG 8 b a w.code d 0x01)
  | .sltu w d a b => some (formatG 9 b a w.code d 0x01)
  | .min w d a b => some (formatG 10 b a w.code d 0x01)
  | .max w d a b => some (formatG 11 b a w.code d 0x01)
  | .mul w d a b => some (formatG 0 b a w.code d 0x02)
  | .mulh w d a b => some (formatG 1 b a w.code d 0x02)
  | .div w d a b => some (formatG 2 b a w.code d 0x02)
  | .rem w d a b => some (formatG 3 b a w.code d 0x02)
  | .addImmD d a i => some (formatI i a 0 d 0x03)
  | .andImmD d a i => some (formatI i a 1 d 0x03)
  | .orImmD d a i => some (formatI i a 2 d 0x03)
  | .xorImmD d a i => some (formatI i a 3 d 0x03)
  | .shlImmD d a i => some (formatI i a 0 d 0x04)
  | .shrImmD d a i => some (formatI i a 1 d 0x04)
  | .sarImmD d a i => some (formatI i a 2 d 0x04)
  | .sltImmD d a i => some (formatI i a 3 d 0x04)
  | .sltuImmD d a i => some (formatI i a 0 d 0x05)
  | .minImmD d a i => some (formatI i a 1 d 0x05)
  | .maxImmD d a i => some (formatI i a 2 d 0x05)
  | .mulImmD d a i => some (formatI i a 3 d 0x05)
  | .addImmW d a i => some (formatI i a 0 d 0x0B)
  | .andImmW d a i => some (formatI i a 1 d 0x0B)
  | .orImmW d a i => some (formatI i a 2 d 0x0B)
  | .xorImmW d a i => some (formatI i a 3 d 0x0B)
  | .shlImmW d a i => some (formatI i a 0 d 0x0C)
  | .shrImmW d a i => some (formatI i a 1 d 0x0C)
  | .sarImmW d a i => some (formatI i a 2 d 0x0C)
  | .sltImmW d a i => some (formatI i a 3 d 0x0C)
  | .sltuImmW d a i => some (formatI i a 0 d 0x0D)
  | .minImmW d a i => some (formatI i a 1 d 0x0D)
  | .maxImmW d a i => some (formatI i a 2 d 0x0D)
  | .mulImmW d a i => some (formatI i a 3 d 0x0D)
  | .li d i => some (formatL i d 0x06)
  | .leaPc d i => some (formatL i d 0x07)
  | .leaReg d a i => some (formatI i a 0 d 0x08)
  | .jr a i => some (formatI i a 1 0 0x08)
  | .beq a b o => some (formatB o b a 0 0x09)
  | .bne a b o => some (formatB o b a 1 0x09)
  | .blt a b o => some (formatB o b a 2 0x09)
  | .bge a b o => some (formatB o b a 3 0x09)
  | .bltu a b o => some (formatB o b a 4 0x09)
  | .bgeu a b o => some (formatB o b a 5 0x09)
  | .jal d o => some (formatL o d 0x0A)
  | .b o => some (formatL o 0 0x0A)
  | .krd d k => some (formatK k 0 0 d)
  | .kwr a k => some (formatK k a 1 0)
  | .trap i => some (formatK i 0 2 0)
  | .kret => some (formatK 0 0 3 0)
  | .ebrk i => some (formatK i 0 4 0)
  | .halt => some (formatK 0 0 5 0)
  | .wait l s c x => some (formatK (l ++ s ++ bits c 1 2) (bits c 0 1 ++ x ++ 0#1) 6 0)
  | .rend => some (formatK 0 0 7 0)
  | .nop => some (formatK 0 0 8 0)
  | .fork a b => some (formatG 0 b a 0 0 0x0F)
  | .fmt f g h s t e => some (formatP f g h s t e)
  | .ld z d a o => some (formatI o a z d 0x18)
  | .ldAcq z d a o => some (formatI o a z d 0x19)
  | .st z d a o => some (formatI o a z d 0x1A)
  | .stRel z d a o => some (formatI o a z d 0x1B)
  | .amoSwap q w d a b => some (formatG (0#1 ++ q.code ++ 0#4) b a w.code d 0x1C)
  | .amoCas q w d a b => some (formatG (0#1 ++ q.code ++ 1#4) b a w.code d 0x1C)
  | .amoAdd q w d a b => some (formatG (0#1 ++ q.code ++ 2#4) b a w.code d 0x1C)
  | .amoAnd q w d a b => some (formatG (0#1 ++ q.code ++ 3#4) b a w.code d 0x1C)
  | .amoOr q w d a b => some (formatG (0#1 ++ q.code ++ 4#4) b a w.code d 0x1C)
  | .amoXor q w d a b => some (formatG (0#1 ++ q.code ++ 5#4) b a w.code d 0x1C)
  | .amoMin q w d a b => some (formatG (0#1 ++ q.code ++ 6#4) b a w.code d 0x1C)
  | .amoMax q w d a b => some (formatG (0#1 ++ q.code ++ 7#4) b a w.code d 0x1C)
  | .amoFadd q d a b => some (formatG (0#1 ++ q.code ++ 8#4) b a 1 d 0x1C)
  | .fenceAcq => some (formatG 0 0 0 0 0 0x1D)
  | .fenceRel => some (formatG 1 0 0 0 0 0x1D)
  | .fenceFull => some (formatG 2 0 0 0 0 0x1D)
  | .stashMap d a b => some (formatG 8 b a 0 d 0x1D)
  | .stashUnmap a b => some (formatG 9 b a 0 0 0x1D)
  | .stashWb a b => some (formatG 10 b a 0 0 0x1D)
  | .spill a b => some (formatG 16 b a 0 0 0x1D)
  | .fill d a b => some (formatG 17 b a 0 d 0x1D)
  | .tstate d a => some (formatG 24 0 a 0 d 0x1D)
  | .tmld a m => some (formatG 32 0 a 0 (0#1 ++ m) 0x1D)
  | .tmst a m => some (formatG 33 0 a 0 (0#1 ++ m) 0x1D)
  | .spawn d a b => some (formatG 0 b a 0 d 0x20)
  | .spawnt d a b => some (formatG 1 b a 0 d 0x20)
  | .retire => some (formatG 2 0 0 0 0 0x20)
  | .yield => some (formatG 3 0 0 0 0 0x20)
  | .chopen d a b => some (formatG 4 b a 0 d 0x20)
  | .chclose d a => some (formatG 5 0 a 0 d 0x20)
  | .nest d a b => some (formatG 6 b a 0 d 0x20)
  | .chbudget d a b => some (formatG 8 b a 0 d 0x20)
  | .chprio d a b => some (formatG 9 b a 0 d 0x20)
  | .nextit o => some (formatL o 0 0x21)
  | .vfadd l p d a b => some (formatV 0 l.code (maskOn p) b a (maskNo p) d 0x30)
  | .vfsub l p d a b => some (formatV 1 l.code (maskOn p) b a (maskNo p) d 0x30)
  | .vfmul l p d a b => some (formatV 2 l.code (maskOn p) b a (maskNo p) d 0x30)
  | .vfma l p d a b => some (formatV 3 l.code (maskOn p) b a (maskNo p) d 0x30)
  | .vfms l p d a b => some (formatV 4 l.code (maskOn p) b a (maskNo p) d 0x30)
  | .vfmin l p d a b => some (formatV 5 l.code (maskOn p) b a (maskNo p) d 0x30)
  | .vfmax l p d a b => some (formatV 6 l.code (maskOn p) b a (maskNo p) d 0x30)
  | .vfabs l p d a => some (formatV 7 l.code (maskOn p) 0 a (maskNo p) d 0x30)
  | .vadd l p d a b => some (formatV 0 l.code (maskOn p) b a (maskNo p) d 0x31)
  | .vsub l p d a b => some (formatV 1 l.code (maskOn p) b a (maskNo p) d 0x31)
  | .vmul l p d a b => some (formatV 2 l.code (maskOn p) b a (maskNo p) d 0x31)
  | .vmin l p d a b => some (formatV 3 l.code (maskOn p) b a (maskNo p) d 0x31)
  | .vmax l p d a b => some (formatV 4 l.code (maskOn p) b a (maskNo p) d 0x31)
  | .vand l p d a b => some (formatV 5 l.code (maskOn p) b a (maskNo p) d 0x31)
  | .vor l p d a b => some (formatV 6 l.code (maskOn p) b a (maskNo p) d 0x31)
  | .vxor l p d a b => some (formatV 7 l.code (maskOn p) b a (maskNo p) d 0x31)
  | .vshl l p d a s => some (formatV 0 l.code (maskOn p) s a (maskNo p) d 0x32)
  | .vshr l p d a s => some (formatV 1 l.code (maskOn p) s a (maskNo p) d 0x32)
  | .vsar l p d a s => some (formatV 2 l.code (maskOn p) s a (maskNo p) d 0x32)
  | .vsadd l p d a b => some (formatV 3 l.code (maskOn p) b a (maskNo p) d 0x32)
  | .vssub l p d a b => some (formatV 4 l.code (maskOn p) b a (maskNo p) d 0x32)
  | .vabs l p d a => some (formatV 5 l.code (maskOn p) 0 a (maskNo p) d 0x32)
  | .vneg l p d a => some (formatV 6 l.code (maskOn p) 0 a (maskNo p) d 0x32)
  | .vcmpeq l p d a b => some (formatV 0 l.code (maskOn p) b a (maskNo p) (0#2 ++ d) 0x33)
  | .vcmplt l p d a b => some (formatV 1 l.code (maskOn p) b a (maskNo p) (0#2 ++ d) 0x33)
  | .vcmple l p d a b => some (formatV 2 l.code (maskOn p) b a (maskNo p) (0#2 ++ d) 0x33)
  | .vfcmpeq l p d a b => some (formatV 3 l.code (maskOn p) b a (maskNo p) (0#2 ++ d) 0x33)
  | .vfcmplt l p d a b => some (formatV 4 l.code (maskOn p) b a (maskNo p) (0#2 ++ d) 0x33)
  | .vfcmple l p d a b => some (formatV 5 l.code (maskOn p) b a (maskNo p) (0#2 ++ d) 0x33)
  | .vsel l p d a b => some (formatV 6 l.code 1 b a p d 0x33)
  | .vfredsum l p d a b => some (formatV 0 l.code (maskOn p) b a (maskNo p) d 0x34)
  | .vfredmax l p d a b => some (formatV 1 l.code (maskOn p) b a (maskNo p) d 0x34)
  | .vfredmin l p d a b => some (formatV 2 l.code (maskOn p) b a (maskNo p) d 0x34)
  | .vredsum l p d a b => some (formatV 3 l.code (maskOn p) b a (maskNo p) d 0x34)
  | .vredmax l p d a b => some (formatV 4 l.code (maskOn p) b a (maskNo p) d 0x34)
  | .vredmin l p d a b => some (formatV 5 l.code (maskOn p) b a (maskNo p) d 0x34)
  | .vperm l p d a b => some (formatV 6 l.code (maskOn p) b a (maskNo p) d 0x34)
  | .vslide l p d a s => some (formatV 7 l.code (maskOn p) s a (maskNo p) d 0x34)
  | .vcvt l p d a r t => some (formatV 0 l.code (maskOn p) ((BitVec.ofBool r) ++ 0#1 ++ t) a (maskNo p) d 0x35)
  | .vcvts l d a b => some (formatV 1 l.code 0 b a 0 d 0x35)
  | .vexp2 l p d a => some (formatV 2 l.code (maskOn p) 0 a (maskNo p) d 0x35)
  | .vrcp l p d a => some (formatV 3 l.code (maskOn p) 0 a (maskNo p) d 0x35)
  | .vrsq l p d a => some (formatV 4 l.code (maskOn p) 0 a (maskNo p) d 0x35)
  | .vbcast l p d a => some (formatV 5 l.code (maskOn p) 0 a (maskNo p) d 0x35)
  | .vextr l d a b => some (formatV 6 l.code 0 b a 0 d 0x35)
  | .vld d a o => some (formatI o a 0 d 0x36)
  | .vst d a o => some (formatI o a 1 d 0x36)
  | .kvdec p d a b => some (formatV 0 1 (maskOn p) b a (maskNo p) d 0x37)
  | .kvscore d a b => some (formatV 1 2 0 b a 0 d 0x37)
  | .topk p d a b => some (formatV 2 2 (maskOn p) b a (maskNo p) d 0x37)
  | .send d a b => some (formatG 0 b a 0 d 0x40)
  | .sendd d a b => some (formatG 1 b a 0 d 0x40)
  | .cbind d a b => some (formatG 2 b a 0 d 0x40)
  | .cunbind d a => some (formatG 3 0 a 0 d 0x40)
  | .mret => some (formatG 4 0 0 0 0 0x40)
  | .mpoll d a b => some (formatG 5 b a 0 d 0x40)
  | .copy d t u => some (formatX t (0#1 ++ u) 0 0 d 0x44)
  | .copym d t u m => some (formatX t (0#1 ++ u) m 1 d 0x44)
  | .gather d t i m => some (formatX t i m 2 d 0x44)
  | .scatter d t i m => some (formatX t i m 3 d 0x44)
  | .cfill d u => some (formatX 0 (0#1 ++ u) 0 4 d 0x44)
  | .kvmove d t u => some (formatX t (0#1 ++ u) 0 5 d 0x44)
  | .stripeUpd d u => some (formatX 0 (0#1 ++ u) 0 6 d 0x44)
  | .stripeRec d u => some (formatX 0 (0#1 ++ u) 0 7 d 0x44)
  | .balloc d t u => some (formatX t (0#1 ++ u) 0 0 d 0x48)
  | .bseal d t => some (formatX t 0 0 1 d 0x48)
  | .bld d t => some (formatX t 0 0 2 d 0x48)
  | .bforfeit d u => some (formatX 0 (0#1 ++ u) 0 3 d 0x48)
  | .bforfeitT t => some (formatX t 0 1 3 0 0x48)
  | .bquery d u s => some (formatX 0 (0#1 ++ u) s 4 d 0x48)
  | .bpart d u => some (formatX 0 (0#1 ++ u) 0 5 d 0x48)
  | .mteamJoin d u => some (formatX 0 (0#1 ++ u) 0 0 d 0x4C)
  | .mteamLeave d => some (formatX 0 0 0 1 d 0x4C)
  | .mldb t u m s => some (formatX t (0#1 ++ u) m 2 s 0x4C)
  | .mlda t u m s => some (formatX t (0#1 ++ u) m 3 s 0x4C)
  | .mma t u s => some (formatX t (0#1 ++ u) 0 4 s 0x4C)
  | .mmat t u s => some (formatX t (0#1 ++ u) 0 5 s 0x4C)
  | .mzero t => some (formatX t 0 0 6 0 0x4C)
  | .mst d t u m => some (formatX t (0#1 ++ u) m 7 d 0x4C)
  | .mchk d u s => some (formatX 0 (0#1 ++ u) s 0 d 0x4D)
  | .nkey d u => some (formatX 0 (0#1 ++ u) 0 1 d 0x4D)
  | .mmember u s => some (formatX 0 (0#1 ++ u) 0 2 s 0x4D)
  | .ngen d u => some (formatX 0 (0#1 ++ u) 0 3 d 0x4D)
  | .ngrad d u => some (formatX 0 (0#1 ++ u) 0 4 d 0x4D)
  | .tlbw d a b => some (formatG 0 b a 0 d 0x50)
  | .tlbi d a b => some (formatG 1 b a 0 d 0x50)
  | .tlbig d b => some (formatG 2 b 0 0 d 0x50)
  | .ship d a b => some (formatG 3 b a 0 d 0x50)
  | .migrBegin d a b => some (formatG 4 b a 0 d 0x50)
  | .migrEnd d a => some (formatG 5 0 a 0 d 0x50)
  | .pgreq d a b => some (formatG 0 b a 0 d 0x51)
  | .pair d => some (formatG 0 0 0 0 d 0x54)
  | .unpair d => some (formatG 1 0 0 0 d 0x54)
  | .fpx d => some (formatG 2 0 0 0 d 0x54)
  | .pstat d a => some (formatG 3 0 a 0 d 0x54)
  | .msdecl d a b => some (formatG 0 b a 0 d 0x58)
  | .msopen d a => some (formatG 1 0 a 0 d 0x58)
  | .msclose d a => some (formatG 2 0 a 0 d 0x58)
  | .msquery d a b => some (formatG 3 b a 0 d 0x58)
  | _ => none

/-- The 16-bit word of an instruction (R108). -/
def encode16 : Instr → Option (BitVec 16)
  | .add16 d a => some (a ++ d ++ 0#1 ++ 1#4 ++ 0#1)
  | .sub16 d a => some (a ++ d ++ 1#1 ++ 1#4 ++ 0#1)
  | .and16 d a => some (a ++ d ++ 0#1 ++ 2#4 ++ 0#1)
  | .or16 d a => some (a ++ d ++ 1#1 ++ 2#4 ++ 0#1)
  | .xor16 d a => some (a ++ d ++ 0#1 ++ 3#4 ++ 0#1)
  | .addImm16 d i => some (i ++ d ++ 4#4 ++ 0#1)
  | .li16 d i => some (i ++ d ++ 5#4 ++ 0#1)
  | .shl16 d i => some (i ++ d ++ 6#4 ++ 0#1)
  | .shr16 d i => some (i ++ d ++ 7#4 ++ 0#1)
  | .sar16 d i => some (i ++ d ++ 8#4 ++ 0#1)
  | .ld16 d i => some (i ++ d ++ 9#4 ++ 0#1)
  | .st16 d i => some (i ++ d ++ 10#4 ++ 0#1)
  | .b16 o => some (o ++ 11#4 ++ 0#1)
  | .beq16 a o => some (o ++ a ++ 12#4 ++ 0#1)
  | .bne16 a o => some (o ++ a ++ 13#4 ++ 0#1)
  | .jr16 a => some (a ++ 0#6 ++ 14#4 ++ 0#1)
  | .nop16 => some (0#5 ++ 1#6 ++ 14#4 ++ 0#1)
  | .rend16 => some (0#5 ++ 2#6 ++ 14#4 ++ 0#1)
  | .ebrk16 => some (0#5 ++ 3#6 ++ 14#4 ++ 0#1)
  | _ => none

/-- The bytes of an instruction at rising addresses (R4); none for a step without an encoding. -/
def encode (i : Instr) : List Byte :=
  match encode32 i with
  | some w => [bits w 0 8, bits w 8 8, bits w 16 8, bits w 24 8]
  | none =>
    match encode16 i with
    | some h => [bits h 0 8, bits h 8 8]
    | none => []

/-- The `n` bytes of `w`, least significant first. -/
def tableBytes : Nat → Nat → List Byte
  | 0, _ => []
  | n + 1, w => BitVec.ofNat 8 w :: tableBytes n (w / 256)

/-- The instruction whose bits are `w`, numbered as the opcode table numbers them; bits above `nbits` are 0. -/
def decodeTableWord (nbits w : Nat) : Option Instr :=
  match decode (tableBytes (nbits / 8) w ++ [0, 0, 0, 0]) with
  | .ok r => some r.1
  | .error _ => none

end Sys2Proof
end

