-- ==== Sys2Proof/Config.lean ====
section
/-! DEFINITION. What the spec leaves open: free values without a body, so that nothing can be proved of them
(each is named in the assumption log). -/

namespace Sys2Proof.Config

/-- A value the spec leaves open, by the model's counter (log 2). -/
opaque freeWord : Nat → Word
/-- The page, bits [56:12], that the task stack ends at (R46), by start. -/
opaque stackPage : Nat → BitVec 45
/-- Bits [56:2] of the address of the resident routine that retires the task (R46), by start. -/
opaque residentRoutine : Nat → BitVec 55
/-- The first of the 4 KiB frames that the translation service keeps to back scratch pages (R126), as address / 4096. -/
opaque framePool : BitVec 40
/-- The folding function of the fingerprint (R423). -/
opaque fold : Word → List Word → Word
/-- SHA-256 (R492). -/
opaque sha256 : List Byte → BitVec 256
/-- Whether an image's signature verifies under the root key (R492). -/
opaque imageVerifies : List Byte → Bool
/-- The package's fused serial number (R495). -/
opaque serial : Word
/-- The signature and certificate of an attestation (R493). -/
opaque attest : List Byte → List Byte
/-- Which entry a full TLB of `n` entries replaces (R398). -/
opaque tlbVictim : Nat → Nat → Nat
/-- The outputs of a router (die, site) that shorten the distance to a unit, in its order of preference (R271, R272). -/
opaque productive : (die site : Nat) → (dstDie dstSite : Nat) → List Nat
/-- Every output of a router (R271). -/
opaque outputs : (die site : Nat) → List Nat
/-- The router an output leads to, its input port, and the link (R271, R497). -/
opaque neighbour : (die site port : Nat) → Nat × Nat × Nat × Nat
/-- A die's cycle count when an event is written, by event (R463, R494). -/
opaque cycles : Nat → BitVec 48

end Sys2Proof.Config
end

