-- ==== Sys2Proof/Machine/CoreState.lean ====
section
/-! DEFINITION. The state of one core (R22): its sequencers, access unit, vector and matrix units, scheduler,
message dispatcher and hinge-pair checker. Plain data; the meanings are in the other files of Machine/. -/

namespace Sys2Proof.Machine

/-- A unit and its port (R267 DST and DPORT, SRC and SPORT). -/
structure UnitName where
  pkg : BitVec 10
  die : BitVec 5
  unit : BitVec 8
  /-- the L2 slice of the cluster that holds core `unit` -/
  slice : Bool
  deriving DecidableEq, Repr

/-- The registers that the control sequencer and the routine bank each have (R150 to R153, R288). -/
structure Thread where
  g : Vector Word 32
  pc : Word
  kstatus : Word
  kcause : Word
  kaddr : Word
  kepc : Word
  kvec : Word
  kpfx : Word
  deriving DecidableEq, Repr

/-- The other control registers (R153, R365, R382). -/
structure KRegs where
  kctx : Word
  kcnt : Word
  ksent : Word
  krecv : Word
  knoise : Word
  kmember : Word
  kchk : Word
  kpower : Word
  deriving DecidableEq, Repr

/-- The outstanding-operation counters (R25, R170). -/
structure Counters where
  ocl : Nat
  ocs : Nat
  occ : Nat
  ocx : Nat
  deriving DecidableEq, Repr

/-- An engine stream (R172 to R174): its extent, latch, captured NS and register copies. -/
structure Stream where
  opened : Bool
  /-- stopped by a trap until `kret` (R177) -/
  frozen : Bool
  start : Word
  stop : Word
  pc : Word
  pp : Bool
  pfx : Word
  ns : Bool
  g : Vector Word 32
  i : Vector W32 4
  /-- opened by the last `fork` of the task (R175) -/
  last : Bool
  deriving DecidableEq, Repr

/-- Why a sequencer stalls (R26, R27, R134, R150, R169, R170, R401). -/
inductive Stall
  | register (r : Reg)
  | target (r : Reg)
  | counter
  | release
  | tile (t : TileNo)
  | lock
  | answer
  | miss
  | wake
  | unit
  | gate
  /-- an instruction of so many bytes forces an exchange (R424) -/
  | force (len : Nat)
  | stream
  | migration
  | space
  deriving DecidableEq, Repr

/-- A register held by the scoreboard until a value returns (R150, R195, R308). -/
structure Hold where
  q : Seq
  reg : Reg
  /-- an engine operation's status word has come and nothing has read it: reading it observes the completion (R146) -/
  ready : Bool
  deriving DecidableEq, Repr

/-- A load or atomic issued and not returned (R195). -/
structure LoadRec where
  id : Nat
  task : Nat
  q : Seq
  reg : Reg
  bytes : Nat
  va : Word
  pa : Nat
  acq : Bool
  left : Nat
  value : Word
  status : Byte
  /-- bytes that the store gate held at issue, by offset (R424) -/
  newer : List (Nat × Byte)
  /-- the address of the instruction, and whether it has 32 bits, for a precise ECCU (R200) -/
  epc : Word
  l32 : Bool
  deriving DecidableEq, Repr

/-- A store issued whose point is not known to have come (R195): the requests it waits for. -/
structure StoreRec where
  ids : List Nat
  task : Nat
  q : Seq
  va : Word
  /-- the bytes stored: address and number -/
  spans : List (Nat × Nat)
  status : Byte
  /-- its name in the store gate from which it was released (R425) -/
  gated : Option Nat
  deriving DecidableEq, Repr

/-- A multi-part instruction that has sent its messages and waits for the answer (R229 to R237, R414, R336). -/
structure Await where
  /-- the model's own name of the wait, which the answers to it carry -/
  id : Nat
  q : Seq
  pc : Word
  left : Nat
  /-- the bytes that have come, by the number of the request or their offset -/
  got : List (Nat × List Byte)
  status : Byte
  /-- its request has an effect, so the instruction is not abandoned (R237, R278) -/
  sent : Bool
  /-- it holds a unit of `ocl` until it ends (R257) -/
  unit : Bool
  /-- its request has an effect and the task may leave meanwhile: the answer follows the task (R231, R284) -/
  carried : Bool
  /-- its requests write words back: it outlasts a trap, and the task leaves only once they have completed (R207) -/
  back : Bool
  /-- reads asked for so far -/
  asked : Nat
  /-- requests sent and not yet answered -/
  out : Nat
  /-- the request that `status` is about -/
  fail : Nat
  deriving DecidableEq, Repr

/-- A translation miss that waits (R401). -/
structure Miss where
  q : Seq
  va : Word
  kind : Nat
  /-- the fault answer has come (R403) -/
  faulted : Bool
  /-- the token given (R401), if step 2 was reached -/
  token : Option Nat
  deriving DecidableEq, Repr

/-- Requests due at the next boundary (R183), and for which of them R184's bound has passed. -/
structure Due where
  preempt : Bool
  brk : Bool
  /-- the break request came before the PREEMPT -/
  brkFirst : Bool
  preemptForced : Bool
  brkForced : Bool
  /-- the PREEMPT is a service processor's command, which is answered once the task has been pre-empted (R216) -/
  command : Bool
  deriving DecidableEq, Repr

/-- What the core runs (R12, R167, R180, R421, R441). `leaving`: its task waits as for a release before it is saved (R188, R239,
R405). `broken`: its task is held stopped for the debugger in the resident handler (R180). `resident`: its task has taken a
detected error that waits in the resident handler for rung 4 (R72, R178). -/
inductive RunState
  | idle
  | task
  | leaving
  | halted
  | off
  | broken
  | resident
  | checker
  deriving DecidableEq, Repr

/-- The shadow set (R185, R191); in a double trap also `kcause` and `kaddr` of the second cause, for the record of R186. -/
structure Shadow where
  kstatus : Word
  kcause : Word
  kaddr : Word
  kepc : Word
  kpfx : Word
  resume : Word
  second : Option (Word × Word)
  deriving DecidableEq, Repr

/-- A scratch page of a task (R126): its virtual page if a program can name it, its backing frame, its local page. -/
structure ScratchPage where
  vpn : Option Nat
  frame : Nat
  page : Option Nat
  deriving DecidableEq, Repr

/-- The iteration fetcher's chunk (R224). -/
structure Fetcher where
  next : Word
  fin : Word
  ext : Word
  gen : W32
  deriving DecidableEq, Repr

/-- A team member's place (R49): its team coordinate and the gang that placed it. -/
structure Member where
  row : Nat
  col : Nat
  gang : Nat
  deriving DecidableEq, Repr

/-- A running, pre-empted or moving task: what belongs to it beside its registers. -/
structure Task where
  /-- the model's own name of the task -/
  id : Nat
  record : Rec
  ctx : BitVec 16
  cid : W32
  rstd : Bool
  team : Option Member
  fetcher : Fetcher
  /-- groups used, in the positions of kcap0 (R402) -/
  groups : BitVec 6
  /-- handles of the update windows held, oldest first (R440) -/
  windows : List (BitVec 12)
  scratch : List ScratchPage
  /-- global address of the save frame (R189, R216) -/
  frame : Nat
  /-- first byte of the task stack (R46) -/
  stackBase : Word
  /-- address of the resident routine that retires the task (R46) -/
  home : Word
  /-- pending faults, `kcause` then `kaddr`, oldest first (R496) -/
  pend : List (Word × Word)
  /-- detected errors due (R200, R309): `kcause`, `kaddr`, and `kepc` where it is precise, oldest first -/
  errs : List (Word × Word × Option Word)
  /-- the order of starts, for R221 -/
  started : Nat
  /-- tiles that a `bld` has made ready and no instruction has named since (R347) -/
  unseen : List TileNo
  deriving DecidableEq, Repr

/-- The kind of an element of a matrix slot or bank before conversion (R94). -/
inductive NumClass | zero | pos | neg | posInf | negInf | nan
  deriving DecidableEq, Repr

/-- A cell of a slot or bank: the fixed-point value and the class of the element it came from (R92, R94). -/
structure MCell where
  q : Int
  cls : NumClass
  deriving DecidableEq, Repr

/-- A panel of B or rows of A (R352, R353): lines of 128 K-elements, one for each row of A or column of B; four block
exponents a line (none: a NaN block, R94); and for B the checksum column by K-row (R364). -/
structure Panel where
  cells : List (List MCell)
  exps : List (List (Option Int))
  cs : List Int
  deriving DecidableEq, Repr

/-- A slot or bank: its descriptor and contents, and whether a cell of it cannot be corrected (R366). -/
structure MSlot where
  desc : Word
  panel : Panel
  bad : Bool
  deriving DecidableEq, Repr

/-- A partial sum as its owner takes it (R361, R362): its sender, operation and gang, the fields of ARG0 and ARG1, and its rows, in groups of
32 columns with zero beyond N. -/
structure Partial where
  src : CoreName
  op : Nat
  gang : Nat
  tile : TileNo
  step : Nat
  kbase : W32
  row : Nat
  col : Nat
  poison : Bool
  /-- added, in arrival mode, to a step that is not complete -/
  added : Bool
  data : List (List W32)
  deriving DecidableEq, Repr

/-- A `mteam.join` that waits (R369): its team word, its register, its sequencer. -/
structure Join where
  word : Word
  reg : Reg
  q : Seq
  deriving DecidableEq, Repr

/-- The matrix unit's power (R31). -/
inductive MPower | awake | asleep | queued | waking
  deriving DecidableEq, Repr

/-- The matrix unit (R352 to R360). -/
structure Matrix where
  slots : Vector MSlot 8
  banks : Vector MSlot 2
  accs : List Word
  reorder : List Partial
  team : Word
  join : Option Join
  power : MPower
  deriving DecidableEq, Repr

/-- The vector unit's registers (R240) and the tensor maps (R118). -/
structure VecRegs where
  v : Vector VWord 32
  p : Vector Word 8
  m : Vector TMap 16
  deriving DecidableEq, Repr

/-- The role of a page of local SRAM (R124). -/
inductive Role | free | scratch | stash | tile
  deriving DecidableEq, Repr

/-- An entry of the page-role table (R124). -/
structure Page where
  role : Role
  tile : TileNo
  loaded : Bool
  pin : Bool
  frame : BitVec 52
  deriving DecidableEq, Repr

/-- The state of a stash word other than I (R125). -/
inductive WordState | V | P | O
  deriving DecidableEq, Repr

/-- ENG of a range-lock entry (R145). -/
inductive Eng | copy | gather | matrix | basin
  deriving DecidableEq, Repr

/-- An entry of the range-lock table in use (R145), with the operations that hold it (R372). -/
structure Lock where
  eng : Eng
  dst : Bool
  ocx : Bool
  base : Nat
  bytes : Nat
  ops : List Nat
  deriving DecidableEq, Repr

/-- An entry of the store-to-load forwarding table (R148). -/
structure Spill where
  id : Nat
  frame : Nat
  bytes : List Byte
  deriving DecidableEq, Repr

/-- The progress of one piece of an engine operation (R303). -/
inductive Progress
  | todo
  | sent
  | done
  | failed (code : Byte)
  deriving DecidableEq, Repr

/-- A piece of an engine operation: at most one line, from `src` (if any) to `dst` (if any). -/
structure Move where
  src : Option Nat
  dst : Option Nat
  /-- virtual address on the memory side, for R309 -/
  va : Word
  bytes : Nat
  /-- offset of the piece in the operation's destination, for R309 -/
  offset : Nat
  data : List Byte
  poison : Bool
  st : Progress
  deriving DecidableEq, Repr

/-- What an engine operation is (R303, R323, R324, R341, R342, R371, R372, R374). -/
inductive OpKind
  | copyIn
  | copyOut
  | fill
  | gather
  | scatter
  | kvmove
  | stripeUpd (rid first count : Nat)
  | stripeRec (rid first count : Nat) (mask : BitVec 6)
  /-- by the slice, the partition and the sequence of its basin tile -/
  | bseal (slice : UnitName) (part : BitVec 23) (seq : W32)
  | bld
  | mldb (slots : List Nat)
  | mlda (bank : Nat)
  | mmat (sum : Partial) (owner : Bool) (cause : Byte)
  | mst
  deriving DecidableEq, Repr

/-- An asynchronous engine operation issued and not complete (R145, R146). -/
structure EngineOp where
  id : Nat
  task : Nat
  q : Seq
  kind : OpKind
  reg : Reg
  fn : BitVec 3
  /-- holds a unit of `ocx` rather than `occ` -/
  ocx : Bool
  tile : Option TileNo
  /-- virtual address of the memory side, for R309 -/
  va : Word
  moves : List Move
  count : Nat
  code : Byte
  addr : Word
  deriving DecidableEq, Repr

/-- A TLB entry: its context and the two doublewords of R399. -/
structure TlbEntry where
  ctx : BitVec 16
  dw0 : Word
  dw1 : Word
  deriving DecidableEq, Repr

/-- The access unit's tables (R124, R125, R145, R148, R335, R398). -/
structure Mem where
  pages : Vector Page 128
  /-- stash words not in state I, by global word number (address / 4) -/
  stash : List (Nat × WordState)
  locks : List Lock
  spills : List Spill
  tiles : Vector Word 64
  ops : List EngineOp
  tlb : List TlbEntry
  loads : List LoadRec
  stores : List StoreRec
  deriving DecidableEq, Repr

/-- A deque slot in use (R215), with its count of passes (R218). -/
structure Slot where
  record : Rec
  pcid : W32
  head : Bool
  rstd : Bool
  passes : Nat
  ctx : BitVec 16
  deriving DecidableEq, Repr

/-- The state saved for a task that left its core (R189, R216, R379). -/
structure Saved where
  task : Task
  thr : Thread
  idx : Vector W32 4
  k : KRegs
  oc : Counters
  vs : Stream
  ms : Stream
  vec : VecRegs
  tiles : Vector Word 64
  holds : List Hold
  mat : Option Matrix
  join : Bool
  /-- an instruction that was interrupted after its request had taken effect goes on with the answer (R231, R284) -/
  awaits : List Await
  deriving DecidableEq, Repr

/-- An entry of the resume list (R216). `skip`: first selection after its `yield` (R217); `placing`: its team is being placed, and
the entry is in use until the team is bound (R222). -/
structure Resume where
  saved : Saved
  yld : Bool
  skip : Bool
  placing : Bool
  deriving DecidableEq, Repr

/-- A steal attempt in progress (R219, R220). -/
structure Steal where
  circle : Nat
  start : Nat
  visited : Nat
  waiting : Bool
  paused : Bool
  deriving DecidableEq, Repr

/-- Who reserves a core (R222, R429). -/
inductive Reserved
  | gang (id : Nat)
  | pair (by_ : CoreName)
  deriving DecidableEq, Repr

/-- The scheduler of a core (R215 to R220). The deque's bottom is its head. -/
structure Sched where
  deque : List Slot
  resume : List Resume
  gen : W32
  /-- for each PRIO served: the chamber last served (R217), by context and CID -/
  served : List (Nat × BitVec 16 × W32)
  steal : Option Steal
  reserved : Option Reserved
  deriving DecidableEq, Repr

/-- A class binding as one core holds it (R283, R284). -/
structure Bind where
  /-- the model's own number of the installation, rising -/
  id : Nat
  ctx : BitVec 16
  cls : BitVec 10
  polled : Bool
  entry : Word
  handler : Word
  /-- global address of the ring, 0 for a dispatched binding -/
  buf : Nat
  cid : W32
  pm : BitVec 2
  ns : Bool
  core : CoreName
  task : Nat
  deriving DecidableEq, Repr

/-- A class message accepted at a core (R273, R286, R292). -/
structure Inbound where
  src : UnitName
  dst : UnitName
  epoch : Byte
  seq : BitVec 16
  ctx : BitVec 16
  cls : BitVec 10
  nw : Bool
  ns : Bool
  args : List Word
  data : List Word
  bind : Option Bind
  deriving DecidableEq, Repr

/-- The routine bank (R288). -/
structure Bank where
  thr : Thread
  ocl : Nat
  ocs : Nat
  bind : Bind
  src : Word
  pend : List (Word × Word)
  /-- the first instruction has not issued, and the message's narrow data differ in NS (R300) -/
  nsmis : Bool
  deriving DecidableEq, Repr

/-- The message dispatcher of a core (R283 to R292). -/
structure Msg where
  /-- the bank, which keeps the last routine's values between routines -/
  regs : Bank
  /-- a routine runs in the bank -/
  busy : Bool
  /-- the routine issued the last instruction, so the other issues next (R289) -/
  alternate : Bool
  inbox : List Inbound
  unbound : List Inbound
  fast : List Inbound
  binds : List Bind
  deriving DecidableEq, Repr

/-- The registers of R422 as held at the agreed point. -/
structure PairRegs where
  thr : Thread
  idx : Vector W32 4
  k : KRegs
  vec : VecRegs
  deriving DecidableEq, Repr

/-- A gated store (R424). -/
structure Gated where
  /-- the model's own name of it -/
  id : Nat
  va : Word
  segs : List (Nat × List Byte)
  /-- its bytes have one point (R135) -/
  whole : Bool
  deriving DecidableEq, Repr

/-- The hinge pair as its leader holds it (R421 to R431). -/
structure Pair where
  partner : CoreName
  gate : List Gated
  fp : Word
  /-- the checker's fingerprint -/
  fpPartner : Word
  count : Nat
  /-- `kcnt` of the checker, which counts each instruction too (R156) -/
  kcnt : Word
  agreedAt : PairRegs
  /-- the checker's own copy of those registers (R422) -/
  own : PairRegs
  agreed : Nat
  rolled : Nat
  /-- the first exchange after a rollback is still to come (R426) -/
  retry : Bool
  /-- an exchange has agreed at this address, and no instruction has retired since -/
  passed : Option Word
  /-- an instruction of R424 has forced it: its address, and the address after it -/
  force : Option (Word × Word)
  /-- the fingerprints have agreed, and the gate's entries are being released (R425) -/
  draining : Bool
  /-- the load or atomic that a forcing instruction issued, whose result belongs to the agreed point -/
  late : Option Nat
  deriving DecidableEq, Repr

/-- The instruction at `pc` has forced an exchange, which has agreed: it performs (R425). -/
def Pair.forces (p : Pair) (pc : Word) : Bool := p.force.any (·.1 == pc)

/-- A team member's ship that waits (R378, R405): its destination, the carried entry, the va of the miss. -/
structure Leave where
  dest : CoreName
  entry : Option TlbEntry
  va : Word
  deriving DecidableEq, Repr

/-- The control sequencer beside its thread registers. -/
structure Control where
  idx : Vector W32 4
  k : KRegs
  oc : Counters
  run : RunState
  task : Option Task
  lastCtx : Option (BitVec 16)
  due : Due
  shadow : Option Shadow
  /-- stopped by a gang stop (R191) or a halted die (R479) -/
  stopped : Bool
  stalls : List (Seq × Stall)
  holds : List Hold
  awaits : List Await
  misses : List Miss
  leave : Option Leave
  deriving DecidableEq, Repr

/-- One core (R22). -/
structure Core where
  thr : Thread
  ctl : Control
  vs : Stream
  ms : Stream
  vec : VecRegs
  mat : Matrix
  mem : Mem
  sched : Sched
  msg : Msg
  pair : Option Pair
  deriving DecidableEq, Repr

end Sys2Proof.Machine
end

