-- ==== Sys2Proof/Machine/DeviceState.lean ====
section
/-! DEFINITION. The state outside the cores: flits and channels (10), homes (05), contexts and chambers (02), dies
(01), translation services (15), basin slices (12), stripe table (11), reserve (17), service processors (18) and
gateways (19). Plain data. -/

namespace Sys2Proof.Machine

/-- The operation of an atomic (R203). -/
inductive AmoOp | swap | cas | add | and | or | xor | min | max | fadd
  deriving DecidableEq, Repr

/-- A task leaving its core (R405, R406): its saved state, the carried TLB entry, the contents of its tiles, the va of the miss, and
the 512 bytes of its ship record. -/
structure Ship where
  saved : Saved
  entry : Option TlbEntry
  tiles : List (TileNo × List Byte)
  va : Word
  record : List Byte
  deriving DecidableEq, Repr

/-- A basin request (class 22; R338 to R346). -/
inductive BasinReq
  | create (cap : Nat) (cid : W32) (limit : Nat)
  | destroy (part : BitVec 23) (cid : W32)
  /-- for a tile of the tile table of a task -/
  | alloc (part : BitVec 23) (pages reads : Nat) (cid : W32) (task : Nat) (tile : TileNo)
  | read (debt : Word) (owed room task op : Nat)
  /-- line `i` of the tile that a task's tile stages -/
  | fill (part : BitVec 23) (seq : W32) (task : Nat) (tile : TileNo) (i : Nat) (data : List Byte) (poison : Bool)
  /-- line `i` of a basin tile, for piece `i` of a core's `bld` -/
  | line (c : CoreName) (op i : Nat) (data : List Byte)
  /-- a read as the slice serves it: the tile's bytes, the lines sent, and the lines not accepted -/
  | serving (part : BitVec 23) (seq : W32) (op : Nat) (data : List Byte) (sent left : Nat)
  | forfeit (debt : Word) (owed n : Nat)
  | query (sel : Nat) (w : Word) (owed : Nat)
  deriving DecidableEq, Repr

/-- A translation request (R401, R402). -/
structure MissReq where
  va : Word
  kind : Nat
  q : Seq
  team : Bool
  groups : BitVec 6
  resume : Word
  deriving DecidableEq, Repr

/-- A message of a partial (R361): its sender, operation and gang, ARG0 to ARG2, and 32 columns of a row. -/
structure Psum where
  src : CoreName
  op : Nat
  gang : Nat
  arg0 : Word
  arg1 : Word
  arg2 : Word
  data : List Byte
  deriving DecidableEq, Repr

/-- The payload of a message (R268), by what its class carries. `value` is a completion's result; a row of a sub-list (R318) is named
by its pieces. -/
inductive Body
  | ld (pa bytes : Nat) (fill : Bool)
  | st (pa bytes : Nat) (v : Word)
  | stl (pa : Nat) (data : List Byte)
  | amo (op : AmoOp) (pa bytes : Nat) (x cmp : Word)
  | reg (line : Nat) (mask sub : W32)
  | rev (line : Nat) (mask : W32) (data : Bool) (epoch : Byte) (seq : BitVec 16)
  | wb (line : Nat) (mask : W32) (data : List W32)
  | fwd (pa bytes : Nat)
  | copyq (c : CoreName) (op : Nat)
  | copyd (c : CoreName) (op move dst : Nat) (data : List Byte) (poison : Bool)
  | gsub (c : CoreName) (op : Nat) (rows : List (List Nat))
  | ssub (c : CoreName) (op : Nat) (rows : List (List Nat))
  | steal (thief : CoreName) (groups : BitVec 6)
  | stolen (slot : Slot) (reex : Nat)
  | tlbm (m : MissReq)
  /-- with the sequencer whose miss at `va` it answers; none for a fill that nobody asked for -/
  | tlbf (e : Option TlbEntry) (q : Option Seq) (va : Word)
  | ship (s : Ship)
  | psum (p : Psum)
  | qsce (die : Nat)
  | push (slot : Slot) (need : BitVec 6)
  | claim (ctx : BitVec 16) (cid : W32)
  | basin (r : BasinReq)
  | gang (table : Nat)
  | hpair (fp : Word)
  | stripe (pa : Nat) (delta : List Byte)
  | hostbi (line : Nat) (mask : W32)
  | spmb (diag : Option Rec)
  | rsv (gang : Nat)
  | pwr (w : Word)
  | msg (args data : List Word)
  /-- in a continuation: data of a request, as a message of which it is the rest (R268) -/
  | part (b : Body)
  /-- data alone: what a continuation adds to its message -/
  | raw (data : List Byte)
  /-- in a continuation: the line data of a completion (R268) -/
  | lineData (b : Body)
  | value (ws : List Word)
  | redir (pa : Nat)
  | none
  deriving DecidableEq, Repr

/-- KIND of a flit (R267). -/
inductive Kind | request | completion | continuation | hold
  deriving DecidableEq, Repr

/-- The router a flit stands at (R271): package, physical die and the router's number on the die. -/
structure Router where
  pkg : BitVec 10
  die : Nat
  site : Nat
  deriving DecidableEq, Repr

/-- The header of a flit (R267), and its payload. -/
structure Flit where
  ver : BitVec 4
  kind : Kind
  ncont : BitVec 2
  nw : Bool
  ns : Bool
  opening : Bool
  rtx : Bool
  gen : Byte
  age : Byte
  epoch : Byte
  status : Byte
  cls : BitVec 10
  seq : BitVec 16
  ctx : BitVec 16
  plane : BitVec 3
  dst : UnitName
  src : UnitName
  inj : BitVec 21
  /-- the check over the rest (R269) -/
  ecrc : W32
  body : Body
  at_ : Router
  inPort : Nat
  /-- the link it crossed last -/
  via : Option Nat
  deriving DecidableEq, Repr

/-- A source's entry of a channel (R275). -/
structure SrcChan where
  src : UnitName
  dst : UnitName
  epoch : Byte
  next : BitVec 16
  opened : Bool
  deriving DecidableEq, Repr

/-- A cached completion (R277). -/
structure Cached where
  seq : BitVec 16
  cls : BitVec 10
  status : Byte
  body : Body
  deriving DecidableEq, Repr

/-- A destination's entry of a channel (R276, R277). -/
structure DstChan where
  src : UnitName
  dst : UnitName
  epoch : Byte
  expect : BitVec 16
  cache : List Cached
  deriving DecidableEq, Repr

/-- What a source does with the completion of a request. -/
inductive Purpose
  | load (c : CoreName) (id shift : Nat)
  | store (c : CoreName) (id : Nat)
  | send (c : CoreName) (q : Seq) (reg : Reg) (dw : Word) (task id : Nat)
  | reg (c : CoreName) (id line : Nat) (mask : W32)
  /-- the word that a store of part of it waits for: the store's number, its address and bytes (R125) -/
  | merge (c : CoreName) (id pa : Nat) (bs : List Byte)
  /-- a wait of sequencer `q`, by its name, and the place of the answer in it -/
  | await (c : CoreName) (q : Seq) (id slot : Nat)
  /-- the same for a task that has left the core -/
  | awaitOf (task id slot : Nat)
  | engine (c : CoreName) (op move : Nat)
  /-- a message of a partial, by its number -/
  | psum (c : CoreName) (op i : Nat)
  | bld (c : CoreName) (op : Nat)
  /-- a line that a slice sends for a read: the read's channel, EPOCH and SEQ -/
  | tileLine (src dst : UnitName) (epoch : Byte) (seq : BitVec 16)
  | miss (c : CoreName) (q : Seq)
  | steal (c : CoreName)
  | rev (line : Nat) (mask : W32) (owner : UnitName)
  | fwd (src dst : UnitName) (epoch : Byte) (seq : BitVec 16)
  | none
  deriving DecidableEq, Repr

/-- A request outstanding at its source (R275, R278). -/
structure Outst where
  src : UnitName
  dst : UnitName
  epoch : Byte
  seq : BitVec 16
  cls : BitVec 10
  ctx : BitVec 16
  nw : Bool
  ns : Bool
  opening : Bool
  plane : BitVec 3
  body : Body
  purpose : Purpose
  /-- a hold notice has come (R277) -/
  noticed : Bool
  /-- held at the fence of a quiescing die (R280) -/
  fence : Bool
  /-- a fill whose words are not put into the stash: the core has performed an acquire, or asked for the line again, since (R134) -/
  stale : Bool
  /-- a completion that has come without its line data, and line data that has come (R268) -/
  first : Option (Byte × Body)
  line : Option Body
  /-- the completion that has come whole: STATUS and result -/
  answer : Option (Byte × Body)
  deriving DecidableEq, Repr

/-- A request in a receive queue (R273, R276). -/
structure Recv where
  src : UnitName
  dst : UnitName
  epoch : Byte
  seq : BitVec 16
  cls : BitVec 10
  ctx : BitVec 16
  nw : Bool
  ns : Bool
  body : Body
  /-- continuations still to come, by index, and the data of those that have come -/
  left : List (BitVec 2)
  pieces : List (BitVec 2 × Body)
  notified : Bool
  /-- looked at and waiting, so that later requests of the channel pass it -/
  held : Bool
  /-- the entry that a registration waits for: its owner and line (R142) -/
  victim : Option (UnitName × Nat)
  /-- a write that has stalled for a rebuild (R325) -/
  stalled : Bool
  deriving DecidableEq, Repr

/-- A `cbind` or `cunbind` on its way to the cores (R284, R285): the binding, whether it is removed, whether one stood, the
register that takes the result, the issuing core and task, and the cores reached. The instruction's wait has the binding's number. -/
structure Install where
  bind : Bind
  remove : Bool
  was : Bool
  reg : Reg
  core : CoreName
  task : Nat
  done : List CoreName
  deriving DecidableEq, Repr

/-- The planes that a source unit's next flits take: requests and other flits on the package (R271), and flits to other packages
(R281). -/
structure Planes where
  request : BitVec 3
  other : BitVec 3
  away : BitVec 3
  deriving DecidableEq, Repr

/-- A set-aside queue (R282): its gateway egress port, which is a scale-up plane, its flow, as destination package and die, and the
flits in it, oldest first. -/
structure Aside where
  port : Nat
  flow : Nat
  flits : List Flit
  deriving DecidableEq, Repr

/-- The fabric (10). -/
structure Fabric where
  flits : List Flit
  srcCh : List SrcChan
  dstCh : List DstChan
  outst : List Outst
  rxq : List Recv
  installs : List Install
  /-- next planes of each source unit, and its injection stamp in each plane (R267) -/
  planes : List (UnitName × Planes)
  stamps : List (UnitName × BitVec 3 × BitVec 21)
  /-- failed die-to-die links (R497) and dead scale-up links (R281, R489) -/
  failed : List Nat
  dead : List Nat
  /-- set-aside queues in use (R282) -/
  asides : List Aside
  /-- versions negotiated at training, none where no major is common (R491) -/
  trained : List (Nat × Option Nat)
  deriving DecidableEq, Repr

/-- A registry entry in use (R129), with the registrations last accepted for its words (R141), the latest first: each with the words it
was the last for, its EPOCH and its SEQ; and its age (R142). -/
structure RegEntry where
  owner : UnitName
  line : Nat
  mask : W32
  rev : Bool
  regs : List (W32 × Byte × BitVec 16)
  stamp : Nat
  deriving DecidableEq, Repr

/-- A migration (R411, R418) of a partition. -/
structure Migration where
  part : Nat
  num : Nat
  old : Nat
  new : Nat
  lines : Nat
  moved : Nat
  deriving DecidableEq, Repr

/-- An undo record of the present interval (R468). -/
structure Undo where
  line : Nat
  data : List Byte
  poison : Bool
  part : Nat
  deriving DecidableEq, Repr

/-- Home slices and memory gateways beside the bytes themselves (05, R310, R411, R468). -/
structure Homes where
  /-- lines whose ECC carries the poison marker (R310), by line number -/
  poison : List Nat
  registry : List RegEntry
  migrations : List Migration
  undo : List Undo
  /-- back-invalidations outstanding at the host (R484) -/
  snoops : List (Nat × W32)
  deriving DecidableEq, Repr

/-- The NEST field of an RCB (R223). -/
structure Nest where
  gen : W32
  act : Bool
  ext : Word
  total : Nat
  next : Nat
  deriving DecidableEq, Repr

/-- A detected error that waits for the end of a chamber's re-execution (R73): its code, rung, and what a report says of the core
that raised it. -/
structure Waiting where
  code : Byte
  rung : Nat
  core : CoreName
  kepc : Word
  kaddr : Word
  kcnt : Word
  deriving DecidableEq, Repr

/-- A chamber as the device holds it (R51 to R57, R437): the fields software wrote, and those the device keeps. -/
structure Chamber where
  cid : W32
  rcb : Nat
  /-- CID of the parent, 0 for the root -/
  parent : W32
  head : Word
  msave : Word
  basin : Word
  power : Nat
  cores : Nat
  retry : Nat
  bound : Bool
  prio : Nat
  ovr : BitVec 16
  feat : BitVec 128
  frep : Word
  cst : Nat
  live : Nat
  cuse : Nat
  reex : Nat
  buse : Nat
  muse : Nat
  nest : Nest
  /-- OWN and DECL in pages (R437) -/
  own : Nat
  decl : Nat
  /-- sum of admitted weights of the chamber and its descendants (R54) -/
  weights : Nat
  /-- errors that came while CST = 3, oldest first (R73) -/
  waiting : List Waiting
  deriving DecidableEq, Repr

/-- A context (R41, R58, R468). `ckpt`: the checkpoint interval in ms, 0 when disabled. -/
structure Context where
  ctx : BitVec 16
  lrec : Nat
  lpm : Nat
  lmode : Nat
  lcnt : Nat
  recs : Nat
  ldpl : Nat
  feat : BitVec 128
  ckpt : Nat
  part : Nat
  /-- it lost memory with a package (R477, R487) -/
  lost : Bool
  nextCid : W32
  chambers : List Chamber
  deriving DecidableEq, Repr

/-- A partition of this package's logical dies (R41, R435, R468, R479). -/
structure Partition where
  dies : List Nat
  /-- its logical dies on other packages of the domain -/
  remote : List (BitVec 10 × Nat)
  share : Nat
  charged : Nat
  held : Bool
  halted : List Nat
  bseq : Nat
  stopped : Bool
  /-- the stop is a boundary's (R470) -/
  bound : Bool
  /-- the address of the gang-stop table (R192) -/
  table : Nat
  deriving DecidableEq, Repr

/-- A push that waits for a slot (R62, R71): its core, the record, and whether CST returns to 1 when the last of its
chamber is pushed (R71). -/
structure Push where
  core : CoreName
  slot : Slot
  cid : W32
  reexec : Bool
  /-- it enters at the top, so that records placed on one core run in list order (R61) -/
  last : Bool
  /-- it returns to its deque and counts in LIVE already (R218, R222) -/
  counted : Bool
  deriving DecidableEq, Repr

/-- A restart that waits for a slot (R225). -/
structure Restart where
  core : CoreName
  slot : Slot
  feat : BitVec 128
  /-- the draws that order the two circles -/
  draw1 : W32
  draw2 : W32
  deriving DecidableEq, Repr

/-- A gang reservation (R222): the team record or the saved team, the core that selected it, and the rectangle. -/
structure Gang where
  id : Nat
  home : CoreName
  slot : Slot
  cores : List CoreName
  cols : Nat
  /-- the members of a team that resumes: the core whose resume list holds each, and the task's name -/
  resume : List (CoreName × Nat)
  /-- effective PRIO at selection (R238) -/
  prio : Nat
  deriving DecidableEq, Repr

/-- Contexts, partitions and the work that waits (02, 08). -/
structure Work where
  ctxs : List Context
  nextCtx : BitVec 16
  parts : List Partition
  /-- the partition of each memory channel assigned to another than partition 0, by address / 2^41 (R128) -/
  channels : List (Nat × Nat)
  pushes : List Push
  /-- chambers whose re-execution waits for a translation of HEAD (R71), with the core that the head goes to -/
  heads : List (BitVec 16 × W32 × CoreName)
  restarts : List Restart
  gangs : List Gang
  /-- the order number of the next task start (R221) and the next task's name -/
  starts : Nat
  deriving DecidableEq, Repr

/-- A black-box event (R463) without its cycle count and CRC. -/
structure Event where
  type : Nat
  cause : Byte
  core : CoreName
  ctx : BitVec 16
  cid : W32
  addr : Word
  extra : W32
  deriving DecidableEq, Repr

/-- A physical die (R10 to R18, R30, R31, R218, R463). -/
structure Die where
  /-- the routers' die map (R14) and generation (R15) -/
  map : Vector W32 32
  gen : Byte
  /-- SKIP of each row (R17) -/
  skip : Vector (BitVec 5) 16
  /-- the last 4,096 events, oldest first, each with the name of its cycle count (log 2), and the number of events ever written -/
  bbox : List (Nat × Event)
  count : Nat
  deriving DecidableEq, Repr

/-- The power governor and wake arbiter of a logical die (R30, R31, R218). -/
structure Governor where
  budget : Nat
  sum : Nat
  head : Option (Slot × CoreName)
  wakes : List CoreName
  deriving DecidableEq, Repr

/-- A token of the translation service (R401). -/
structure Token where
  num : Nat
  core : CoreName
  q : Seq
  ctx : BitVec 16
  req : MissReq
  deriving DecidableEq, Repr

/-- The translation service of a cluster (R398 to R407). -/
structure Service where
  core : CoreName
  tlb : List TlbEntry
  /-- the frame of the miss ring (R402) -/
  ring : Nat
  tokens : List Token
  parks : List (Nat × Ship)
  deriving DecidableEq, Repr

/-- A basin tile's state (R332). -/
inductive BState | opened | sealing | sealed
  deriving DecidableEq, Repr

/-- A basin tile (R332). -/
structure BTile where
  seq : W32
  pages : Nat
  state : BState
  poison : Bool
  reads : Nat
  /-- the chamber charged and its ancestors, nearest first -/
  line : List W32
  /-- the task, and its tile, that stages it (R340) -/
  holder : Nat × TileNo
  /-- lines of the sealing fill that have come -/
  lines : Nat
  data : List Byte
  deriving DecidableEq, Repr

/-- A lane of a partition (R334). -/
structure BLane where
  cursor : W32
  pend : Option (W32 × W32)
  deriving DecidableEq, Repr

/-- An allocation that waits (R340). -/
structure BAlloc where
  key : UnitName × Byte × BitVec 16
  pages : Nat
  reads : Nat
  cid : W32
  holder : Nat × TileNo
  deriving DecidableEq, Repr

/-- A read that waits (R342). -/
structure BRead where
  core : CoreName
  key : UnitName × Byte × BitVec 16
  debt : Word
  seq : W32
  lane : Nat
  room : Nat
  task : Nat
  op : Nat
  deriving DecidableEq, Repr

/-- A basin partition (R329 to R334). -/
structure BPart where
  part : BitVec 23
  ctx : BitVec 16
  cid : W32
  cap : Nat
  used : Nat
  next : W32
  lanes : Vector BLane 16
  tiles : List BTile
  queue : List BAlloc
  reads : List BRead
  deriving DecidableEq, Repr

/-- A region of the stripe table (R320), with the CRC of its entry, and whether its pages are standing pages (R466). -/
structure Region where
  rid : Nat
  ctx : BitVec 16
  ngrp : Nat
  shards : List Nat
  lost : BitVec 6
  standing : Bool
  crc : W32
  deriving DecidableEq, Repr

/-- A must-save extent (R436). -/
structure Extent where
  num : Nat
  tag : Word
  opens : Nat
  dirty : Bool
  pages : Nat
  gen : W32
  frame : Nat
  ctx : BitVec 16
  cid : W32
  va : Word
  deriving DecidableEq, Repr

/-- The reserve controller (17): charge in mJ, capacity in pages, stop latch, extents, the image offered (R449). -/
structure Reserve where
  charge : Nat
  capacity : Nat
  stop : Bool
  extents : List Extent
  offered : Option Nat
  sluices : W32
  deriving DecidableEq, Repr

/-- A service processor (R457 to R467, R492, R494). `state` is that of R464. -/
structure SP where
  state : Nat
  measure : BitVec 256
  missed : List (Nat × Nat)
  lost : Bool
  started : Bool
  deriving DecidableEq, Repr

/-- A diagnosis under vote (R461): the two diagnoses, who began, whether the referees have it, and what they chose. -/
structure Vote where
  first : Option Rec
  second : Option Rec
  by_ : Nat
  referees : Bool
  chosen : List (Nat × Option Rec)
  deriving DecidableEq, Repr

/-- A die-loss sequence in progress (R473, R478): the logical die, and whether step 8 is still to come. -/
structure Recovery where
  die : Nat
  parts : List Nat
  /-- the chambers to re-execute, each with the core that its head goes to (R474) -/
  chambers : List (BitVec 16 × W32 × CoreName)
  deriving DecidableEq, Repr

/-- Boundary areas of a partition (R470): its cores with their local SRAM, its basin, extents, translation services and
migrations, contexts, waiting work and messages, and the sum of `krecv` (R472). -/
structure Boundary where
  part : Nat
  cores : List (CoreName × Core)
  sram : List Host.Cell
  basins : List BPart
  extents : List Extent
  services : List Service
  migrations : List Migration
  ctxs : List Context
  work : List Push × List Restart × List Gang
  heads : List (BitVec 16 × W32 × CoreName)
  govs : List (Nat × Governor)
  fab : Fabric
  received : Nat
  deriving DecidableEq, Repr

/-- The domain as this package's service processors see it (R12, R476, R477, R495). -/
structure Domain where
  pkg : BitVec 10
  packages : Nat
  /-- the scale-up and Ultra Ethernet ports are fused off (R40) -/
  fused : Bool
  /-- the local spare's physical die, while it is unused (R12) -/
  spare : Option Nat
  /-- packages with a spare to lend, and standby packages (R476, R477) -/
  lenders : List Nat
  standby : List Nat
  serials : List (Word × Nat)
  images : List (List Byte)
  deriving DecidableEq, Repr

/-- An end of a context that waits for the ring (R487). -/
structure CtxEnd where
  lrec : Nat
  ctx : BitVec 16
  how : Byte
  reex : Nat
  own : Nat
  part : Nat
  deriving DecidableEq, Repr

/-- The launch window (R485 to R487). -/
structure Window where
  /-- BUSY: the launch whose checks run (its window, LREC, the loader's must-save regions) -/
  busy : Option (LaunchWindow × Word × List (Word × Nat × Nat))
  priv : Bool
  ctx : BitVec 16
  drop : BitVec 16
  status : Byte
  head : Word
  tail : Word
  ring : List (Nat × Rec)
  waiting : List CtxEnd
  deriving DecidableEq, Repr

/-- Service processors, reserve, host and network ports (17 to 19). -/
structure Management where
  sps : Vector SP 2
  votes : List Vote
  passed : List Rec
  recov : List Recovery
  bounds : List Boundary
  domain : Domain
  win : Window
  reserve : Reserve
  /-- who wrote the mailbox lines last: 64-byte line and CTX; the host's are not listed (R466) -/
  writers : List (Nat × BitVec 16)
  /-- Ultra Ethernet sends taken and not complete: port and ring entry number (R490) -/
  ue : List (Nat × Nat)
  /-- pre-emption commands answered, by core, oldest first (R216) -/
  answered : List CoreName
  deriving DecidableEq, Repr

end Sys2Proof.Machine

namespace Sys2Proof

/-- The payload bytes of a hardware class's flit, whose layout the spec leaves open (R268; log 137). -/
opaque Config.payload : Machine.Body → List Byte
/-- What the links of a plane change in a flit's check on one hop, nothing where they change nothing: by the flit's stamp and source,
the link, and AGE (R269; log 137). -/
opaque Config.upset : (inj src link age : Nat) → W32
/-- Whether the link's own check code catches a change (R269). -/
opaque Config.linkCatches : (inj src link age : Nat) → Bool
/-- The physical dies at the two ends of a die-to-die link (R497). -/
opaque Config.linkEnds : Nat → Nat × Nat

end Sys2Proof
end

