-- ==== Sys2Proof/Machine/State.lean ====
section
/-! DEFINITION. The state of the package and the state after cold reset (R14, R150 to R153, and the Reset columns of
the chapters). -/

namespace Sys2Proof.Machine

/-- Who moves next (log 1). -/
inductive Turn
  | core (c : CoreName) (q : Seq)
  | event (i : Instr)
  deriving DecidableEq, Repr

/-- Why the machine stops. -/
inductive Fault
  /-- Raised by every instruction when PM = 0b11, which does not occur (R151). Safe: no run reaches it. -/
  | reservedPrivilege
  deriving DecidableEq, Repr

/-- Why an instruction has no meaning. -/
inductive Refusal
  /-- Raised by the arm of an instruction that is not modelled. Safe: the machine stops. -/
  | notModelled (mnemonic : String)
  deriving DecidableEq, Repr

/-- The package. -/
structure State where
  /-- the core that moves next, its sequencer, and its state -/
  cur : CoreName
  seq : Seq
  core : Core
  /-- the other cores; one not listed is as after reset -/
  cores : List (CoreName × Core)
  agenda : List Turn
  /-- the model's counter of free values -/
  fresh : Nat
  /-- the bytes of the global address space, in canonical form -/
  mem : List Host.Cell
  fab : Fabric
  homes : Homes
  work : Work
  dies : Vector Die 24
  govs : Vector Governor 16
  services : List Service
  basins : List BPart
  stripes : List Region
  mgmt : Management
  deriving DecidableEq, Repr

/-- Thread registers after cold reset: PM firmware, all else 0 (R150 to R153); pc 0 (log 3). -/
def Thread.reset : Thread :=
  ⟨Vector.replicate 32 0, 0, 0x20, 0, 0, 0, 0, 0⟩

/-- Other control registers after cold reset (R153). -/
def KRegs.reset : KRegs := ⟨0, 0, 0, 0, 0, 0, 0, 0⟩

/-- Counters after cold reset (R153). -/
def Counters.reset : Counters := ⟨0, 0, 0, 0⟩

/-- No stream open (R151). -/
def Stream.reset : Stream := ⟨false, false, 0, 0, 0, false, 0, false, Vector.replicate 32 0, Vector.replicate 4 0, false⟩

/-- Nothing due (R183). -/
def Due.reset : Due := ⟨false, false, false, false, false, false⟩

/-- The control sequencer after cold reset: idle. -/
def Control.reset : Control :=
  ⟨Vector.replicate 4 0, .reset, .reset, .idle, none, none, .reset, none, false, [], [], [], [], none⟩

/-- Vector registers, masks and tensor maps after cold reset (R118, R240). -/
def VecRegs.reset : VecRegs := ⟨Vector.replicate 32 0, Vector.replicate 8 0, Vector.replicate 16 0⟩

/-- A translation service at reset. The spec gives the frame of the miss ring no reset value: the first of the HBM4E of the first memory
die (log 10). -/
def Service.reset (c : CoreName) : Service := ⟨c, [], 0x20000000000000, [], []⟩

/-- An empty slot or bank (R352). -/
def MSlot.empty : MSlot := ⟨0, ⟨[], [], []⟩, false⟩

/-- The matrix unit after cold reset (R352 to R360); awake (log 4). -/
def Matrix.reset : Matrix :=
  ⟨Vector.replicate 8 .empty, Vector.replicate 2 .empty, [], [], 0, none, .awake⟩

/-- Access-unit tables after cold reset (R124, R129, R145, R335, R398). -/
def Mem.reset : Mem :=
  ⟨Vector.replicate 128 ⟨.free, 0, false, false, 0⟩, [], [], [], Vector.replicate 64 0, [], [], [], []⟩

/-- The scheduler of core `c` after cold reset (R215, R216, R219); nothing served (log 5). -/
def Sched.reset (c : CoreName) : Sched :=
  ⟨[], [], 0x9E3779B9#32 ^^^ (c.setWidth 32 <<< 8), [], none, none⟩

/-- The routine bank after cold reset: no routine has run (R288; log 152). -/
def Bank.reset : Bank := ⟨.reset, 0, 0, ⟨0, 0, 0, false, 0, 0, 0, 0, 0, false, 0, 0⟩, 0, [], false⟩

/-- The dispatcher after cold reset. -/
def Msg.reset : Msg := ⟨.reset, false, false, [], [], [], []⟩

/-- Core `c` after cold reset. -/
def Core.reset (c : CoreName) : Core :=
  ⟨.reset, .reset, .reset, .reset, .reset, .reset, .reset, .reset c, .reset, none⟩

/-- The die-map entry of logical die `n` as the fuses give it: V 1, live, GEN 0, PKG 0 (R14; log 9). -/
def fuseEntry (n : Nat) : W32 :=
  if n < 2 then 0x80000000#32 ||| BitVec.ofNat 32 n
  else if n < 16 then 0x80000000#32 ||| BitVec.ofNat 32 (n + 1)
  else if n < 22 then 0x80000000#32 ||| BitVec.ofNat 32 (n + 2)
  else 0

/-- A die after cold reset: the map loaded from the fuses (R14), no core fused off (R17; log 9). -/
def Die.reset : Die := ⟨Vector.ofFn (fun n => fuseEntry n.val), 0, Vector.replicate 16 16, [], 0⟩

/-- A governor after cold reset (R30). -/
def Governor.reset : Governor := ⟨1024, 0, none, []⟩

/-- No work: one partition of logical dies 0 to 21 (log 8). -/
def Work.reset : Work :=
  ⟨[], 1, [⟨List.range 22, [], 0, 0, false, [], 0, false, false, 0⟩], [], [], [], [], [], 0⟩

/-- An empty fabric; round robin and stamps at 0 (log 6). -/
def Fabric.reset : Fabric := ⟨[], [], [], [], [], [], [], [], [], [], [], []⟩

/-- Homes after cold reset (R129). -/
def Homes.reset : Homes := ⟨[], [], [], [], []⟩

/-- The launch window after reset (R485). -/
def Window.reset : Window := ⟨.none, false, 0, 0, 0xFF, 0, 0, [], []⟩

/-- Service processors, reserve and ports after cold reset (R434, R464, R492, R494); the domain (log 9). -/
def Management.reset : Management :=
  ⟨Vector.replicate 2 ⟨0, 0, [], false, false⟩, [], [], [], [],
   ⟨0, 1, false, some 17, [], [], [], []⟩, .reset, ⟨0, 0, false, [], none, 0⟩, [], [], []⟩

/-- The machine right after cold reset. -/
def State.reset : State where
  cur := 0
  seq := .control
  core := .reset 0
  cores := []
  agenda := []
  fresh := 0
  mem := []
  fab := .reset
  homes := .reset
  work := .reset
  dies := Vector.replicate 24 .reset
  govs := Vector.replicate 16 .reset
  services := []
  basins := []
  stripes := []
  mgmt := .reset

end Sys2Proof.Machine
end

