-- ==== Sys2Proof/Machine/Bytes.lean ====
section
/-! DEFINITION. Bytes, byte order (R4), CRC-32C (R45), and the memory as a list of cells in canonical form. -/

namespace Sys2Proof.Machine

/-- The `n` bytes of `x`, least significant first (R4). -/
def toBytes (n x : Nat) : List Byte :=
  match n with
  | 0 => []
  | n + 1 => BitVec.ofNat 8 x :: toBytes n (x / 256)

/-- The number whose little-endian bytes are `bs` (R4). -/
def ofBytes : List Byte → Nat
  | [] => 0
  | b :: bs => b.toNat + 256 * ofBytes bs

/-- One bit of the reflected CRC-32C (polynomial 0x1EDC6F41, reflected 0x82F63B78; R45). -/
def crcBit (c : W32) : W32 := if bit c 0 then (c >>> 1) ^^^ 0x82F63B78#32 else c >>> 1

/-- One byte of the CRC-32C. -/
def crcByte (c : W32) (b : Byte) : W32 :=
  crcBit (crcBit (crcBit (crcBit (crcBit (crcBit (crcBit (crcBit (c ^^^ b.setWidth 32))))))))

/-- CRC-32C (R45). -/
def crc32c (bs : List Byte) : W32 := ~~~ bs.foldl crcByte 0xFFFFFFFF#32

/-- A record with its last four bytes set to the CRC of those before (R45). -/
def withCrc (bs : List Byte) : List Byte := bs ++ toBytes 4 (crc32c bs).toNat

/-- The memory's canonical form: addresses strictly rising, no byte equal to what an unlisted address reads as. -/
def Memory.wf : List Host.Cell → Bool
  | [] => true
  | [c] => c.2 != 0
  | c :: d :: m => c.2 != 0 && Nat.blt c.1 d.1 && Memory.wf (d :: m)

/-- One byte of the memory; an unlisted one reads as 0 (log 7). -/
def readByte : List Host.Cell → Nat → Byte
  | [], _ => 0
  | c :: m, a => if c.1 = a then c.2 else if a < c.1 then 0 else readByte m a

/-- The memory with byte `a` set to `b`. -/
def writeByte : List Host.Cell → Nat → Byte → List Host.Cell
  | [], a, b => if b = 0 then [] else [(a, b)]
  | c :: m, a, b =>
    if c.1 = a then (if b = 0 then m else (a, b) :: m)
    else if a < c.1 then (if b = 0 then c :: m else (a, b) :: c :: m)
    else c :: writeByte m a b

/-- The `n` bytes from `a`. -/
def readBytes (m : List Host.Cell) (a : Nat) : Nat → List Byte
  | 0 => []
  | n + 1 => readByte m a :: readBytes m (a + 1) n

/-- The memory with the bytes `bs` written from `a`. -/
def writeBytes (m : List Host.Cell) (a : Nat) : List Byte → List Host.Cell
  | [] => m
  | b :: bs => writeBytes (writeByte m a b) (a + 1) bs

/-- The `n`-byte number at `a` (R4). -/
def readNat (m : List Host.Cell) (a n : Nat) : Nat := ofBytes (readBytes m a n)

/-- The memory with the `n`-byte number `x` written at `a` (R4). -/
def writeNat (m : List Host.Cell) (a n x : Nat) : List Host.Cell := writeBytes m a (toBytes n x)

/-- The doubleword at `a`. -/
def readWord (m : List Host.Cell) (a : Nat) : Word := BitVec.ofNat 64 (readNat m a 8)

/-- Replace the entry of key `k`, or add one at the end. -/
def assocSet {κ α : Type} [DecidableEq κ] (k : κ) (v : α) : List (κ × α) → List (κ × α)
  | [] => [(k, v)]
  | e :: l => if e.1 = k then (k, v) :: l else e :: assocSet k v l

/-- The value of key `k`. -/
def assocGet {κ α : Type} [DecidableEq κ] (k : κ) : List (κ × α) → Option α
  | [] => none
  | e :: l => if e.1 = k then some e.2 else assocGet k l

/-- The list without its `n`-th member. -/
def dropAt {α : Type} : Nat → List α → List α
  | _, [] => []
  | 0, _ :: l => l
  | n + 1, a :: l => a :: dropAt n l

/-- The list with its `n`-th member replaced. -/
def setAt {α : Type} : Nat → α → List α → List α
  | _, _, [] => []
  | 0, x, _ :: l => x :: l
  | n + 1, x, a :: l => a :: setAt n x l

/-- The position of the first member that satisfies `f`. -/
def findAt {α : Type} (f : α → Bool) : List α → Option Nat
  | [] => none
  | a :: l => if f a then some 0 else (findAt f l).map (· + 1)

end Sys2Proof.Machine
end

