-- ==== Sys2Proof/Machine/Access.lean ====
section
/-! DEFINITION. Named reads and writes of the state: cores, registers, status fields, the parts of a global address
(R32 to R38), homes (R128), and events. -/

namespace Sys2Proof.Machine

/-- `x` with bit `n` set to `b`. -/
def setBit {w : Nat} (x : BitVec w) (n : Nat) (b : Bool) : BitVec w :=
  if b then x ||| (1#w <<< n) else x &&& ~~~(1#w <<< n)

/-- Register `r` of a register file; g0 reads zero (R117). -/
def regGet (v : Vector Word 32) (r : Reg) : Word := if r = 0 then 0 else v.get r.toFin

/-- A register file with `x` written to `r`; a write to g0 is discarded (R117). -/
def regSet (v : Vector Word 32) (r : Reg) (x : Word) : Vector Word 32 :=
  if r = 0 then v else v.set r.toNat x r.isLt

/-! ## Cores -/

/-- Core `c`. -/
def State.getCore (s : State) (c : CoreName) : Core :=
  if c = s.cur then s.core else (assocGet c s.cores).getD (.reset c)

/-- The state with core `c` replaced. -/
def State.setCore (s : State) (c : CoreName) (k : Core) : State :=
  if c = s.cur then { s with core := k } else { s with cores := assocSet c k s.cores }

/-- The state with core `c` changed by `f`. -/
def State.modCore (s : State) (c : CoreName) (f : Core → Core) : State := s.setCore c (f (s.getCore c))

/-- The state in which core `c` and its sequencer `q` act. -/
def State.focus (s : State) (c : CoreName) (q : Seq) : State :=
  if c = s.cur then { s with seq := q }
  else { s with cur := c, seq := q, core := s.getCore c, cores := assocSet s.cur s.core (s.cores.filter (·.1 != c)) }

/-- Do `f` with core `c` and sequencer `q` acting, then let the former turn stand. -/
def State.within (s : State) (c : CoreName) (q : Seq) (f : State → State) : State :=
  (f (s.focus c q)).focus s.cur s.seq

/-- The core with its control part changed. -/
def Core.modCtl (k : Core) (f : Control → Control) : Core := { k with ctl := f k.ctl }
/-- The core with its access-unit tables changed. -/
def Core.modMem (k : Core) (f : Mem → Mem) : Core := { k with mem := f k.mem }
/-- The core with its scheduler changed. -/
def Core.modSched (k : Core) (f : Sched → Sched) : Core := { k with sched := f k.sched }
/-- The core with its dispatcher changed. -/
def Core.modMsg (k : Core) (f : Msg → Msg) : Core := { k with msg := f k.msg }

/-- The bank while a routine runs in it. -/
def Msg.bank (m : Msg) : Option Bank := if m.busy then some m.regs else none

/-- The dispatcher with a routine in its bank, or with none: the bank then keeps what it holds (log 152). -/
def Msg.setBank (m : Msg) : Option Bank → Msg
  | some b => { m with regs := b, busy := true }
  | none => { m with busy := false }

/-- The dispatcher with the registers of its bank changed. -/
def Msg.modBank (m : Msg) (f : Bank → Bank) : Msg := { m with regs := f m.regs }

/-- The thread registers that sequencer `q` works under: the bank's for a routine, else the control sequencer's. -/
def Core.thread (k : Core) : Seq → Thread
  | .routine => k.msg.regs.thr
  | _ => k.thr

/-- The core with those thread registers changed. -/
def Core.modThread (k : Core) (q : Seq) (f : Thread → Thread) : Core :=
  match q with
  | .routine => { k with msg := k.msg.modBank fun b => { b with thr := f b.thr } }
  | _ => { k with thr := f k.thr }

/-- The general registers of sequencer `q` (R174, R288). -/
def Core.regs (k : Core) (q : Seq) : Vector Word 32 :=
  match q with
  | .vector => k.vs.g
  | .matrix => k.ms.g
  | q => (k.thread q).g

/-- Register `r` of sequencer `q`. -/
def Core.reg (k : Core) (q : Seq) (r : Reg) : Word := regGet (k.regs q) r

/-- The core with register `r` of sequencer `q` written. -/
def Core.setReg (k : Core) (q : Seq) (r : Reg) (x : Word) : Core :=
  match q with
  | .vector => { k with vs := { k.vs with g := regSet k.vs.g r x } }
  | .matrix => { k with ms := { k.ms with g := regSet k.ms.g r x } }
  | q => k.modThread q fun t => { t with g := regSet t.g r x }

/-- The program counter of sequencer `q` (R24, R172). -/
def Core.pc (k : Core) (q : Seq) : Word :=
  match q with
  | .vector => k.vs.pc
  | .matrix => k.ms.pc
  | q => (k.thread q).pc

/-- The core with that program counter written. -/
def Core.setPc (k : Core) (q : Seq) (x : Word) : Core :=
  match q with
  | .vector => { k with vs := { k.vs with pc := x } }
  | .matrix => { k with ms := { k.ms with pc := x } }
  | q => k.modThread q fun t => { t with pc := x }

/-- The acting sequencer's register `r`. -/
def State.g (s : State) (r : Reg) : Word := s.core.reg s.seq r
/-- The state with the acting sequencer's register `r` written. -/
def State.setG (s : State) (r : Reg) (x : Word) : State := { s with core := s.core.setReg s.seq r x }
/-- The acting sequencer's program counter. -/
def State.pc (s : State) : Word := s.core.pc s.seq
/-- The state with it written. -/
def State.setPc (s : State) (x : Word) : State := { s with core := s.core.setPc s.seq x }
/-- The acting sequencer's thread registers. -/
def State.thr (s : State) : Thread := s.core.thread s.seq
/-- The state with them changed. -/
def State.modThr (s : State) (f : Thread → Thread) : State := { s with core := s.core.modThread s.seq f }
/-- The state with the acting core's control part changed. -/
def State.modCtl (s : State) (f : Control → Control) : State :=
  { s with core := { s.core with ctl := f s.core.ctl } }
/-- The state with the acting core's access-unit tables changed. -/
def State.modMem (s : State) (f : Mem → Mem) : State :=
  { s with core := { s.core with mem := f s.core.mem } }
/-- The state with the fabric changed. -/
def State.modFab (s : State) (f : Fabric → Fabric) : State := { s with fab := f s.fab }
/-- The state with contexts and waiting work changed. -/
def State.modWork (s : State) (f : Work → Work) : State := { s with work := f s.work }
/-- The state with homes changed. -/
def State.modHomes (s : State) (f : Homes → Homes) : State := { s with homes := f s.homes }
/-- The state with every translation service changed. -/
def State.modServices (s : State) (f : Service → Service) : State := { s with services := s.services.map f }
/-- The state with every governor changed. -/
def State.modGovs (s : State) (f : Governor → Governor) : State := { s with govs := s.govs.map f }
/-- The state with the management part changed. -/
def State.modMgmt (s : State) (f : Management → Management) : State := { s with mgmt := f s.mgmt }

/-! ## Status fields (R151) -/

/-- PM of the acting sequencer: 0 task, 1 supervisor, 2 firmware. -/
def State.pm (s : State) : BitVec 2 := bits s.thr.kstatus 4 2
/-- TT of the acting sequencer. -/
def State.tt (s : State) : Bool := bit s.thr.kstatus 6
/-- The pending-prefix latch of sequencer `q` (R115). -/
def Core.pp (k : Core) (q : Seq) : Bool :=
  match q with
  | .vector => k.vs.pp
  | .matrix => k.ms.pp
  | q => bit (k.thread q).kstatus 1
/-- The core with that latch written. -/
def Core.setPp (k : Core) (q : Seq) (b : Bool) : Core :=
  match q with
  | .vector => { k with vs := { k.vs with pp := b } }
  | .matrix => { k with ms := { k.ms with pp := b } }
  | q => k.modThread q fun t => { t with kstatus := setBit t.kstatus 1 b }
/-- The prefix payload of sequencer `q` (R115, R116). -/
def Core.pfx (k : Core) (q : Seq) : Word :=
  match q with
  | .vector => k.vs.pfx
  | .matrix => k.ms.pfx
  | q => (k.thread q).kpfx
/-- The reading of the M8 top exponent code for sequencer `q` (R79, R173). -/
def Core.ns (k : Core) (q : Seq) : Bool :=
  match q with
  | .vector => k.vs.ns
  | .matrix => k.ms.ns
  | q => bit (k.thread q).kstatus 2
/-- `kstatus` as `krd` reads it: PAIR, VSO and MSO are kept where they arise (R151). -/
def Core.kstatus (k : Core) (q : Seq) : Word :=
  let x := setBit (setBit (k.thread q).kstatus 13 k.vs.opened) 14 k.ms.opened
  setBits x 7 (if k.pair.isSome then 1#2 else if k.ctl.run = .checker then 2#2 else 0#2)

/-! ## Core names and positions (R19, R20, R61) -/

/-- Logical die of a core name. -/
def dieOf (c : CoreName) : Nat := (bits c 8 5).toNat
/-- Core number of a core name. -/
def coreNum (c : CoreName) : Nat := (bits c 0 8).toNat
/-- The core of a die and number. -/
def coreName (die num : Nat) : CoreName := BitVec.ofNat 16 (die * 256 + num)
/-- Mesh column. -/
def coreX (c : CoreName) : Nat := coreNum c % 16
/-- Mesh row. -/
def coreY (c : CoreName) : Nat := coreNum c / 16
/-- Cluster number (R19). -/
def cluster (c : CoreName) : Nat := 4 * (coreY c / 4) + coreX c / 4
/-- A translation service core (R20). -/
def isService (c : CoreName) : Bool := coreX c % 4 == 3 && coreY c % 4 == 3
/-- A core of a compute die (R13). -/
def isCore (c : CoreName) : Bool := decide (c.toNat < 4096)
/-- A worker (R20). -/
def isWorker (c : CoreName) : Bool := isCore c && !isService c
/-- The groups a core lists, in the positions of kcap0 (R20, R112). -/
def coreGroups (c : CoreName) : BitVec 6 :=
  0xF#6 ||| (if coreX c % 4 = 0 then 0x10#6 else 0) ||| (if isService c then 0x20#6 else 0)
/-- The translation service core of a core's cluster. -/
def serviceOf (c : CoreName) : CoreName :=
  coreName (dieOf c) (16 * (coreY c / 4 * 4 + 3) + (coreX c / 4 * 4 + 3))
/-- The cores of a logical die, in ascending number. -/
def coresOf (die : Nat) : List CoreName := (List.range 256).map (coreName die)
/-- The unit of a core. -/
def coreUnit (s : State) (c : CoreName) : UnitName :=
  ⟨s.mgmt.domain.pkg, bits c 8 5, bits c 0 8, false⟩
/-- The core of a unit. -/
def unitCore (u : UnitName) : CoreName := (u.die.setWidth 16 <<< 8) ||| u.unit.setWidth 16

/-! ## Global addresses (R32 to R38) -/

/-- PKG of an address. -/
def addrPkg (a : Nat) : Nat := a / 2 ^ 54 % 1024
/-- DIE. -/
def addrDie (a : Nat) : Nat := a / 2 ^ 49 % 32
/-- UNIT. -/
def addrUnit (a : Nat) : Nat := a / 2 ^ 41 % 256
/-- OFFSET. -/
def addrOff (a : Nat) : Nat := a % 2 ^ 41
/-- The address of a unit's offset. -/
def globalAddr (pkg die unit off : Nat) : Nat := pkg * 2 ^ 54 + die * 2 ^ 49 + unit * 2 ^ 41 + off

/-- The die-map entry of logical die `n` (R14), as the routers of physical die 0 hold it. -/
def State.mapEntry (s : State) (n : Nat) : W32 := (s.dies[0].map.toList[n]?).getD 0
/-- ST of a die-map entry (R14). -/
def mapSt (e : W32) : BitVec 2 := bits e 29 2

/-- What storage an address names (R33 to R38). -/
inductive Place
  | sram (c : CoreName)
  | memory
  | persist
  | mailbox
  | window
  | port
  | host
  /-- a unit of another package of the domain, memory channels apart -/
  | remote
  | hole
  deriving DecidableEq, Repr

/-- The kind of storage that `a` names, in whichever package: `hole` for the first four kinds of R36. A die of another package counts as
V = 0 where this package's own die map has V = 0 for its number: DESIGN CHOICE (log 140), the spec does not say whose map is looked at. -/
def State.storage (s : State) (a : Nat) : Place :=
  let die := addrDie a
  let unit := addrUnit a
  let off := addrOff a
  if die = 31 then (if addrPkg a = s.mgmt.domain.pkg.toNat then .host else .hole)
  else if addrPkg a ≥ s.mgmt.domain.packages ∨ die ≥ 22 ∨ bit (s.mapEntry die) 31 = false then .hole
  else if die < 16 then (if off < 0x80000 then .sram (coreName die unit) else .hole)
  else if die < 20 then
    if unit < 96 then (if off < 0x80000000 then .memory else .hole)
    else if 128 ≤ unit ∧ unit < 144 then (if off < 0x7C0000000 then .memory else .hole)
    else .hole
  else if unit = 0 then (if off < 0x80000000 then .persist else .hole)
  else if unit = 1 then (if off < 0x10000 then .mailbox else .hole)
  else if unit = 2 ∧ die = 20 then (if off < 0x1000 then .window else .hole)
  else if 3 ≤ unit ∧ unit < 7 then (if off < 0x2000 then .port else .hole)
  else .hole

/-- The storage that `a` names, as this package reaches it (R33 to R38). -/
def State.place (s : State) (a : Nat) : Place :=
  match s.storage a with
  | .memory => .memory
  | .hole => .hole
  | p => if addrPkg a = s.mgmt.domain.pkg.toNat then p else .remote

/-- The first byte of a core's local SRAM (R33). -/
def State.sramBase (s : State) (c : CoreName) : Nat :=
  globalAddr s.mgmt.domain.pkg.toNat (dieOf c) (coreNum c) 0

/-- The partition that holds a logical die, by number (R41). -/
def State.partOf (s : State) (die : Nat) : Option Nat := findAt (fun p => p.dies.contains die) s.work.parts
/-- Partition `n`. -/
def State.part (s : State) (n : Nat) : Option Partition := s.work.parts[n]?
/-- The state with partition `n` changed. -/
def State.modPart (s : State) (n : Nat) (f : Partition → Partition) : State :=
  s.modWork fun w => { w with parts := (w.parts[n]?).elim w.parts fun p => setAt n (f p) w.parts }
/-- The cores of partition `n`, in ascending order. -/
def State.partCores (s : State) (n : Nat) : List CoreName :=
  ((s.part n).elim [] (·.dies)).flatMap fun d => if d < 16 then coresOf d else []

/-- The hash of R128. -/
def homeHash (a : Nat) : BitVec 16 :=
  let x := BitVec.ofNat 57 (a / 128)
  bits x 0 16 ^^^ bits x 16 16 ^^^ bits x 32 16 ^^^ (bits x 48 9).setWidth 16

/-- The partition that the memory channel of `a` is assigned to (R128): of another package's channel that this package has not been
told of, the one that has dies there. -/
def State.chanPart (s : State) (a : Nat) : Option Nat :=
  (assocGet (a / 2 ^ 41) s.work.channels).orElse fun _ =>
    if addrPkg a = s.mgmt.domain.pkg.toNat then some 0
    else findAt (fun p => p.remote.any fun r => r.1.toNat == addrPkg a) s.work.parts

/-- A logical die put into a list in ascending (package, logical die). -/
def insertDie (x : BitVec 10 × Nat) : List (BitVec 10 × Nat) → List (BitVec 10 × Nat)
  | [] => [x]
  | y :: l => if x.1.toNat * 32 + x.2 ≤ y.1.toNat * 32 + y.2 then x :: y :: l else y :: insertDie x l

/-- The logical dies of a partition of package `own`, in ascending (package, logical die) (R41, R219). -/
def Partition.all (p : Partition) (own : BitVec 10) : List (BitVec 10 × Nat) :=
  ((p.dies.map fun d => (own, d)) ++ p.remote).foldr insertDie []

/-- The logical compute dies among which the lines of `a`'s channel have their homes (R128). -/
def State.homeDies (s : State) (a : Nat) : List (BitVec 10 × Nat) :=
  ((s.chanPart a).bind s.part).elim ((List.range 16).map fun d => (BitVec.ofNat 10 (addrPkg a), d)) fun p =>
    (p.all s.mgmt.domain.pkg).filter (·.2 < 16)

/-- The home slice of an HBM4E or LPDDR-6 address (R128), named by the lowest core of its cluster. -/
def State.home (s : State) (a : Nat) : UnitName :=
  let h := (homeHash a).toNat
  let list := s.homeDies a
  let die := (list[h / 16 % list.length]?).getD (s.mgmt.domain.pkg, 0)
  let slice := h % 16
  ⟨die.1, BitVec.ofNat 5 die.2, BitVec.ofNat 8 (64 * (slice / 4) + 4 * (slice % 4)), true⟩

/-- The registry set of an address (R128, R129). -/
def homeSet (a : Nat) : Nat := (homeHash a).toNat / 16 % 1024

/-- The unit that serves an access to `a` (R127, R198): the home slice, the owning core, or the gateway. -/
def State.server (s : State) (a : Nat) : UnitName :=
  match s.place a with
  | .memory => s.home a
  | .host => ⟨s.mgmt.domain.pkg, 20, 0, false⟩
  | _ => ⟨BitVec.ofNat 10 (addrPkg a), BitVec.ofNat 5 (addrDie a), BitVec.ofNat 8 (addrUnit a), false⟩

/-- The page of a core's local SRAM that `a` lies in. -/
def pageOf (a : Nat) : Fin 128 := Fin.ofNat 128 (addrOff a / 4096)

/-- The registry entry whose MASK holds the word of `a` (R130). -/
def State.ownerOf (s : State) (a : Nat) : Option RegEntry :=
  s.homes.registry.find? fun e => e.line == a / 128 && bit e.mask (a / 4 % 32)

/-- The local page in which core `k` holds frame `f` (global address / 4096) in stash (R124). -/
def Core.stashPage (k : Core) (f : Nat) : Option Nat :=
  findAt (fun p => p.role = .stash ∧ p.frame = BitVec.ofNat 52 f) k.mem.pages.toList

/-- Where core `c` keeps the stash copy of the byte at `a`. -/
def State.stashAddr (s : State) (c : CoreName) (a : Nat) : Option Nat :=
  ((s.getCore c).stashPage (a / 4096)).map fun p => s.sramBase c + 4096 * p + a % 4096

/-- Byte `i` of a doubleword. -/
def byteOf (x : Word) (i : Nat) : Byte := BitVec.ofNat 8 (x.toNat / 256 ^ i)

/-- A byte of the launch window's registers (R485, R487). -/
def State.windowByte (s : State) (off : Nat) : Byte :=
  let w := s.mgmt.win
  let regs : Word := w.status.setWidth 64 ||| (w.drop.setWidth 64 <<< 16) ||| (w.ctx.setWidth 64 <<< 32) |||
    (if w.priv then 1#64 <<< 62 else 0) ||| (if w.busy.isSome then 1#64 <<< 63 else 0)
  if 8 ≤ off ∧ off < 16 then byteOf regs (off - 8)
  else if 0x800 ≤ off ∧ off < 0x808 then byteOf w.head (off - 0x800)
  else if 0x808 ≤ off ∧ off < 0x810 then byteOf w.tail (off - 0x808)
  else if 0x840 ≤ off ∧ off < 0x1000 then
    (assocGet ((off - 0x840) / 64) w.ring).elim 0 fun r => BitVec.ofNat 8 (r.toNat / 256 ^ (off % 64))
  else 0

/-- A byte as the unit that keeps it holds it: memory's, or a register's of the launch window. -/
def State.byteAt (s : State) (a : Nat) : Byte := if s.place a = .window then s.windowByte (addrOff a) else readByte s.mem a

/-- The current value of the byte at `a`: its owner's copy when a stash owns the word, else the memory's (R130). -/
def State.current (s : State) (a : Nat) : Byte :=
  match s.ownerOf a with
  | some e => readByte s.mem ((s.stashAddr (unitCore e.owner) a).getD a)
  | none => s.byteAt a

/-- The current values of `n` bytes from `a`. -/
def State.currents (s : State) (a : Nat) : Nat → List Byte
  | 0 => []
  | n + 1 => s.current a :: s.currents (a + 1) n

/-- Whether some byte of `[a, a + n)` lies in a line with the poison marker (R310). -/
def State.poisoned (s : State) (a n : Nat) : Bool :=
  s.homes.poison.any fun l => decide (l * 128 < a + n ∧ a < l * 128 + 128)

/-- The bytes of the range overlap a locked range of the core (R145). -/
def Core.locked (k : Core) (a n : Nat) : Bool :=
  k.mem.locks.any fun l => decide (l.base < a + n ∧ a < l.base + l.bytes)

/-- The memory with bytes written at `a`, the undo record of each line taken once per interval (R468), and the poison
marker of a wholly written line cleared (R310). -/
def State.write (s : State) (a : Nat) (bs : List Byte) : State :=
  let first := a / 128
  let n := (a + bs.length + 127) / 128 - first
  let lines := (List.range n).map (first + ·)
  let logged := lines.filter fun l => decide (s.place (l * 128) = .memory) && s.homes.undo.all (·.line != l) &&
    (s.chanPart a).any fun p => s.work.ctxs.any fun x => decide (x.part = p ∧ x.ckpt ≠ 0)
  let recs := logged.map fun l =>
    ⟨l, readBytes s.mem (l * 128) 128, s.homes.poison.contains l, (s.chanPart a).getD 0⟩
  { s with
    mem := writeBytes s.mem a bs
    homes := { s.homes with
      undo := s.homes.undo ++ recs
      poison := s.homes.poison.filter fun l => !(decide (a ≤ l * 128 ∧ l * 128 + 128 ≤ a + bs.length)) } }

/-- Write an event to the black box of physical die `p` (R463). -/
def State.eventAt (s : State) (p : Nat) (e : Event) : State :=
  if h : p < 24 then
    let box := s.dies[p].bbox ++ [(s.fresh, e)]
    { s with
      fresh := s.fresh + 1
      dies := s.dies.set p { s.dies[p] with bbox := box.drop (box.length - 4096), count := s.dies[p].count + 1 } h }
  else s

/-- Write an event to the black box of the physical die that holds logical die `n` (R463). -/
def State.event (s : State) (die : Nat) (e : Event) : State := s.eventAt (bits (s.mapEntry die) 0 5).toNat e

/-- A fresh free value. -/
def State.free (s : State) : Word × State := (Config.freeWord s.fresh, { s with fresh := s.fresh + 1 })

end Sys2Proof.Machine
end

