-- ==== Sys2Proof/Machine/Fabric.lean ====
section
/-! DEFINITION. Sending a request and answering one: flits, channels and injection (R267 to R280). -/

namespace Sys2Proof.Machine

/-- The router of a unit (R17, R271): a core's by its physical position, a slice's or a gateway unit's after those. -/
def State.routerOf (s : State) (u : UnitName) : Router :=
  let phys := (bits (s.mapEntry u.die.toNat) 0 5).toNat
  let n := u.unit.toNat
  let skip := ((s.dies.toList[phys]?).bind fun d => d.skip.toList[n / 16]?).elim 16 (·.toNat)
  let site :=
    if u.slice then 272 + (4 * (n / 64) + n % 16 / 4)
    else if u.die.toNat < 16 then 17 * (n / 16) + (if n % 16 < skip then n % 16 else n % 16 + 1)
    else 272 + n
  ⟨u.pkg, phys, site⟩

/-! ## Messages as flits (R267 to R269) -/

/-- A list in pieces of `n`. -/
def chunks {α : Type} (n : Nat) : Nat → List α → List (List α)
  | 0, _ => []
  | _, [] => []
  | k + 1, l => l.take n :: chunks n k (l.drop n)

/-- The data of a message in 128-byte pieces, one for each continuation (R268, R270, R318, R405). -/
def Body.pieces : Body → List Body
  | .stl pa d => [.stl pa d]
  | .copyd c o m x d p => [.copyd c o m x d p]
  | .wb l m d => if d.isEmpty then [] else [.wb l m d]
  | .gsub c o rows => (chunks 16 3 (rows.drop 12)).map (.gsub c o ·)
  | .ssub c o rows => (chunks 16 3 (rows.drop 12)).map (.ssub c o ·)
  | .psum p => [.psum p]
  | .ship h => (chunks 128 3 (h.record.drop 128)).map .raw
  | .stripe pa d => [.stripe pa d]
  | .basin r => match r with
    | .fill p q k t i d x => [.basin (.fill p q k t i d x)]
    | .line c o i d => [.basin (.line c o i d)]
    | _ => []
  | .msg a d => if d.isEmpty then [] else [.msg a d]
  | _ => []

/-- What the first flit of a message carries (R268). -/
def Body.bare : Body → Body
  | .stl pa _ => .stl pa []
  | .copyd c o m x _ p => .copyd c o m x [] p
  | .wb l m _ => .wb l m []
  | .gsub c o rows => .gsub c o (rows.take 12)
  | .ssub c o rows => .ssub c o (rows.take 12)
  | .psum p => .psum { p with data := [] }
  | .ship h => .ship { h with record := h.record.take 128 }
  | .stripe pa _ => .stripe pa []
  | .basin r => match r with
    | .fill p q k t i _ x => .basin (.fill p q k t i [] x)
    | .line c o i _ => .basin (.line c o i [])
    | r => .basin r
  | .msg a _ => .msg a []
  | b => b

/-- A message with one more piece of its data. -/
def Body.extend : Body → Body → Body
  | .stl pa d, .stl _ e => .stl pa (d ++ e)
  | .copyd c o m x d p, .copyd _ _ _ _ e _ => .copyd c o m x (d ++ e) p
  | .wb l m d, .wb _ _ e => .wb l m (d ++ e)
  | .gsub c o d, .gsub _ _ e => .gsub c o (d ++ e)
  | .ssub c o d, .ssub _ _ e => .ssub c o (d ++ e)
  | .psum p, .psum q => .psum { p with data := p.data ++ q.data }
  | .ship h, .raw d => .ship { h with record := h.record ++ d }
  | .stripe pa d, .stripe _ e => .stripe pa (d ++ e)
  | .basin (.fill p q k t i d x), .basin (.fill _ _ _ _ _ e _) => .basin (.fill p q k t i (d ++ e) x)
  | .basin (.line c o i d), .basin (.line _ _ _ e) => .basin (.line c o i (d ++ e))
  | .msg a d, .msg _ e => .msg a (d ++ e)
  | b, _ => b

/-- Bytes padded with zeros to a payload. -/
def padded (bs : List Byte) : List Byte := (bs ++ List.replicate 128 0).take 128

/-- The payload of a flit (R268). -/
def Body.payload : Body → List Byte
  | .none => padded []
  | .value ws => padded (ws.flatMap fun w => toBytes 8 w.toNat)
  | .msg args [] => padded (args.flatMap fun w => toBytes 8 w.toNat)
  | .psum p => padded ([p.arg0, p.arg1, p.arg2].flatMap fun w => toBytes 8 w.toNat)
  | .part (.psum p) => padded p.data
  | .part (.msg _ d) => padded (d.flatMap fun w => toBytes 8 w.toNat)
  | .part (.stl _ d) => padded d
  | .ship h => padded h.record
  | .part (.raw d) => padded d
  | .lineData (.wb _ _ d) => padded (d.flatMap fun w => toBytes 4 w.toNat)
  | b => Config.payload b

/-- KIND as the header holds it (R267). -/
def Kind.code : Kind → Nat
  | .request => 0
  | .completion => 1
  | .continuation => 2
  | .hold => 3

/-- A unit as DST and SRC hold it (R267). -/
def UnitName.code (u : UnitName) : Nat := (u.pkg.toNat * 32 + u.die.toNat) * 256 + u.unit.toNat

/-- Header bits 191 to 32 with AGE, PLANE and GEN zero, as a number (R267, R269). -/
def Flit.head (f : Flit) : Nat :=
  f.ver.toNat * 2 ^ 156 + f.kind.code * 2 ^ 154 + f.ncont.toNat * 2 ^ 152 + f.nw.toNat * 2 ^ 151 + f.ns.toNat * 2 ^ 150 +
    f.opening.toNat * 2 ^ 149 + f.rtx.toNat * 2 ^ 148 + f.epoch.toNat * 2 ^ 124 + f.status.toNat * 2 ^ 116 + f.cls.toNat * 2 ^ 106 +
    f.seq.toNat * 2 ^ 90 + f.ctx.toNat * 2 ^ 74 + f.dst.code * 2 ^ 48 + f.src.code * 2 ^ 25 + f.dst.slice.toNat * 2 ^ 23 +
    f.src.slice.toNat * 2 ^ 21 + f.inj.toNat

/-- The CRC-32C that ECRC holds (R269). -/
def Flit.check (f : Flit) : W32 := crc32c (toBytes 20 f.head ++ f.body.payload)
/-- The flit with its ECRC written (R269). -/
def Flit.seal (f : Flit) : Flit := { f with ecrc := f.check }
/-- The flit with another payload; it passes its check if it did before. -/
def Flit.rebody (f : Flit) (b : Body) : Flit :=
  let g := { f with body := b }
  { g with ecrc := f.ecrc ^^^ f.check ^^^ g.check }
/-- The flit passes its check (R269). -/
def Flit.sound (f : Flit) : Bool := f.ecrc == f.check

/-- The planes a unit takes next (R271, R281). -/
def State.planesOf (s : State) (u : UnitName) : Planes := (assocGet u s.fab.planes).getD ⟨0, 0, 0⟩

/-- The first of the scale-up planes from `p` on that is not left out (R281, R489). -/
def State.livePlane (s : State) (p : Nat) : Nat :=
  ((((List.range 8).map fun i => (p + i) % 8).find? fun i => !s.fab.dead.contains i).getD (p % 8))

/-- The plane of a source's next flit to `dst`, and the rotation after it: requests go round four planes (R271), flits to other packages
round eight (R281); other flits on the package have a rotation of their own (log 136). -/
def State.takePlane (s : State) (src dst : UnitName) (request : Bool) : BitVec 3 × State :=
  let p := s.planesOf src
  let set (q : Planes) : State := s.modFab fun f => { f with planes := assocSet src q f.planes }
  if dst.pkg ≠ s.mgmt.domain.pkg then
    let q := s.livePlane p.away.toNat
    (BitVec.ofNat 3 q, set { p with away := BitVec.ofNat 3 ((q + 1) % 8) })
  else if request then (p.request, set { p with request := BitVec.ofNat 3 ((p.request.toNat + 1) % 4) })
  else (p.other, set { p with other := BitVec.ofNat 3 ((p.other.toNat + 1) % 4) })

/-- The injection stamp of a source's next flit in a plane (R267, R272): on the package planes 4 to 7 are planes 0 to 3 (R281; log 153). -/
def State.takeStamp (s : State) (src : UnitName) (p : BitVec 3) : BitVec 21 × State :=
  let q := p &&& 3
  let n := ((s.fab.stamps.find? fun e => decide (e.1 = src ∧ e.2.1 = q)).elim 0 (·.2.2))
  (n, s.modFab fun f => { f with stamps :=
    (src, q, n + 1) :: f.stamps.filter fun e => !decide (e.1 = src ∧ e.2.1 = q) })

/-- Inject one flit in plane `p` (R267, R269, R272). -/
def State.inject (s : State) (f : Flit) (p : BitVec 3) : State :=
  let (i, s) := s.takeStamp f.src p
  let r := s.routerOf f.src
  let gen := (s.dies.toList[r.die]?).elim 0 (·.gen)
  let f := { f with plane := p, inj := i, age := 0, gen := gen, at_ := r, inPort := 0, via := none }
  s.modFab fun b => { b with flits := b.flits ++ [f.seal] }

/-- Inject continuation `i` of a message whose first flit went in plane `p`; to another package it sprays on (R281). -/
def State.injectNext (s : State) (f : Flit) (p : BitVec 3) (i : Nat) (b : Body) : State :=
  let (q, s) := if f.dst.pkg = s.mgmt.domain.pkg then (p, s) else s.takePlane f.src f.dst false
  s.inject { f with kind := .continuation, ncont := BitVec.ofNat 2 i, body := b } q

/-- Inject a request and its continuations (R268). -/
def State.injectMessage (s : State) (f : Flit) (p : BitVec 3) : State :=
  let ps := f.body.pieces
  (List.range ps.length).foldl (fun s i => s.injectNext f p (i + 1) (.part ((ps[i]?).getD .none)))
    (s.inject { f with ncont := BitVec.ofNat 2 ps.length, body := f.body.bare } p)

/-- The first flit of an outstanding request (R267). -/
def Outst.flit (o : Outst) (rtx : Bool) : Flit :=
  { ver := 1, kind := .request, ncont := 0, nw := o.nw, ns := o.ns, opening := o.opening, rtx := rtx, gen := 0, age := 0,
    epoch := o.epoch, status := 0, cls := o.cls, seq := o.seq, ctx := o.ctx, plane := o.plane, dst := o.dst, src := o.src,
    inj := 0, ecrc := 0, body := o.body, at_ := ⟨0, 0, 0⟩, inPort := 0, via := none }

/-! ## Channels -/

/-- Requests outstanding on one channel (R275). -/
def State.onChannel (s : State) (src dst : UnitName) : Nat :=
  (s.fab.outst.filter fun o => decide (o.src = src ∧ o.dst = dst ∧ o.answer = none)).length

/-- A source has an entry for the channel, or one of its 128 is free (R274, R275). -/
def State.hasChan (s : State) (src dst : UnitName) : Bool :=
  (s.fab.srcCh.any fun c => decide (c.src = src ∧ c.dst = dst) && c.opened) ||
    decide ((s.fab.srcCh.filter fun c => decide (c.src = src) && c.opened).length < 128)

/-- `n` further requests may go on the channel (R274, R275). -/
def State.canPost (s : State) (src dst : UnitName) (n : Nat) : Bool :=
  decide (s.onChannel src dst + n ≤ 64) && s.hasChan src dst

/-- Send a request of class `cls` (R275, R280): it takes the next SEQ of its channel, opening it if need be. To a
quiescing die it is held at the fence; to a fenced one it completes QUIESCE at once, and its channel is closed again (R280). The first
opening of a channel follows epoch 0 (log 154). -/
def State.post (s : State) (src dst : UnitName) (cls : Nat) (ctx : BitVec 16) (nw ns : Bool) (body : Body)
    (purpose : Purpose) : State :=
  let st := if dst.pkg = s.mgmt.domain.pkg then mapSt (s.mapEntry dst.die.toNat) else 0
  let old := s.fab.srcCh.find? fun c => decide (c.src = src ∧ c.dst = dst)
  let opening := !(old.elim false (·.opened))
  let epoch := if opening then (old.elim 0 (·.epoch)) + 1 else old.elim 0 (·.epoch)
  let seq := if opening then 0 else old.elim 0 (·.next)
  let (p, s) := s.takePlane src dst true
  let o : Outst := ⟨src, dst, epoch, seq, BitVec.ofNat 10 cls, ctx, nw, ns, opening, p, body, purpose, false, st = 1, false, none, none, none⟩
  let s := s.modFab fun f => { f with
    srcCh := ⟨src, dst, epoch, seq + 1, decide (st ≠ 2)⟩ :: f.srcCh.filter fun c => !decide (c.src = src ∧ c.dst = dst)
    outst := f.outst ++ [if st = 2 then { o with answer := some (0x15, .none) } else o] }
  if st = 1 ∨ st = 2 then s else s.injectMessage (o.flit false) p

/-- The two requests are one (R276). -/
def Recv.same (a b : Recv) : Bool :=
  decide (a.src = b.src ∧ a.dst = b.dst ∧ a.epoch = b.epoch ∧ a.seq = b.seq)

/-- The completion flit of a request (R267, R268). -/
def completionFlit (src dst : UnitName) (epoch : Byte) (seq : BitVec 16) (cls : BitVec 10) (status : Byte) (body : Body) :
    Flit :=
  { ver := 1, kind := .completion, ncont := 0, nw := false, ns := false, opening := false, rtx := false, gen := 0, age := 0,
    epoch := epoch, status := status, cls := cls, seq := seq, ctx := 0, plane := 0, dst := src, src := dst, inj := 0,
    ecrc := 0, body := body, at_ := ⟨0, 0, 0⟩, inPort := 0, via := none }

/-- Send the completion of a request of `src` at `dst`; line data goes in one continuation (R268). -/
def State.sendCompletion (s : State) (src dst : UnitName) (epoch : Byte) (seq : BitVec 16) (cls : BitVec 10) (status : Byte)
    (body : Body) : State :=
  let (p, s) := s.takePlane dst src false
  let f := completionFlit src dst epoch seq cls status body
  match body with
  | .wb l m d =>
    if d.isEmpty then s.inject f p else (s.inject { f with body := .wb l m [] } p).injectNext f p 1 (.lineData body)
  | _ => s.inject f p

/-- Send the one completion of an accepted request, keep it in the completion cache unless it is a load's or a forwarded
read's (R277), and remove the request. -/
def State.answer (s : State) (r : Recv) (status : Byte) (body : Body) : State :=
  let s := s.modFab fun f => { f with
    rxq := f.rxq.filter fun x => !x.same r
    dstCh := if r.cls = 1 ∨ r.cls = 8 then f.dstCh else f.dstCh.map fun c =>
      if c.src = r.src ∧ c.dst = r.dst ∧ c.epoch = r.epoch then
        { c with cache := (⟨r.seq, r.cls, status, body⟩ :: c.cache).take 64 } else c }
  s.sendCompletion r.src r.dst r.epoch r.seq r.cls status body

end Sys2Proof.Machine
end

