-- ==== Sys2Proof/Machine/Lookup.lean ====
section
/-! DEFINITION. TLB lookup (R399, R400), device writes through the homes, and the registry's words (R130, R141). -/

namespace Sys2Proof.Machine

/-- log2 of the page size of a TLB entry (R399). -/
def TlbEntry.shift (e : TlbEntry) : Nat :=
  match (bits e.dw0 61 2).toNat with
  | 0 => 14
  | 1 => 21
  | 2 => 26
  | _ => 29
/-- GEN of an entry. -/
def TlbEntry.gen (e : TlbEntry) : Nat := (bits e.dw1 4 8).toNat
/-- The entry matches `va` of context `ctx` (R400). -/
def TlbEntry.hits (e : TlbEntry) (ctx : BitVec 16) (va : Word) : Bool :=
  bit e.dw0 63 && e.ctx == ctx &&
    va.toNat % 2 ^ 57 / 2 ^ e.shift == e.dw0.toNat % 2 ^ 57 / 2 ^ e.shift
/-- The physical address of `va` through the entry (R400). -/
def TlbEntry.pa (e : TlbEntry) (va : Word) : Nat :=
  e.dw1.toNat / 2 ^ e.shift * 2 ^ e.shift + va.toNat % 2 ^ e.shift
/-- The entry lacks a well-formed VPN or FRAME, or has a reserved bit set (R399). -/
def TlbEntry.malformed (e : TlbEntry) : Bool :=
  bits e.dw0 57 4 != 0 || bits e.dw0 0 14 != 0 || bits e.dw1 12 2 != 0 || bit e.dw1 3 ||
    e.dw0.toNat % 2 ^ 57 % 2 ^ e.shift != 0 || e.dw1.toNat / 2 ^ 14 * 2 ^ 14 % 2 ^ e.shift != 0

/-- `g` is as late as, or later than, `h`, modulo 256 (R400). -/
def genNotBefore (g h : Nat) : Bool := decide ((g + 256 - h) % 256 < 128)

/-- The member of smallest page size. -/
def smallest : List TlbEntry → Option TlbEntry
  | [] => none
  | e :: l =>
    match smallest l with
    | none => some e
    | some d => if e.shift ≤ d.shift then some e else some d

/-- The winner among the entries that match (R400). -/
def winner (tlb : List TlbEntry) (ctx : BitVec 16) (va : Word) : Option TlbEntry :=
  let c := tlb.filter (·.hits ctx va)
  let near := c.all fun e => c.all fun d => genNotBefore e.gen d.gen || genNotBefore d.gen e.gen
  if near then smallest (c.filter fun e => c.all fun d => genNotBefore e.gen d.gen) else smallest c

/-- What an access needs of an entry (R399, R402 KIND). -/
inductive Need | load | store | atomic | fetch | engineRead | engineWrite
  deriving DecidableEq, Repr

/-- KIND of a miss record (R402). -/
def Need.kind : Need → Nat
  | .load => 0
  | .store => 1
  | .atomic => 2
  | .fetch => 3
  | .engineRead => 4
  | .engineWrite => 5

/-- The entry permits the access (R399). -/
def TlbEntry.permits (e : TlbEntry) : Need → Bool
  | .load => bit e.dw1 0
  | .engineRead => bit e.dw1 0
  | .store => bit e.dw1 1
  | .engineWrite => bit e.dw1 1
  | .atomic => bit e.dw1 0 && bit e.dw1 1
  | .fetch => bit e.dw1 2

/-- Every TLB entry of the package, for addresses the device itself translates (R52; log 11). -/
def State.allEntries (s : State) : List TlbEntry :=
  s.services.flatMap (·.tlb) ++ s.core.mem.tlb ++ s.cores.flatMap (·.2.mem.tlb)

/-- An address of a context's space as the device translates it (R52, R74). -/
def State.deviceTranslate (s : State) (ctx : BitVec 16) (va : Word) (n : Need) : Option Nat :=
  ((winner s.allEntries ctx va).filter (·.permits n)).map (·.pa va)

/-- The word mask of the bytes `[a, a + n)` within the line of `a`. -/
def wordMask (a n : Nat) : W32 :=
  (List.range 32).foldl
    (fun m i => if a % 128 < 4 * i + 4 ∧ 4 * i < a % 128 + n then m ||| (1#32 <<< i) else m) 0

/-- The words of a line named by a mask, as word numbers (address / 4). -/
def maskWords (line : Nat) (mask : W32) : List Nat :=
  ((List.range 32).filter fun i => bit mask i).map (line * 32 + ·)

/-- Stash words of a core set to a state, or to I (R125). -/
def Core.setWords (k : Core) (ws : List Nat) (st : Option WordState) : Core :=
  { k with mem := { k.mem with stash :=
      let rest := k.mem.stash.filter fun e => !ws.contains e.1
      match st with
      | some x => ws.map (·, x) ++ rest
      | none => rest } }

/-- The state of a stash word, none for I (R125). -/
def Core.word (k : Core) (w : Nat) : Option WordState := assocGet w k.mem.stash

/-- The value of stash word `w` of core `c`. -/
def State.stashValue (s : State) (c : CoreName) (w : Nat) : W32 :=
  BitVec.ofNat 32 (readNat s.mem ((s.stashAddr c (w * 4)).getD (w * 4)) 4)

/-- The mask of words in one line. -/
def maskOf (ws : List Nat) : W32 := ws.foldl (fun m w => m ||| (1#32 <<< (w % 32))) 0

/-- The words a write-back carries, by word number. -/
def wbWords (line : Nat) (mask : W32) (data : List W32) : List (Nat × W32) := (maskWords line mask).zip data

/-- Clear MASK bits of one owner's entry, with REV where it is answered; an entry with neither is freed (R141). -/
def State.clearOwner (s : State) (owner : UnitName) (line : Nat) (mask : W32) (answered : Bool) : State :=
  let upd (e : RegEntry) : Option RegEntry :=
    if e.owner = owner ∧ e.line = line then
      let e := { e with mask := e.mask &&& ~~~mask, rev := e.rev && !answered }
      if e.mask = 0 ∧ e.rev = false then none else some e
    else some e
  s.modHomes fun h => { h with registry := h.registry.filterMap upd }

/-- Words of a line have come back from their owner unasked: a revocation of no other words is thereby answered, and is dropped when it
reaches the owner (R143). -/
def State.wordsBack (s : State) (owner : UnitName) (line : Nat) (mask : W32) : State :=
  let crossed (o : Outst) : Bool :=
    match o.purpose with
    | .rev l m u => decide (l = line ∧ u = owner) && (m &&& ~~~mask) == 0
    | _ => false
  (s.clearOwner owner line mask (s.fab.outst.any crossed)).modFab fun f => { f with
    outst := f.outst.map fun o => if crossed o then { o with purpose := .none } else o }

/-- Write returned words into their line while the writer's MASK bit is still set (R141, R207). -/
def State.acceptWords (s : State) (owner : UnitName) (line : Nat) (ws : List (Nat × W32)) : State :=
  ws.foldl (fun s w =>
    match s.ownerOf (w.1 * 4) with
    | some e => if e.owner = owner ∧ e.line = line then s.write (w.1 * 4) (toBytes 4 w.2.toNat) else s
    | none => s) s

/-! ## Fills and merges of stash words (R125, R134, R135) -/

/-- The fills of core `c`'s stash on their way for lines that satisfy `f` are not put into it when they come. -/
def State.spoilFills (s : State) (c : CoreName) (f : Nat → Bool) : State :=
  let u := coreUnit s c
  s.modFab fun b => { b with outst := b.outst.map fun o =>
    match o.body with
    | .ld a _ true => if o.src = u ∧ f (a / 128) = true then { o with stale := true } else o
    | _ => o }

/-- A byte of a word that some store under registration `id` wrote. -/
def Core.coveredBy (k : Core) (id a : Nat) : Bool :=
  k.mem.stores.any fun r => r.ids.contains id && r.spans.any fun p => decide (p.1 ≤ a ∧ a < p.1 + p.2)

/-- Merge the home's value of a word under the bytes stored (R125, R135). -/
def State.mergeWord (s : State) (c : CoreName) (id : Nat) (w : Nat × W32) : State :=
  match s.stashAddr c (4 * w.1) with
  | none => s
  | some a =>
    let old := readBytes s.mem a 4
    let new := (List.range 4).map fun i =>
      if (s.getCore c).coveredBy id (4 * w.1 + i) then (old[i]?).getD 0 else (toBytes 4 w.2.toNat)[i]?.getD 0
    { s with mem := writeBytes s.mem a new }

/-- Merge the home's values of the words `sub` of a line, which core `c` has stored to in part under registration `id`, at the point of
those stores (R135). -/
def State.mergeSub (s : State) (c : CoreName) (id line : Nat) (sub : W32) : State :=
  (maskWords line sub).foldl (fun s w => s.mergeWord c id (w, BitVec.ofNat 32 (readNat s.mem (4 * w) 4))) s

/-! ## Ownership as the device sees it -/

/-- The destination has performed the request, whether or not the completion has come (R276). -/
def State.performed (s : State) (o : Outst) : Bool :=
  o.answer.isSome ||
    (s.fab.dstCh.any fun c => decide (c.src = o.src ∧ c.dst = o.dst ∧ c.epoch = o.epoch ∧ 1 ≤ (c.expect - o.seq).toNat ∧ (c.expect - o.seq).toNat < 2 ^ 15)) &&
      !(s.fab.rxq.any fun r => decide (r.src = o.src ∧ r.dst = o.dst ∧ r.epoch = o.epoch ∧ r.seq = o.seq))

/-- The outstanding request is a registration by core `c` of words of `mask` of a line. -/
def Outst.registers (o : Outst) (c : CoreName) (line : Nat) (mask : W32) : Bool :=
  match o.purpose with
  | .reg d _ l m => d == c && l == line && (m &&& mask) != 0
  | _ => false

/-- The home has accepted the registrations of word `w` of core `c`, of which an acknowledgement is on its way. -/
def State.accepted (s : State) (c : CoreName) (w : Nat) : Bool :=
  let mine := s.fab.outst.filter fun o => o.registers c (w / 32) (1#32 <<< (w % 32))
  !mine.isEmpty && mine.all s.performed

/-- The values of words of a line that are on their way home in the owner's write-backs. -/
def State.returningWords (s : State) (owner : UnitName) (line : Nat) (mask : W32) : List (Nat × W32) :=
  s.fab.outst.flatMap fun o =>
    match o.body with
    | .wb l m data => if o.src = owner ∧ l = line ∧ s.performed o = false then (wbWords l m data).filter fun w => bit mask (w.1 % 32) else []
    | _ => []

/-- Core `c` owns word `w`: it is in O, or in P with its registration accepted (R125, R131). -/
def State.owns (s : State) (c : CoreName) (w : Nat) : Bool :=
  match (s.getCore c).word w with
  | some .O => true
  | some .P => s.accepted c w
  | _ => false

/-- The device takes the words of a line back from every owner in one step: the values of owned words are written home, the copies go
to V, the MASK bits are cleared (R130, R141; log 12). The host's copy gives way to what is written over it, and the host is told. -/
def State.takeBack (s : State) (line : Nat) (mask : W32) : State :=
  (s.homes.registry.filter fun e => e.line == line && (e.mask &&& mask) != 0).foldl (fun s e =>
    let m := e.mask &&& mask
    if e.owner.die = 31 then
      (s.modHomes fun h => if h.snoops.any (·.1 == line) then h else { h with snoops := h.snoops ++ [(line, m)] }).wordsBack e.owner line m
    else
      let c := unitCore e.owner
      let ws := (maskWords line m).filter (s.owns c)
      let s := s.acceptWords e.owner line (s.returningWords e.owner line m ++ ws.map fun w => (w, s.stashValue c w))
      (s.modCore c (·.setWords ws (some .V))).wordsBack e.owner line m) s

/-- A write by the device itself, through the homes. -/
def State.deviceWrite (s : State) (a : Nat) (bs : List Byte) : State :=
  let n := (a + bs.length + 127) / 128 - a / 128
  let s := (List.range n).foldl (fun s i =>
    let l := a / 128 + i
    s.takeBack l (wordMask (Nat.max a (128 * l)) (a + bs.length - Nat.max a (128 * l)))) s
  s.write a bs

end Sys2Proof.Machine
end

