-- ==== Sys2Proof/Machine/Parity.lean ====
section
/-! DEFINITION. Lines that migrate (R411), and coded memory (R320 to R325): the code over GF(2^8), where an address lies in a region,
reads of a lost shard, and the deltas of a coded write. -/

namespace Sys2Proof.Machine

/-! ## Migrating lines (R411) -/

/-- What the unit that serves an address does while frames move (R411). -/
inductive Moving
  | serve
  | moved (pa : Nat)
  | wait
  deriving DecidableEq, Repr

/-- The state of the line of `pa` under the active migrations (R411). -/
def State.moving (s : State) (pa : Nat) : Moving :=
  s.homes.migrations.foldl (fun r m =>
    if m.old ≤ pa ∧ pa < m.old + 128 * m.lines then
      if (pa - m.old) / 128 < m.moved then .moved (m.new + (pa - m.old)) else r
    else if m.new ≤ pa ∧ pa < m.new + 128 * m.lines then
      if (pa - m.new) / 128 < m.moved then r else .wait
    else r) .serve

/-- Where the bytes at an address are now: at the new frame once their line has moved, and at the old one until then (R411). -/
def State.located (s : State) (pa : Nat) : Nat :=
  match s.moving pa with
  | .serve => pa
  | .moved a => a
  | .wait => (s.homes.migrations.find? fun m => decide (m.new ≤ pa ∧ pa < m.new + 128 * m.lines)).elim pa fun m => m.old + (pa - m.new)

/-! ## GF(2^8) (R321) -/

/-- Multiplication by 0x02 modulo 0x11D. -/
def gfDouble (x : Byte) : Byte := if bit x 7 then (x <<< 1) ^^^ 0x1D#8 else x <<< 1

/-- Multiplication, by the low `n` bits of `y`. -/
def gfMulBits : Nat → Byte → Byte → Byte
  | 0, _, _ => 0
  | n + 1, x, y => (if bit y 0 then x else 0) ^^^ gfMulBits n (gfDouble x) (y >>> 1)

/-- Multiplication modulo 0x11D. -/
def gfMul (x y : Byte) : Byte := gfMulBits 8 x y

/-- The `n`-th power. -/
def gfPow (x : Byte) : Nat → Byte
  | 0 => 1
  | n + 1 => gfMul x (gfPow x n)

/-- The inverse of a nonzero element. -/
def gfInv (x : Byte) : Byte := gfPow x 254

/-- 2^k for data shard k. -/
def gfTwo (k : Nat) : Byte := gfPow 2 k

/-- P of four data bytes. -/
def parityP (d : List Byte) : Byte := d.foldl (· ^^^ ·) 0

/-- Q of four data bytes. -/
def parityQ (d : List Byte) : Byte := ((List.range 4).map fun k => gfMul (gfTwo k) ((d[k]?).getD 0)).foldl (· ^^^ ·) 0

/-- The data bytes of a group at one offset, with those of the lost set rebuilt from the six as they stand (R324). -/
def rebuildData (lost : BitVec 6) (v : List Byte) : List Byte :=
  let at_ (k : Nat) : Byte := (v[k]?).getD 0
  let others (ex : List Nat) : List Nat := (List.range 4).filter fun k => !ex.contains k
  let sumOf (ks : List Nat) : Byte := (ks.map at_).foldl (· ^^^ ·) 0
  let qsum (ks : List Nat) : Byte := (ks.map fun k => gfMul (gfTwo k) (at_ k)).foldl (· ^^^ ·) 0
  let data := (List.range 4).map at_
  match (List.range 4).filter (bit lost ·) with
  | [i] =>
    let d := if bit lost 4 then gfMul (at_ 5 ^^^ qsum (others [i])) (gfInv (gfTwo i)) else at_ 4 ^^^ sumOf (others [i])
    setAt i d data
  | [i, j] =>
    let pd := at_ 4 ^^^ sumOf (others [i, j])
    let qd := at_ 5 ^^^ qsum (others [i, j])
    let di := gfMul (qd ^^^ gfMul (gfTwo j) pd) (gfInv (gfTwo i ^^^ gfTwo j))
    setAt j (pd ^^^ di) (setAt i di data)
  | _ => data

/-- The six bytes of a group with the lost ones rebuilt (R324). -/
def rebuildAll (lost : BitVec 6) (v : List Byte) : List Byte :=
  let d := rebuildData lost v
  let p := if bit lost 4 then parityP d else (v[4]?).getD 0
  let q := if bit lost 5 then parityQ d else (v[5]?).getD 0
  d ++ [p, q]

/-! ## Regions (R320) -/

/-- Base of shard array `k`. -/
def Region.base (r : Region) (k : Nat) : Nat := (r.shards[k]?).getD 0

/-- Bytes 0x00 to 0x3B of a region's entry. -/
def Region.bytes (r : Region) : List Byte :=
  ((List.range 6).flatMap fun k => toBytes 8 (r.base k)) ++ toBytes 4 r.ngrp ++ toBytes 2 r.ctx.toNat ++
    [BitVec.ofNat 8 r.rid, 1] ++ toBytes 4 r.lost.toNat

/-- The entry with LOST set, and its CRC written (R320, R325). -/
def Region.withLost (r : Region) (l : BitVec 6) : Region :=
  let r := { r with lost := l }
  { r with crc := crc32c r.bytes }

/-- The region, shard and offset in the shard array of an address. -/
def State.codedAt (s : State) (a : Nat) : Option (Region × Nat × Nat) :=
  s.stripes.findSome? fun r =>
    ((List.range 6).find? fun k => decide (r.base k ≤ a ∧ a < r.base k + 256 * r.ngrp)).map fun k => (r, k, a - r.base k)

/-- The address lies in a shard under rebuild (R325). -/
def State.lostAt (s : State) (a : Nat) : Bool := (s.codedAt a).any fun x => bit x.1.lost x.2.1

/-- `n` bytes at `a` cut at lines: offset and number. -/
def linePieces (a n : Nat) : List (Nat × Nat) :=
  ((List.range ((a % 128 + n + 127) / 128)).map fun i =>
    let lo := if i = 0 then 0 else 128 * i - a % 128
    (lo, Nat.min n (128 * (i + 1) - a % 128) - lo)).filter (·.2 != 0)

/-- A write of `n` bytes at `a` by a streamer or client waits: its shard is under rebuild, or it is a coded write and some shard of the
region is (R325). -/
def State.codedStall (s : State) (a n : Nat) : Bool :=
  (linePieces a n).any fun p => (s.codedAt (a + p.1)).any fun x => bit x.1.lost x.2.1 || decide (x.2.1 < 4 ∧ x.1.lost ≠ 0)

/-- The region of a number. -/
def State.region (s : State) (rid : Nat) : Option Region := s.stripes.find? (·.rid == rid)

/-- The six bytes of a region at one offset, as they stand. -/
def State.sixBytes (s : State) (r : Region) (off : Nat) : List Byte := (List.range 6).map fun k => s.current (s.located (r.base k + off))

/-- A byte as its holder serves it: memory's, or rebuilt from the survivors of a lost shard (R325). -/
def State.served (s : State) (a : Nat) : Byte :=
  match s.codedAt a with
  | some (r, k, off) => if bit r.lost k then ((rebuildAll r.lost (s.sixBytes r off))[k]?).getD 0 else s.byteAt a
  | none => s.byteAt a

/-- The `n` bytes from `a` as their holder serves them. -/
def State.servedBytes (s : State) (a n : Nat) : List Byte := (List.range n).map fun i => s.served (a + i)

/-- A byte as a streamer reads it: from its owner, or rebuilt. -/
def State.read (s : State) (a : Nat) : Byte := if s.lostAt a then s.served a else s.current a

/-- The `n` bytes from `a` as a streamer reads them (R304). -/
def State.readLine (s : State) (a n : Nat) : List Byte := (List.range n).map fun i => s.read (a + i)

/-- Reading `n` bytes at `a` finds an uncorrectable word, in the line or, for a lost shard, in a survivor (R310, R325). -/
def State.unreadable (s : State) (a n : Nat) : Bool :=
  match s.codedAt a with
  | some (r, k, off) =>
    if bit r.lost k then (List.range 6).any fun j => !bit r.lost j && s.poisoned (r.base j + off) n else s.poisoned a n
  | none => s.poisoned a n

/-! ## Coded writes (R321) -/

/-- The unit that owns the bytes at `a` for a streamer: the channel, the core, or the gateway (R303). -/
def State.ownerUnit (s : State) (a : Nat) : UnitName :=
  match s.place a with
  | .host => ⟨s.mgmt.domain.pkg, 20, 0, false⟩
  | _ => ⟨BitVec.ofNat 10 (addrPkg a), BitVec.ofNat 5 (addrDie a), BitVec.ofNat 8 (addrUnit a), false⟩

/-- The move number that stands for parity deltas in a request's purpose. -/
def parityMove : Nat := 2 ^ 32

/-- Send the delta of a data shard's half to the holders of P and Q (R321). -/
def State.sendDelta (s : State) (u : UnitName) (r : Region) (k off : Nat) (delta : List Byte) (c : CoreName) (op : Nat) : State :=
  let half := off / 128 * 128
  let full := List.replicate (off % 128) 0 ++ delta ++ List.replicate (128 - off % 128 - delta.length) 0
  let p := r.base 4 + half
  let q := r.base 5 + half
  let s := s.post u (s.ownerUnit p) 25 0 false false (.stripe p full) (.engine c op parityMove)
  s.post u (s.ownerUnit q) 25 0 false false (.stripe q (full.map (gfMul (gfTwo k)))) (.engine c op parityMove)

/-- Room for the deltas of a coded write of `n` bytes at `a` by unit `u`: two for each half that it touches. -/
def State.deltaRoom (s : State) (u : UnitName) (a n : Nat) : Bool :=
  let k := 2 * (linePieces a n).length
  (linePieces a n).all fun p =>
    match s.codedAt (a + p.1) with
    | some (r, i, off) => decide (4 ≤ i) ||
        (s.canPost u (s.ownerUnit (r.base 4 + off)) k && s.canPost u (s.ownerUnit (r.base 5 + off)) k)
    | none => true

/-- Write bytes within one line by unit `u` for an engine operation; in a data shard it is a coded write (R321). -/
def State.engineWriteLine (s : State) (u : UnitName) (a : Nat) (bs : List Byte) (c : CoreName) (op : Nat) : State :=
  match s.codedAt a with
  | some (r, k, off) =>
    if 4 ≤ k then s.write a bs
    else
      let delta := (readBytes s.mem a bs.length).zipWith (· ^^^ ·) bs
      (s.write a bs).sendDelta u r k off delta c op
  | none => s.write a bs

/-- Write bytes by unit `u` for an engine operation, line by line: a coded write sends a delta for each half shard (R321). -/
def State.engineWrite (s : State) (u : UnitName) (a : Nat) (bs : List Byte) (c : CoreName) (op : Nat) : State :=
  (linePieces a bs.length).foldl (fun s p => s.engineWriteLine u (a + p.1) ((bs.drop p.1).take p.2) c op) s

/-- Mark the line of `a` uncorrectable (R310). -/
def State.poisonLine (s : State) (a : Nat) : State :=
  s.modHomes fun h => { h with poison := if h.poison.contains (a / 128) then h.poison else (a / 128) :: h.poison }

/-- Write a rebuilt or recomputed half shard, whole, poisoned where a source was unreadable. -/
def State.writeHalf (s : State) (a : Nat) (bs : List Byte) (bad : Bool) : State :=
  let s := s.write a bs
  if bad then s.poisonLine a else s

/-- Write the half shards `outs` of a region at an offset, with what `f` makes of the six bytes at each place. -/
def State.writeShards (s : State) (r : Region) (outs : List Nat) (f : List Byte → List Byte) (off : Nat) (bad : Bool) : State :=
  let six := (List.range 128).map fun i => f (s.sixBytes r (off + i))
  outs.foldl (fun (t : State) k => t.writeHalf (s.located (r.base k + off)) (six.map fun v => (v[k]?).getD 0) bad) s

/-- A line of a group's survivors that is unreadable: with it all of the group's rebuilt shards are poisoned (R324). -/
def State.badGroup (s : State) (r : Region) (lost : BitVec 6) (off : Nat) : Option Nat :=
  ((List.range 6).filter fun k => !bit lost k).findSome? fun k =>
    [0, 128].findSome? fun h =>
      let a := s.located (r.base k + off / 256 * 256 + h)
      if s.poisoned a 128 then some a else none

/-- A line of the data at an offset that is unreadable (R310, R323). -/
def State.badData (s : State) (r : Region) (off : Nat) : Option Nat :=
  (List.range 4).findSome? fun k => if s.unreadable (r.base k + off) 128 then some (r.base k + off) else none

/-- Write words without clearing the poison marker of their lines (R310). -/
def State.writeWords (s : State) (a : Nat) (bs : List Byte) : State :=
  (List.range ((bs.length + 3) / 4)).foldl (fun s i => s.write (a + 4 * i) ((bs.drop (4 * i)).take 4)) s

end Sys2Proof.Machine
end

