-- ==== Sys2Proof/Machine/Chambers.lean ====
section
/-! DEFINITION. Contexts and chambers: lookup, effective values (R53), use counts (R54), the RCB's device fields (R52),
fault reports (R74). -/

namespace Sys2Proof.Machine

/-- Context `x`. -/
def State.findCtx (s : State) (x : BitVec 16) : Option Context := s.work.ctxs.find? (·.ctx == x)

/-- Chamber `cid` of a context. -/
def Context.chamber (c : Context) (cid : W32) : Option Chamber := c.chambers.find? (·.cid == cid)

/-- Chamber `cid` of context `x`. -/
def State.chamber (s : State) (x : BitVec 16) (cid : W32) : Option Chamber := (s.findCtx x).bind (·.chamber cid)

/-- The chamber and its ancestors, nearest first. -/
def Context.line (c : Context) (fuel : Nat) (cid : W32) : List Chamber :=
  match fuel with
  | 0 => []
  | n + 1 =>
    match c.chamber cid with
    | some h => h :: (if h.parent = 0 then [] else c.line n h.parent)
    | none => []

/-- The chamber and its ancestors, nearest first (R54). -/
def State.lineOf (s : State) (x : BitVec 16) (cid : W32) : List Chamber :=
  (s.findCtx x).elim [] fun c => c.line c.chambers.length cid

/-- `a` is chamber `cid` or one of its ancestors. -/
def State.isWithin (s : State) (x : BitVec 16) (cid a : W32) : Bool := (s.lineOf x cid).any (·.cid == a)

/-- CIDs of the chamber and its descendants. -/
def State.family (s : State) (x : BitVec 16) (cid : W32) : List W32 :=
  (s.findCtx x).elim [] fun c => (c.chambers.filter fun h => s.isWithin x h.cid cid).map (·.cid)

/-- The open chambers in CST 1 to 4 (R57). -/
def Chamber.isOpen (h : Chamber) : Bool := h.cst != 0

/-- An effective value that narrows along the line (R53): the field where its OVR bit is set, the least of them. -/
def effective (ovr : Nat) (field : Chamber → Nat) : List Chamber → Nat
  | [] => 0
  | [h] => field h
  | h :: l => if bit h.ovr ovr then min (field h) (effective ovr field l) else effective ovr field l

/-- Effective RETRY (R53). -/
def effRetry : List Chamber → Nat
  | [] => 0
  | [h] => h.retry
  | h :: l => if bit h.ovr 5 then h.retry else effRetry l

/-- Effective CORES, BASIN, MSAVE, POWER and PRIO (R53). -/
def effCores (l : List Chamber) : Nat := effective 0 (·.cores) l
/-- Effective BASIN. -/
def effBasin (l : List Chamber) : Nat := effective 1 (·.basin.toNat) l
/-- Effective MSAVE. -/
def effMsave (l : List Chamber) : Nat := effective 2 (·.msave.toNat) l
/-- Effective POWER. -/
def effPower (l : List Chamber) : Nat := effective 3 (·.power) l
/-- Effective PRIO. -/
def effPrio (l : List Chamber) : Nat := effective 4 (·.prio) l

/-- Effective PRIO of a chamber. -/
def State.prio (s : State) (x : BitVec 16) (cid : W32) : Nat := effPrio (s.lineOf x cid)

/-- The members of a line with each one's own line: R54 checks every ancestor under its own effective value. -/
def tailsOf : List Chamber → List (List Chamber)
  | [] => []
  | h :: l => (h :: l) :: tailsOf l

/-- Bytes 0xA0 to 0xE3 of the RCB, which the device writes (R52, R223). -/
def Chamber.deviceBytes (h : Chamber) : List Byte :=
  toBytes 8 h.nest.next ++ toBytes 8 h.nest.total ++ toBytes 8 h.nest.ext.toNat ++
  toBytes 4 (if h.nest.act then 1 else 0) ++ toBytes 4 h.nest.gen.toNat ++
  toBytes 4 h.cid.toNat ++ toBytes 4 h.live ++ toBytes 4 h.cuse ++ toBytes 4 h.reex ++
  toBytes 8 h.buse ++ toBytes 8 h.muse ++ toBytes 4 h.cst

/-- Change a chamber and write its device fields to its RCB (R51, R52). -/
def State.modChamber (s : State) (x : BitVec 16) (cid : W32) (f : Chamber → Chamber) : State :=
  let s := s.modWork fun w => { w with ctxs := w.ctxs.map fun c =>
    if c.ctx = x then { c with chambers := c.chambers.map fun h => if h.cid = cid then f h else h } else c }
  match s.chamber x cid with
  | some h => s.deviceWrite (h.rcb + 0xA0) h.deviceBytes
  | none => s

/-- Change a chamber and each of its ancestors. -/
def State.modLine (s : State) (x : BitVec 16) (cid : W32) (f : Chamber → Chamber) : State :=
  (s.lineOf x cid).foldl (fun s h => s.modChamber x h.cid f) s

/-- Change a context. -/
def State.modCtx (s : State) (x : BitVec 16) (f : Context → Context) : State :=
  s.modWork fun w => { w with ctxs := w.ctxs.map fun c => if c.ctx = x then f c else c }

/-- The weight of a power class (R30). -/
def weight (pcls : Nat) : Nat := pcls + 1

/-- Add cores and weights to the use of a chamber and its ancestors, and to its die's governor (R30, R54). -/
def State.addUse (s : State) (x : BitVec 16) (cid : W32) (die cores units : Nat) : State :=
  let s := s.modLine x cid fun h => { h with cuse := h.cuse + cores, weights := h.weights + units }
  if h : die < 16 then { s with govs := s.govs.set die { s.govs[die] with sum := s.govs[die].sum + units } h } else s

/-- Take cores and weights from them (R30, R232). -/
def State.subUse (s : State) (x : BitVec 16) (cid : W32) (die cores units : Nat) : State :=
  let s := s.modLine x cid fun h => { h with cuse := h.cuse - cores, weights := h.weights - units }
  if h : die < 16 then { s with govs := s.govs.set die { s.govs[die] with sum := s.govs[die].sum - units } h } else s

/-- The governor of a die. -/
def State.gov (s : State) (die : Nat) : Governor := (s.govs.toList[die]?).getD .reset

/-- R54 allows `cores` more cores and `units` more weight to run in the chamber. -/
def State.mayRun (s : State) (x : BitVec 16) (cid : W32) (cores units : Nat) : Bool :=
  (tailsOf (s.lineOf x cid)).all fun l =>
    match l with
    | h :: _ => decide (h.cuse + cores ≤ effCores l ∧ h.weights + units ≤ effPower l)
    | [] => true

/-- Write a fault report for a chamber (R74), or the black box where its area does not translate (R52), under a TYPE that the
spec does not give (log 2). -/
def State.report (s : State) (x : BitVec 16) (cid : W32) (code : Byte) (rung action : Nat) (core : CoreName)
    (kepc kaddr kcnt : Word) : State :=
  let line := s.lineOf x cid
  let frep := (line.find? (·.frep != 0)).elim 0 (·.frep)
  let reex := line.head?.elim 0 (·.reex)
  match if frep = 0 then none else s.deviceTranslate x frep .store with
  | some a =>
    let n := readNat s.mem a 8
    let rep := withCrc ([code, BitVec.ofNat 8 rung, BitVec.ofNat 8 action, 0] ++ toBytes 4 cid.toNat ++
      toBytes 2 core.toNat ++ [0, 0] ++ toBytes 4 reex ++ toBytes 8 kepc.toNat ++ toBytes 8 kaddr.toNat ++
      toBytes 8 kcnt.toNat ++ List.replicate 20 0)
    (s.deviceWrite (a + 64 * (1 + n % 63)) rep).deviceWrite a (toBytes 8 (n + 1))
  | none => let (w, s) := s.free; s.event (dieOf core) ⟨w.toNat % 256, code, core, x, cid, kaddr, 0⟩

end Sys2Proof.Machine
end

