-- ==== Sys2Proof/Machine/BasinStore.lean ====
section
/-! DEFINITION. What an L2 slice keeps for the basin and how it changes (R329 to R334, R340 to R344): grants, reads,
forfeits, freeing and destruction. The instructions are in Basin.lean. -/

namespace Sys2Proof.Machine

/-- `a` precedes `b` in sequence order (R332). -/
def seqBefore (a b : W32) : Bool := decide (1 ≤ (b - a).toNat ∧ (b - a).toNat < 2 ^ 31)
/-- The later of two sequences. -/
def seqMax (a b : W32) : W32 := if seqBefore a b then b else a

/-- PART of a partition word, handle or debt word (R330). -/
def wordPart (w : Word) : BitVec 23 := bits w 37 23
/-- LANE of a debt word. -/
def debtLane (w : Word) : Nat := (bits w 60 4).toNat
/-- FIRST of a debt word, or the sequence of a handle. -/
def wordSeq (w : Word) : W32 := bits w 0 32
/-- A partition word (R330). -/
def partWord (p : BitVec 23) : Word := p.setWidth 64 <<< 37

/-- The partition of that name. -/
def State.basin (s : State) (p : BitVec 23) : Option BPart := s.basins.find? (·.part == p)
/-- Change a partition. -/
def State.modBasin (s : State) (p : BitVec 23) (f : BPart → BPart) : State :=
  { s with basins := s.basins.map fun b => if b.part = p then f b else b }
/-- A lane of a partition. -/
def BPart.lane (b : BPart) (n : Nat) : BLane := (b.lanes.toList[n]?).getD ⟨0, none⟩
/-- Change a lane. -/
def BPart.modLane (b : BPart) (n : Nat) (f : BLane → BLane) : BPart :=
  if h : n < 16 then { b with lanes := b.lanes.set n (f b.lanes[n]) h } else b

/-- The live basin tile of a sequence. -/
def BPart.tile (b : BPart) (q : W32) : Option BTile := b.tiles.find? (·.seq == q)

/-- Reads of a debt still due (R334): from the later of cursor and FIRST up to FIRST + OWED. -/
def BPart.remaining (b : BPart) (debt : Word) (owed : Nat) : Nat :=
  let first := wordSeq debt
  let c := seqMax (b.lane (debtLane debt)).cursor first
  let fin := first + BitVec.ofNat 32 owed
  if seqBefore c fin then (fin - c).toNat else 0

/-- The reads a task still owes (R333, R334): 0 when OWED is 0 or the debt is void. -/
def State.owedBy (s : State) (debt : Word) (owed : Nat) : Nat :=
  if owed = 0 then 0 else (s.basin (wordPart debt)).elim 0 fun b => b.remaining debt owed

/-- A request waiting at a slice, by its key. -/
def State.recvOf (s : State) (key : UnitName × Byte × BitVec 16) : Option Recv :=
  s.fab.rxq.find? fun r => decide (r.src = key.1 ∧ r.epoch = key.2.1 ∧ r.seq = key.2.2 ∧ r.cls = 22)

/-- Answer a basin request that waited. -/
def State.answerKey (s : State) (key : UnitName × Byte × BitVec 16) (status : Byte) (body : Body) : State :=
  (s.recvOf key).elim s fun r => s.answer r status body

/-- The allocation at the head of the queue can be granted (R340). -/
def State.canGrant (s : State) (b : BPart) : Bool :=
  match b.queue with
  | a :: _ => decide (b.used + a.pages ≤ b.cap) && decide (b.tiles.length < 64) &&
      (tailsOf (s.lineOf b.ctx a.cid)).all fun l =>
        decide ((l.head?.elim 0 (·.buse)) + 4096 * a.pages ≤ effBasin l)
  | [] => false

/-- Grant the allocation at the head of the queue, if it can be (R340): its sequence is NEXT, its READS lose one for each
lane whose pending range covers it, and the answer is the handle. -/
def State.grantHead (s : State) (p : BitVec 23) : State :=
  match s.basin p with
  | none => s
  | some b =>
    match b.queue with
    | [] => s
    | a :: rest =>
      if s.canGrant b then
        let q := b.next
        let covers (l : BLane) := l.pend.elim false fun r => !seqBefore q r.1 && !seqBefore r.2 q
        let n := a.reads - (b.lanes.toList.filter covers).length
        let clear (l : BLane) := if l.pend.elim false (fun r => r.2 == q) then { l with pend := none } else l
        let s := s.modBasin p fun b => { b with
          next := q + 1, queue := rest, used := b.used + a.pages, lanes := b.lanes.map clear
          tiles := b.tiles ++ [⟨q, a.pages, .opened, false, n, (s.lineOf b.ctx a.cid).map (·.cid), a.holder, 0, []⟩] }
        let s := s.modLine b.ctx a.cid fun h => { h with buse := h.buse + 4096 * a.pages }
        s.answerKey a.key 0 (.value [partWord p ||| q.setWidth 64])
      else s

/-- BUSE falls by a freed tile's size, for the charged chamber and those of its ancestors that are open (R343). -/
def State.uncharge (s : State) (b : BPart) (t : BTile) : State :=
  t.line.foldl (fun s cid => s.modChamber b.ctx cid fun h => { h with buse := h.buse - 4096 * t.pages }) s

/-- Free a basin tile: its pages return, BUSE falls, and the head of the queue is served in the same step (R343). -/
def State.freeBasinTile (s : State) (p : BitVec 23) (q : W32) : State :=
  match (s.basin p).bind fun b => (b.tile q).map fun t => (b, t) with
  | none => s
  | some (b, t) =>
    let s := s.modBasin p fun b => { b with used := b.used - t.pages, tiles := b.tiles.filter (·.seq != q) }
    (s.uncharge b t).grantHead p

/-- A read of the tile is being served: not every line of it has been accepted (R342). -/
def State.reading (s : State) (p : BitVec 23) (q : W32) : Bool :=
  s.fab.rxq.any fun r => match r.body with
    | .basin (.serving a b _ _ _ _) => a == p && b == q
    | _ => false

/-- A sealed tile of which no read is due, and none is being served, is freed (R342 to R344). -/
def State.freeIfRead (s : State) (p : BitVec 23) (q : W32) : State :=
  match (s.basin p).bind (·.tile q) with
  | some t => if t.reads = 0 ∧ t.state = .sealed ∧ s.reading p q = false then s.freeBasinTile p q else s
  | none => s

/-- One read of a tile fewer (R342, R344). -/
def State.countRead (s : State) (p : BitVec 23) (q : W32) : State :=
  (s.modBasin p fun b => { b with tiles := b.tiles.map fun t => if t.seq = q then { t with reads := t.reads - 1 } else t }).freeIfRead p q

/-- Forfeit sequence `q` on lane `l` (R344). -/
def State.forfeitSeq (s : State) (p : BitVec 23) (l : Nat) (q : W32) : State :=
  match s.basin p with
  | none => s
  | some b =>
    if (b.tile q).isSome then s.countRead p q
    else if seqBefore q b.next then s
    else s.modBasin p fun b => b.modLane l fun x =>
      { x with pend := some (x.pend.elim (q, q) fun r =>
          (if seqBefore q r.1 then q else r.1, seqMax r.2 q)) }

/-- Forfeit `n` sequences from `q` on lane `l` (R344). -/
def State.forfeitRun (s : State) (p : BitVec 23) (l : Nat) (q : W32) (n : Nat) : State :=
  (List.range n).foldl (fun s i => s.forfeitSeq p l (q + BitVec.ofNat 32 i)) s

/-- Serve a read of a sealed tile (R342): one of a poisoned tile, or into a tile too small, ends at once; for any other the lines are sent,
and the slice keeps what it has yet to send in the request. -/
def State.startRead (s : State) (p : BitVec 23) (t : BTile) (r : BRead) : State :=
  let s := s.modBasin p fun b => { b with reads := b.reads.filter (·.key != r.key) }
  if t.poison then (s.answerKey r.key 0x0A .none).countRead p t.seq
  else if t.pages > r.room then
    (s.modBasin p fun b => b.modLane r.lane fun x => { x with cursor := t.seq }).answerKey r.key 0x01 .none
  else
    let x := BasinReq.serving p t.seq r.op t.data 0 (t.data.length / 128)
    ((s.recvOf r.key).elim s fun v => s.modFab fun f => { f with
      rxq := f.rxq.map fun y => if y.same v then { y with body := .basin x } else y }).countRead p t.seq

/-- Seal a tile (R341): freed at once if no read is due; the reads that wait for it are served in the order of their acceptance. -/
def State.sealTile (s : State) (p : BitVec 23) (q : W32) (poison : Bool) : State :=
  let s := s.modBasin p fun b => { b with tiles := b.tiles.map fun t =>
    if t.seq = q then { t with state := .sealed, poison := t.poison || poison } else t }
  match (s.basin p).bind fun b => (b.tile q).map fun t => (b, t) with
  | some (b, t) =>
    if t.reads = 0 then s.freeBasinTile p q else (b.reads.filter (·.seq == q)).foldl (fun s r => s.startRead p t r) s
  | none => s

/-- Bytes `d` put into a tile's data at line `i`. -/
def putLine (i : Nat) (d data : List Byte) : List Byte :=
  (data ++ List.replicate (128 * i - data.length) 0).take (128 * i) ++ d ++ data.drop (128 * i + d.length)

/-- A line of a sealing fill has come (R341): with the last the tile is sealed. -/
def State.fillTile (s : State) (p : BitVec 23) (t : BTile) (i : Nat) (d : List Byte) (poison : Bool) : State :=
  let t' := { t with lines := t.lines + 1, data := putLine i d t.data, poison := t.poison || poison }
  let s := s.modBasin p fun b => { b with tiles := b.tiles.map fun y => if y.seq = t.seq then t' else y }
  if 32 * t.pages ≤ t'.lines then s.sealTile p t.seq false else s

/-- The open basin tile that tile `n` of a task stages, by the partition that its entry names (R335, R340). -/
def State.boundTile (s : State) (task : Nat) (n : TileNo) (e : Word) : Option BTile :=
  (s.basin (bits e 41 23)).bind fun b => b.tiles.find? fun x => x.state == .opened && x.holder == (task, n)

/-- Every basin tile that satisfies `f` is sealed poisoned. -/
def State.sealWhere (s : State) (f : BTile → Bool) : State :=
  let ts := s.basins.flatMap fun b => (b.tiles.filter f).map fun t => (b.part, t.seq)
  ts.foldl (fun s t => s.sealTile t.1 t.2 true) s

/-- The basin tiles that an ending task has staged and not begun to seal are sealed poisoned, without data: also one whose grant is on
its way (R349). -/
def State.sealStaging (s : State) (task : Nat) : State := s.sealWhere fun t => t.state == .opened && t.holder.1 == task

/-- Free every tile that no read is due of or served from (R343): after the requests of a lost die have gone. -/
def State.freeUnread (s : State) : State :=
  (s.basins.flatMap fun b => b.tiles.map fun t => (b.part, t.seq)).foldl (fun s t => s.freeIfRead t.1 t.2) s

/-- The core once operation `id` has let its ranges go. -/
def Core.unlock (k : Core) (id : Nat) : Core :=
  k.modMem fun m => { m with locks := (m.locks.map fun l => { l with ops := l.ops.filter (· != id) }).filter (!·.ops.isEmpty) }

/-- Destroy a partition (R331): waiting allocations get status 3, waiting reads overread, everything is freed. -/
def State.destroyBasin (s : State) (p : BitVec 23) : State :=
  match s.basin p with
  | none => s
  | some b =>
    let s := b.tiles.foldl (fun s t => s.uncharge b t) s
    let s := { s with basins := s.basins.filter (·.part != p) }
    let s := b.queue.foldl (fun s a => s.answerKey a.key 0 (.value [0x8000000000000003#64])) s
    b.reads.foldl (fun s r => s.answerKey r.key 0x07 (.value [setBits r.debt 0 r.seq])) s

/-- Withdraw a request that waits at a slice: from its queue entry, from its source, and with the engine operation it served
(R349, R350). -/
def State.withdraw (s : State) (key : UnitName × Byte × BitVec 16) : State :=
  let same (o : Outst) : Bool := decide (o.src = key.1 ∧ o.epoch = key.2.1 ∧ o.seq = key.2.2 ∧ o.cls = 22)
  let ops := s.fab.outst.filterMap fun o => if same o then (match o.purpose with
    | .bld c op => some (c, op)
    | _ => none) else none
  let s := s.modFab fun f => { f with
    rxq := f.rxq.filter fun r => !decide (r.src = key.1 ∧ r.epoch = key.2.1 ∧ r.seq = key.2.2 ∧ r.cls = 22)
    outst := f.outst.filter fun o => !same o }
  ops.foldl (fun s x => s.modCore x.1 fun k => (k.unlock x.2).modMem fun m => { m with ops := m.ops.filter (·.id != x.2) }) s

/-- The allocation of a task. -/
def BasinReq.allocBy (task : Nat) : BasinReq → Bool
  | .alloc _ _ _ _ t _ => t == task
  | _ => false

/-- The read of a task. -/
def BasinReq.readBy (task : Nat) : BasinReq → Bool
  | .read _ _ _ t _ => t == task
  | _ => false

/-- The request is for a slice, of those that `f` names, and no slice has accepted it. -/
def State.underway (s : State) (f : BasinReq → Bool) (o : Outst) : Bool :=
  (match o.body with
    | .basin q => f q
    | _ => false) && !s.performed o && (s.recvOf (o.src, o.epoch, o.seq)).isNone

/-- The basin requests that `f` names and no slice has accepted are withdrawn: what arrives asks for nothing, and the engine operations
they served end. -/
def State.recall (s : State) (f : BasinReq → Bool) : State :=
  let gone := s.fab.outst.filter (s.underway f)
  let void : Body := .basin (.query 4 0 0)
  let is (o : Outst) (x : Flit) : Bool :=
    decide (x.kind = .request ∧ x.src = o.src ∧ x.dst = o.dst ∧ x.epoch = o.epoch ∧ x.seq = o.seq ∧ x.cls = o.cls)
  let ops := gone.filterMap fun o => match o.purpose with
    | .bld c op => some (c, op)
    | _ => none
  let s := s.modFab fun b => { b with
    outst := b.outst.map fun o => if gone.contains o then { o with body := void, purpose := .none } else o
    flits := b.flits.map fun x => if gone.any (is · x) then x.rebody void else x }
  ops.foldl (fun s x => s.modCore x.1 fun k => (k.unlock x.2).modMem fun m => { m with ops := m.ops.filter (·.id != x.2) }) s

/-- Withdraw the allocation of core `c`'s task that waits, or is on its way (R349, R350): the instruction has not retired. -/
def State.withdrawAlloc (s : State) (c : CoreName) : State :=
  match (s.getCore c).ctl.task with
  | none => s
  | some t =>
    let mine := s.basins.flatMap fun b => b.queue.filter (·.holder.1 == t.id)
    if mine.isEmpty && !(s.fab.outst.any (s.underway (BasinReq.allocBy t.id))) then s
    else
      let s := (mine.foldl (fun s a => s.withdraw a.key) s).recall (BasinReq.allocBy t.id)
      let s : State := { s with basins := s.basins.map fun (b : BPart) => { b with queue := b.queue.filter (·.holder.1 != t.id) } }
      s.modCore c fun k => k.modCtl fun x => { x with awaits := x.awaits.filter fun a => !(a.sent && !a.carried && a.q == .control) }

/-- Move the cursor of a debt's lane `n` reads on, from FIRST if it stands before that: what it jumps past is forfeited, and what it moves
over (R334, R344). -/
def State.forfeitOn (s : State) (debt : Word) (b : BPart) (n : Nat) : State :=
  let p := wordPart debt
  let l := debtLane debt
  let first := wordSeq debt
  let cur := (b.lane l).cursor
  let c := seqMax cur first
  let s := if seqBefore cur first then s.forfeitRun p l cur (first - cur).toNat else s
  (s.forfeitRun p l c n).modBasin p fun b => b.modLane l fun x => { x with cursor := c + BitVec.ofNat 32 n }

/-- Withdraw the reads of a discarded task that wait, and forfeit their sequences (R349). -/
def State.withdrawReads (s : State) (task : Nat) : State :=
  let mine := s.basins.flatMap fun b => (b.reads.filter (·.task == task)).map fun r => (b.part, r)
  mine.foldl (fun s x =>
    ((s.modBasin x.1 fun b => { b with reads := b.reads.filter (·.key != x.2.key) }).withdraw x.2.key).forfeitSeq x.1 x.2.lane x.2.seq)
    (s.recall (BasinReq.readBy task))

/-- Forfeit all that remains of a debt (R349). -/
def State.settleDebt (s : State) (debt : Word) (owed : Nat) : State :=
  match if owed = 0 then none else s.basin (wordPart debt) with
  | none => s
  | some b => s.forfeitOn debt b (b.remaining debt owed)

end Sys2Proof.Machine
end

