-- ==== Sys2Proof/Machine/Tasks.lean ====
section
/-! DEFINITION. Tasks and chambers in time: records (R43 to R46), saving and restoring (R188 to R190), discard and the
retirement sweep (R227), failure (R68), re-execution (R71), the recovery ladder (R69 to R73), the double trap (R185). -/

namespace Sys2Proof.Machine

/-! ## Records (R43, R44) -/

/-- Flags word of a record. -/
def recFlags (r : Rec) : W32 := bits r 448 32
/-- ENTRY. -/
def recEntry (r : Rec) : Word := bits r 0 64
/-- CID. -/
def recCid (r : Rec) : W32 := bits r 160 32
/-- ARG`n`. -/
def recArg (r : Rec) (n : Nat) : Word := bits r (192 + 64 * n) 64
/-- OWED. -/
def recOwed (r : Rec) : Nat := (bits (recFlags r) 24 8).toNat
/-- Rows and columns of the team. -/
def recTeam (r : Rec) : Nat × Nat := ((bits (recFlags r) 21 3).toNat + 1, (bits (recFlags r) 18 3).toNat + 1)
/-- TEAM. -/
def recIsTeam (r : Rec) : Bool := bit (recFlags r) 17
/-- PCLS. -/
def recPcls (r : Rec) : Nat := (bits (recFlags r) 15 2).toNat
/-- RST. -/
def recRst (r : Rec) : Bool := bit (recFlags r) 14
/-- PIN. -/
def recPin (r : Rec) : Bool := bit (recFlags r) 13
/-- Cores and weight a record takes (R50, R54). -/
def recSize (r : Rec) : Nat := (recTeam r).1 * (recTeam r).2
/-- Its weight. -/
def recWeight (r : Rec) : Nat := recSize r * weight (recPcls r)
/-- A record as bytes. -/
def recBytes (r : Rec) : List Byte := toBytes 64 r.toNat
/-- The record of 64 bytes. -/
def recOf (bs : List Byte) : Rec := BitVec.ofNat 512 (ofBytes bs)
/-- The record with its CRC recomputed by the device (R45). -/
def recFix (r : Rec) : Rec := setBits r 480 (crc32c ((recBytes r).take 60))
/-- The record passes R45 but for its CID. -/
def recForm (r : Rec) : Bool :=
  bits r 480 32 == crc32c ((recBytes r).take 60) && bits (recFlags r) 0 8 == 1 && bits (recFlags r) 8 4 == 0 &&
    (recIsTeam r || recSize r == 1)
/-- The record passes R45 in context `x`. -/
def State.recOk (s : State) (x : BitVec 16) (r : Rec) : Bool :=
  recForm r && (s.chamber x (recCid r)).any (·.isOpen)

/-! ## Core resources -/

/-- The backing frame of scratch page `i` of task `n` (R126): frames of the pool are the task's own, four for the stack, two for the save
frame (R189), fifty for the matrix save area (R379), and those that a park writes the tiles to (R407). -/
def taskFrame (n i : Nat) : Nat := (Config.framePool.toNat + 184 * n + i) * 4096

/-- The scratch pages of the matrix save area, which no address names (R379). -/
def matrixPages (n : Nat) : List ScratchPage := (List.range 50).map fun i => ⟨none, taskFrame n (6 + i), none⟩

/-- Free the local pages that satisfy `f`. -/
def Core.freePages (k : Core) (f : Page → Bool) : Core :=
  { k with mem := { k.mem with pages := k.mem.pages.map fun p => if f p then ⟨.free, 0, false, false, 0⟩ else p } }

/-- BASE and number of pages of a tile-table entry (R335). -/
def tilePages (e : Word) : List Nat :=
  if bits e 0 2 = 0 then [] else (List.range ((bits e 4 4).toNat + 1)).map ((bits e 8 7).toNat + ·)

/-- Free the pages of every tile of a tile table. -/
def Core.freeTiles (k : Core) (tiles : Vector Word 64) : Core :=
  let ps := tiles.toList.flatMap tilePages
  let pages : Vector Page 128 := Vector.ofFn fun i =>
    if ps.contains i.val then ⟨.free, 0, false, false, 0⟩ else k.mem.pages.get i
  k.modMem fun m => { m with pages := pages }

/-- A registration of a line's words is withdrawn: it names no word any more. -/
def Body.unregister (b : Body) (line : Nat) : Body :=
  match b with
  | .reg l m x => if l = line then .reg l 0 0 else .reg l m x
  | b => b

/-- The words of a line that core `c` has stored to, with the registration not yet accepted, are registered now: their stores have
their points (R131), their bytes are merged with the home's (R135), and the registration under way names no word any more. -/
def State.registerNow (s : State) (c : CoreName) (line : Nat) : State :=
  let u := coreUnit s c
  let open_ := s.fab.outst.filter fun o => o.registers c line 0xFFFFFFFF#32 && !s.performed o
  let late := (maskWords line 0xFFFFFFFF#32).filter fun w => decide ((s.getCore c).word w = some .P) && !s.accepted c w
  if late.isEmpty then s
  else
    let s := s.takeBack line (maskOf late)
    let s := open_.foldl (fun s o => match o.purpose, o.body with
      | .reg _ id _ _, .reg _ _ sub => s.mergeSub c id line sub
      | _, _ => s) s
    let s := late.foldl (fun (s : State) w => s.write (4 * w) (toBytes 4 (s.stashValue c w).toNat)) s
    s.modFab fun f => { f with
      outst := f.outst.map fun o => if o.src = u then { o with body := o.body.unregister line } else o
      rxq := f.rxq.map fun r => if r.src = u then { r with body := r.body.unregister line } else r
      flits := f.flits.map fun x => if x.src = u then x.rebody (x.body.unregister line) else x }

/-- Write the words in O and P of core `c` back to their homes and clear every stash word (R140, R227; log 13). -/
def State.flushWords (s : State) (c : CoreName) : State :=
  let u := coreUnit s c
  let lines := (((s.getCore c).mem.stash.filter fun e => decide (e.2 ≠ .V)).map (·.1 / 32)).eraseDups
  let s := lines.foldl (fun (s : State) line =>
    let s := s.registerNow c line
    let own := (maskWords line 0xFFFFFFFF#32).filter (s.owns c)
    (s.acceptWords u line (own.map fun w => (w, s.stashValue c w))).wordsBack u line (maskOf own)) s
  (s.spoilFills c fun _ => true).modCore c fun k => k.modMem fun m => { m with stash := [] }

/-- The same, and the stash pages are freed (R209). -/
def State.flushStash (s : State) (c : CoreName) : State := (s.flushWords c).modCore c fun k => k.freePages fun p => p.role == .stash

/-- Write a resident scratch page to its backing frame (R126). -/
def State.unloadPage (s : State) (c : CoreName) (p : ScratchPage) : State :=
  match p.page with
  | some n => s.deviceWrite p.frame (readBytes s.mem (s.sramBase c + 4096 * n) 4096)
  | none => s

/-- The spilled pages of core `c` that satisfy `f` are accepted by L2, in their order (R148). -/
def State.drainSpills (s : State) (c : CoreName) (f : Spill → Bool) : State :=
  let s := ((s.getCore c).mem.spills.filter f).foldl (fun (s : State) e => s.deviceWrite e.frame e.bytes) s
  s.modCore c fun k => k.modMem fun m => { m with spills := m.spills.filter fun e => !f e }

/-- Unpin every scratch page of core `c`'s task (R64, R126); bytes of them that wait for L2 go first (R148). -/
def State.unpinScratch (s : State) (c : CoreName) : State :=
  match (s.getCore c).ctl.task with
  | none => s
  | some t =>
    let s := s.drainSpills c fun e => t.scratch.any (·.frame == e.frame)
    let s := t.scratch.foldl (fun s p => s.unloadPage c p) s
    let t := { t with scratch := t.scratch.map fun p => { p with page := none } }
    s.modCore c fun k => (k.modCtl fun x => { x with task := some t }).freePages fun p => p.role == .scratch

/-- Change the task of that name in a saved state. -/
def Saved.modTask (v : Saved) (id : Nat) (f : Task → Task) : Saved := if v.task.id = id then { v with task := f v.task } else v

/-- Change saved states wherever they are: resume lists, park slots, ships in flight. -/
def State.modSaved (s : State) (f : Saved → Saved) : State :=
  let inCore (k : Core) : Core := k.modSched fun h => { h with resume := h.resume.map fun r => { r with saved := f r.saved } }
  let ship (h : Ship) : Ship := { h with saved := f h.saved }
  let body (b : Body) : Body := match b with
    | .ship h => .ship (ship h)
    | b => b
  { s with
    core := inCore s.core
    cores := s.cores.map fun (e : CoreName × Core) => (e.1, inCore e.2)
    services := s.services.map fun v => { v with parks := v.parks.map fun (p : Nat × Ship) => (p.1, ship p.2) }
    fab := { s.fab with
      outst := s.fab.outst.map fun o => { o with body := body o.body }
      rxq := s.fab.rxq.map fun r => { r with body := body r.body }
      flits := s.fab.flits.map fun x => x.rebody (body x.body) } }

/-- Change every task, running or not. -/
def State.modTasks (s : State) (f : Task → Task) : State :=
  let g (k : Core) : Core := k.modCtl fun c => { c with task := c.task.map f }
  let s := { s with core := g s.core, cores := s.cores.map fun (e : CoreName × Core) => (e.1, g e.2) }
  s.modSaved fun v => { v with task := f v.task }

/-- End the must-save extents that satisfy `f` (R438): the windows on them are no more. -/
def State.endExtents (s : State) (f : Extent → Bool) : State :=
  let gone := (s.mgmt.reserve.extents.filter f).map (·.num)
  let s := s.modMgmt fun m => { m with reserve := { m.reserve with extents := m.reserve.extents.filter fun e => !f e } }
  if gone.isEmpty then s else s.modTasks fun t => { t with windows := t.windows.filter fun w => !gone.contains w.toNat }

/-- The handle of extent `n` of this package (R450). -/
def State.handle (s : State) (n : BitVec 12) : Word := (s.mgmt.domain.pkg.setWidth 64 <<< 32) ||| n.setWidth 64

/-- Abandon the update windows of a task (R440). -/
def State.abandonWindows (s : State) (t : Task) : State :=
  s.modMgmt fun m => { m with reserve := { m.reserve with extents := m.reserve.extents.map fun e =>
    let n := (t.windows.filter (·.toNat == e.num)).length
    if n = 0 then e else { e with opens := e.opens - n, dirty := true } } }

/-- Messages in the ring of a polled binding (R292): TAIL less HEAD. -/
def State.ringCount (s : State) (b : Bind) : Nat := (readWord s.mem (b.buf + 8) - readWord s.mem b.buf).toNat

/-- The messages left in rings are discarded (R294): HEAD rises to TAIL. -/
def State.emptyRings (s : State) (bs : List Bind) : State :=
  bs.foldl (fun s b => s.deviceWrite b.buf (readBytes s.mem (b.buf + 8) 8)) s

/-- Remove the bindings that satisfy `f` from every core, and installs of them on their way (R285, R287); messages held by a polled
binding count as received (R294, R299). -/
def State.dropBinds (s : State) (f : Bind → Bool) : State :=
  let count (b : Bind) : Nat := s.ringCount b
  let g (c : CoreName) (k : Core) : Core :=
    let lost := k.msg.fast.filter fun m => (m.bind.elim false f)
    let rings := k.msg.binds.filter fun b => f b && b.polled && b.core == c
    let n := lost.length + (rings.map count).sum
    { k with
      msg := { k.msg with binds := k.msg.binds.filter fun b => !f b, fast := k.msg.fast.filter fun m => !(m.bind.elim false f) }
      ctl := { k.ctl with k := { k.ctl.k with krecv := k.ctl.k.krecv + BitVec.ofNat 64 n } } }
  let own (c : CoreName) (k : Core) : List Bind := k.msg.binds.filter fun b => f b && b.polled && b.core == c
  let s := s.emptyRings (own s.cur s.core ++ s.cores.flatMap fun e => own e.1 e.2)
  { s with
    core := g s.cur s.core, cores := s.cores.map fun e => (e.1, g e.1 e.2)
    fab := { s.fab with installs := s.fab.installs.filter fun i => i.remove || !f i.bind } }

/-- Another member of the team has not ended: it runs, is pre-empted, or moves (R232). -/
def State.teamLeft (s : State) (gang : Nat) (task : Nat) : Bool :=
  let has (t : Task) : Bool := decide (t.id ≠ task) && t.team.any (·.gang == gang)
  let inCore (k : Core) : Bool := k.ctl.task.any has || k.sched.resume.any fun r => has r.saved.task
  inCore s.core || (s.cores.any fun e => inCore e.2) || (s.services.any fun v => v.parks.any fun p => has p.2.saved.task) ||
    s.fab.outst.any fun o => match o.body with
      | .ship h => has h.saved.task
      | _ => false

/-- The members of a team share a debt, which is checked, and forfeited, at the end of the last (R227, R333). -/
def State.lastMember (s : State) (t : Task) : Bool := !t.team.any fun m => s.teamLeft m.gang t.id

/-- Forfeit the reads that an ending task still owes: those of its own that wait, and, where no other member of its team is left, the rest of
the debt (R227, R232, R349). -/
def State.forfeitOf (s : State) (t : Task) : State :=
  let s := s.withdrawReads t.id
  if s.lastMember t then s.settleDebt (recArg t.record 3) (recOwed t.record) else s

/-- LIVE falls for the task's chamber, unless other team members remain (R227, R232). -/
def State.lowerLive (s : State) (t : Task) : State :=
  if t.team.any fun m => s.teamLeft m.gang t.id then s
  else s.modChamber t.ctx t.cid fun h => { h with live := h.live - 1 }

/-- What is due once the task has gone: a PREEMPT was due to that task; a break request stays due (R183). -/
def Due.left (d : Due) : Due := { d with preempt := false, preemptForced := false, command := false, brkFirst := true }

/-- The control sequencer once its task has gone; what a class routine holds and waits for stays (R289). -/
def Control.vacated (c : Control) : Control := { c with
  run := if c.run = .halted then .halted else .idle, task := none
  stalls := c.stalls.filter (·.1 == .routine), holds := c.holds.filter (·.q == .routine)
  awaits := c.awaits.filter (·.q == .routine), misses := c.misses.filter (·.q == .routine)
  oc := .reset, due := c.due.left, leave := none }

/-- The matrix unit once its task has gone. -/
def Matrix.vacated (m : Matrix) : Matrix := { m with
  slots := Vector.replicate 8 .empty, banks := Vector.replicate 2 .empty, accs := [], reorder := [], team := 0, join := none }

/-- The core once its task has left: nothing of the task remains, its tile pages, locks and engine operations stay (R64). -/
def Core.vacate (k : Core) : Core :=
  { k with
    ctl := k.ctl.vacated, vs := .reset, ms := .reset, mat := k.mat.vacated
    mem := { k.mem with tiles := Vector.replicate 64 0 } }

/-- The core once its task has ended: its tiles, scratch and stash pages are free, its accesses are forgotten (R227, R232, R380, R404).
Issued engine operations go on, under their locks (R145, R327); pages of tasks in the resume list stay (R64). -/
def Core.clearTask (k : Core) : Core :=
  let k := ((k.freeTiles k.mem.tiles).freePages fun p => p.role == .scratch || p.role == .stash).vacate
  { k with
    mem := { k.mem with
      stash := [], loads := k.mem.loads.filter (·.q == .routine), stores := k.mem.stores.filter (·.q == .routine) }
    pair := none }

/-- Answers on their way to instructions that core `c` has abandoned serve nothing: those of a class routine, or of the task. -/
def State.abandon (s : State) (c : CoreName) (routine : Bool) : State :=
  s.modFab fun f => { f with outst := f.outst.map fun o =>
    match o.purpose with
    | .await d q _ _ => if d = c ∧ (q == .routine) = routine then { o with purpose := .none } else o
    | .send d q _ _ _ _ => if d = c ∧ q = .routine ∧ routine = true then { o with purpose := .none } else o
    | _ => o }

/-- Free the tokens of a core's misses (R404). -/
def State.dropTokens (s : State) (c : CoreName) : State :=
  { s with services := s.services.map fun v => { v with tokens := v.tokens.filter fun t => !decide (t.core = c ∧ t.q ≠ .routine) } }

/-- The instruction that waits has had its effect, or holds a counter's unit: a trap that comes before its answer leaves the wait, and the
instruction takes the answer where it runs again. -/
def Await.lasting (a : Await) : Bool := a.sent || a.unit || a.back

/-- The locks of a discarded task's engine operations die with its state; the operations go on (R327). -/
def State.dropLocks (s : State) (task : Nat) : State :=
  (s.cur :: s.cores.map (·.1)).foldl (fun s c => s.modCore c fun k =>
    (k.mem.ops.filter (·.task == task)).foldl (fun k o => k.unlock o.id) k) s

/-- The registers of R422. -/
def Core.pairRegs (k : Core) : PairRegs := ⟨k.thr, k.ctl.idx, k.ctl.k, k.vec⟩

/-- The core with the registers of R422 set. -/
def Core.setPair (k : Core) (r : PairRegs) : Core :=
  { k with
    thr := { k.thr with g := r.thr.g, pc := r.thr.pc, kstatus := r.thr.kstatus, kpfx := r.thr.kpfx, kvec := r.thr.kvec }
    ctl := { k.ctl with
      idx := r.idx
      k := { k.ctl.k with knoise := r.k.knoise, kmember := r.k.kmember, kchk := r.k.kchk } }
    vec := r.vec }

/-- Send the checker of core `c`'s pair back to its scheduler (R427, R430). -/
def State.releaseChecker (s : State) (c : CoreName) : State :=
  match (s.getCore c).pair, (s.getCore c).ctl.task with
  | some p, some t =>
    let s := s.modCore p.partner fun k => (k.setPair p.own).modCtl fun x => { x with run := .idle, k := { x.k with kcnt := p.kcnt } }
    let s := s.subUse t.ctx t.cid (dieOf c) 1 (weight (recPcls t.record))
    s.modCore c fun k => { k with pair := none }
  | _, _ => s

/-- Core `c` gives up a partner that it has reserved for a pair (R429). -/
def State.unreserve (s : State) (c : CoreName) : State :=
  s.modCore (c ^^^ 1) fun k => { k with sched := { k.sched with
    reserved := if k.sched.reserved = some (.pair c) then none else k.sched.reserved } }

/-- End the task running on core `c`: settle its debt, write back stash words, free what it holds, lower its use
(R227 steps 1 to 5, R232). -/
def State.endRunning (s : State) (c : CoreName) : State :=
  match (s.getCore c).ctl.task with
  | none => s
  | some t =>
    let s := ((s.releaseChecker c).unreserve c).withdrawAlloc c
    let s := s.forfeitOf t
    let s := s.sealStaging t.id
    let s := s.flushStash c
    let s := s.abandonWindows t
    let s := s.dropBinds fun b => b.polled && b.task == t.id
    let s := ((s.dropTokens c).abandon c false).dropLocks t.id
    let s := s.modCore c Core.clearTask
    let s := s.lowerLive t
    s.subUse t.ctx t.cid (dieOf c) 1 (weight (recPcls t.record))

/-- Discard a task that is out of its core (in a resume list, a park slot or a ship): its debt, staging tiles, windows, polled bindings and
place in LIVE go. -/
def State.discardSaved (s : State) (v : Saved) : State :=
  let s := (((s.forfeitOf v.task).sealStaging v.task.id).abandonWindows v.task).dropLocks v.task.id
  (s.dropBinds fun b => b.polled && b.task == v.task.id).lowerLive v.task

/-- Discard a record that has not started (R227): all of OWED is forfeited. -/
def State.discardRecord (s : State) (x : BitVec 16) (r : Rec) : State :=
  let s := s.settleDebt (recArg r 3) (recOwed r)
  s.modChamber x (recCid r) fun h => { h with live := h.live - 1 }

/-- The cores whose state differs from reset. -/
def State.knownCores (s : State) : List CoreName := s.cur :: s.cores.map (·.1)

/-- The task is of one of the chambers `cids` of context `x`. -/
def Task.among (t : Task) (x : BitVec 16) (cids : List W32) : Bool := t.ctx == x && cids.contains t.cid
/-- The record is of one of them. -/
def Slot.among (d : Slot) (x : BitVec 16) (cids : List W32) : Bool := d.ctx == x && cids.contains (recCid d.record)

/-- Sweep one core's resume list and deque (R227). -/
def State.sweepLists (s : State) (x : BitVec 16) (cids : List W32) (c : CoreName) : State :=
  let k := s.getCore c
  let gone := k.sched.resume.filter fun r => r.saved.task.among x cids
  let recs := k.sched.deque.filter fun d => d.among x cids
  let s := s.modCore c fun k => k.modSched fun h => { h with deque := h.deque.filter fun d => !d.among x cids }
  let s := gone.foldl (fun (s : State) r =>
    (s.modCore c fun k => (k.freeTiles r.saved.tiles).modSched fun h => { h with
      resume := h.resume.filter fun e => e.saved.task.id != r.saved.task.id }).discardSaved r.saved) s
  recs.foldl (fun s d => s.discardRecord x d.record) s

/-- Sweep the power heads (R227). -/
def State.sweepHeads (s : State) (x : BitVec 16) (cids : List W32) : State :=
  let heads := s.govs.toList.filterMap fun g => g.head.filter fun h => h.1.among x cids
  let s := s.modGovs fun g => { g with head := g.head.filter fun h => !h.1.among x cids }
  heads.foldl (fun s h => s.discardRecord x h.1.record) s

/-- Release the cores that a gang has reserved. -/
def State.unreserveGang (s : State) (g : Gang) : State :=
  g.cores.foldl (fun s c => s.modCore c fun k => k.modSched fun h =>
    { h with reserved := if h.reserved = some (.gang g.id) then none else h.reserved }) s

/-- Sweep gang reservations, which are released, and pushes and restarts that wait (R227); the members of a team that was to resume
are in resume lists. -/
def State.sweepWaiting (s : State) (x : BitVec 16) (cids : List W32) : State :=
  let gone := s.work.gangs.filter fun g => g.slot.among x cids
  let back := s.work.pushes.filter fun p => p.counted && p.slot.among x cids
  let s := s.modWork fun w => { w with
    gangs := w.gangs.filter fun g => !g.slot.among x cids
    pushes := w.pushes.filter fun p => !p.slot.among x cids
    heads := w.heads.filter fun h => !(h.1 == x && cids.contains h.2.1) }
  let s := (s.work.restarts.filter fun r => r.slot.among x cids).foldl (fun s r => s.discardRecord x r.slot.record) s
  let s := s.modWork fun w => { w with restarts := w.restarts.filter fun r => !r.slot.among x cids }
  let s := back.foldl (fun s p => s.discardRecord x p.slot.record) s
  gone.foldl (fun s g =>
    let s := s.unreserveGang g
    if g.resume.isEmpty then s.discardRecord x g.slot.record else s) s

/-- The record that a steal has taken and whose reply is on its way (R227). -/
def State.stolenOf (s : State) (o : Outst) : Option Slot :=
  match o.purpose with
  | .steal _ =>
    let of (b : Body) : Option Slot := match b with
      | .stolen d _ => some d
      | _ => Option.none
    match o.answer with
    | some a => of a.2
    | none => s.fab.dstCh.findSome? fun c =>
      if c.src = o.src ∧ c.dst = o.dst ∧ c.epoch = o.epoch then c.cache.findSome? fun e => if e.seq = o.seq then of e.body else none
      else none
  | _ => none

/-- Sweep park slots, steal replies and ships in flight (R227, R407). -/
def State.sweepMoving (s : State) (x : BitVec 16) (cids : List W32) : State :=
  let parked := s.services.flatMap fun v => v.parks.filter fun p => p.2.saved.task.among x cids
  let s := s.modServices fun v => { v with parks := v.parks.filter fun p => !p.2.saved.task.among x cids }
  let s := parked.foldl (fun s p => s.discardSaved p.2.saved) s
  let flying := s.fab.outst.filterMap fun o =>
    match o.body with
    | .ship h => if h.saved.task.among x cids && !s.performed o then some h else none
    | _ => none
  let s := flying.foldl (fun s h => s.discardSaved h.saved) s
  let drop (b : Body) : Body := match b with
    | .ship h => if h.saved.task.among x cids then .none else b
    | b => b
  let s := s.modFab fun f => { f with
    outst := f.outst.map fun o => { o with body := drop o.body }
    rxq := f.rxq.map fun r => { r with body := drop r.body }
    flits := f.flits.map fun y => y.rebody (drop y.body) }
  let taken := (s.fab.outst.filterMap s.stolenOf).filter (·.among x cids)
  taken.foldl (fun s d => s.discardRecord x d.record) s

/-- The retirement sweep of the chambers `cids` of context `x` (R227). -/
def State.sweep (s : State) (x : BitVec 16) (cids : List W32) : State :=
  let s := s.knownCores.foldl (fun s c => if (s.getCore c).ctl.task.any (·.among x cids) then s.endRunning c else s) s
  let s := s.knownCores.foldl (fun s c => s.sweepLists x cids c) s
  ((s.sweepHeads x cids).sweepWaiting x cids).sweepMoving x cids

/-- Destroy the basin partitions and remove the bindings of a chamber (R287, R331). -/
def State.releaseChamber (s : State) (x : BitVec 16) (cid : W32) : State :=
  let ps := (s.basins.filter fun b => b.ctx == x && b.cid == cid).map (·.part)
  let s := ps.foldl State.destroyBasin s
  s.dropBinds fun b => b.ctx == x && b.cid == cid && !b.polled

/-- Close a chamber (R234, R438): its extents end, its OWN returns unless it is the root, CST = 0. -/
def State.closeChamber (s : State) (x : BitVec 16) (cid : W32) : State :=
  let s := s.releaseChamber x cid
  let own := (s.chamber x cid).elim 0 (·.own)
  let part := (s.findCtx x).elim 0 (·.part)
  let s := s.endExtents fun e => decide (e.ctx = x ∧ e.cid = cid)
  let s := if cid = 1 then s
    else (s.modLine x cid fun h => { h with muse := h.muse - 4096 * own }).modPart part fun p => { p with charged := p.charged - own }
  s.modChamber x cid fun h => { h with cst := 0, own := if cid = 1 then h.own else 0, decl := 0 }

/-- Insert by falling key. -/
def insertDown {α : Type} (f : α → Nat) (a : α) : List α → List α
  | [] => [a]
  | b :: l => if f b < f a then a :: b :: l else b :: insertDown f a l

/-- The list in falling order of the key, equal keys in their order. -/
def sortDown {α : Type} (f : α → Nat) (l : List α) : List α := l.foldl (fun acc a => insertDown f a acc) []

/-- Close the descendants of a chamber, deepest first. -/
def State.closeBelow (s : State) (x : BitVec 16) (cid : W32) : State :=
  let below := (s.family x cid).filter fun i => i != cid && ((s.chamber x i).elim 0 (·.cst)) != 0
  let deep (i : W32) : Nat := (s.lineOf x i).length
  let order := sortDown deep below
  let s := order.foldl (fun s i => s.closeChamber x i) s
  s.modCtx x fun c => { c with chambers := c.chambers.filter fun h => !below.contains h.cid }

/-- What a report says of the core that raised the cause. -/
structure Who where
  core : CoreName
  kepc : Word
  kaddr : Word
  kcnt : Word

/-- What a report says of an error that waits (R73). -/
def Waiting.who (e : Waiting) : Who := ⟨e.core, e.kepc, e.kaddr, e.kcnt⟩

/-- The registers a report takes from core `c`, under sequencer `q`. -/
def State.who (s : State) (c : CoreName) (q : Seq) : Who :=
  let k := s.getCore c
  ⟨c, (k.thread q).kepc, (k.thread q).kaddr, k.ctl.k.kcnt⟩

/-- Fail a chamber (R68, R72): its tasks are discarded, its descendants closed, CST = 4, a report written with `rung`, 0 where a
program fault failed it (R74). -/
def State.failAt (s : State) (x : BitVec 16) (cid : W32) (code : Byte) (rung : Nat) (w : Who) : State :=
  let s := s.sweep x (s.family x cid)
  let s := s.closeBelow x cid
  let s := s.releaseChamber x cid
  let s := s.modChamber x cid fun h => { h with cst := 4, waiting := [] }
  s.report x cid code rung 3 w.core w.kepc w.kaddr w.kcnt

/-- Fail a chamber by a program fault (R68). -/
def State.failChamber (s : State) (x : BitVec 16) (cid : W32) (code : Byte) (w : Who) : State := s.failAt x cid code 0 w

/-- Doublewords as bytes. -/
def wordsBytes (ws : List Word) : List Byte := ws.flatMap fun w => toBytes 8 w.toNat

/-- The counters, one byte each. -/
def Counters.bytes (o : Counters) : List Byte := [BitVec.ofNat 8 o.ocl, BitVec.ofNat 8 o.ocs, BitVec.ofNat 8 o.occ, BitVec.ofNat 8 o.ocx]

/-! ## Mailbox events (R402, R464) -/

/-- Base of the mailbox of service processor `n` (R35). -/
def State.mailbox (s : State) (n : Nat) : Nat := globalAddr s.mgmt.domain.pkg.toNat (20 + n) 1 0

/-- Append a 64-byte entry to a ring in the form of R402, and raise TAIL. -/
def State.ringPush (s : State) (base slots : Nat) (entry : List Byte) : State :=
  let tail := readNat s.mem (base + 8) 8
  (s.write (base + 64 * (1 + tail % slots)) entry).write (base + 8) (toBytes 8 (tail + 1))

/-- Write a 64-byte entry to both event rings (R464). -/
def State.mailEvent (s : State) (entry : List Byte) : State :=
  (s.ringPush (s.mailbox 0 + 0x3000) 63 entry).ringPush (s.mailbox 1 + 0x3000) 63 entry

/-- The 32 bytes of a black-box event (R463); `n` names its cycle count (log 2). -/
def Event.bytes (n : Nat) (e : Event) : List Byte :=
  withCrc (toBytes 6 (Config.cycles n).toNat ++ [BitVec.ofNat 8 e.type, e.cause] ++ toBytes 2 e.core.toNat ++
    toBytes 2 e.ctx.toNat ++ toBytes 4 e.cid.toNat ++ toBytes 8 e.addr.toNat ++ toBytes 4 e.extra.toNat)

/-- Write an event to a die's black box and, padded to 64 bytes with the service processors' nanosecond count at byte 48
(R464, R494; log 2), to the event rings. -/
def State.announce (s : State) (die : Nat) (e : Event) : State :=
  let bs := e.bytes s.fresh
  let (t, s) := (s.event die e).free
  s.mailEvent (bs ++ List.replicate 16 0 ++ toBytes 8 t.toNat ++ List.replicate 8 0)

/-- Forget what a class routine of core `c` holds and waits for, and the routine (R290): answers that come later serve nothing. -/
def Core.dropRoutine (k : Core) : Core :=
  { k with
    ctl := { k.ctl with
      stalls := k.ctl.stalls.filter (·.1 != .routine), holds := k.ctl.holds.filter (·.q != .routine)
      awaits := k.ctl.awaits.filter (·.q != .routine), misses := k.ctl.misses.filter (·.q != .routine) }
    mem := { k.mem with loads := k.mem.loads.filter (·.q != .routine), stores := k.mem.stores.filter (·.q != .routine) }
    msg := k.msg.setBank none }

/-- The class routine on core `c` ends, with its tokens freed (R290, R298, R404). -/
def State.dropRoutine (s : State) (c : CoreName) : State :=
  let s := (s.modServices fun v => { v with tokens := v.tokens.filter fun t => !decide (t.core = c ∧ t.q = .routine) }).abandon c true
  s.modCore c Core.dropRoutine

/-! ## Taking a cause: `kcause` and the double trap (R152, R185 to R187) -/

/-- `kcause` as R152 lays it out. -/
def causeWord (code imm : Byte) (seq : BitVec 2) (pfx l32 : Bool) : Word :=
  code.setWidth 64 ||| (imm.setWidth 64 <<< 32) ||| (seq.setWidth 64 <<< 22) |||
    (if pfx then 1#64 <<< 21 else 0) ||| (if l32 then 1#64 <<< 20 else 0)

/-- The thread at entry into the resident handler for a detected error (R151, R178): PM firmware, and `kepc` the access that a precise
ECCU names (R200), else the oldest control instruction that has not retired (R177). -/
def Thread.resident (t : Thread) (cause addr : Word) (epc : Option Word) : Thread :=
  { t with kcause := cause, kaddr := addr, kepc := epc.getD t.pc, kstatus := setBits t.kstatus 4 2#2 }

/-- DT of `kstatus`: the thread is in the double-trap sequence (R151, R187). -/
def Thread.inDoubleTrap (t : Thread) : Bool := bit t.kstatus 15

/-- The DTRAP record (R186). -/
def dtrapRecord (sh : Shadow) (cid : W32) (core : CoreName) (halt : Bool) : List Byte :=
  let second := sh.second.getD (0, 0)
  withCrc (toBytes 8 sh.kcause.toNat ++ toBytes 8 sh.kaddr.toNat ++ toBytes 8 sh.kepc.toNat ++ toBytes 8 sh.kstatus.toNat ++
    toBytes 8 second.1.toNat ++ toBytes 8 second.2.toNat ++ toBytes 4 cid.toNat ++ toBytes 2 core.toNat ++
    [if halt then 1 else 0] ++ List.replicate 5 0)

/-- The DTRAP record of core `c` goes to the die's black box and to the mailboxes (R185 step 3, R187). -/
def State.recordTrap (s : State) (c : CoreName) (x : BitVec 16) (cid : W32) (halt : Bool) : State :=
  match (s.getCore c).ctl.shadow with
  | none => s
  | some sh => (s.event (dieOf c) ⟨7, 0x0D, c, x, cid, (sh.second.getD (0, 0)).2, 0⟩).mailEvent (dtrapRecord sh cid c halt)

/-- A cause raised on core `c` while DT = 1 halts the core, after a record with byte 54 = 1 (R167, R187): it runs the sequence no more. -/
def State.haltDouble (s : State) (c : CoreName) (q : Seq) : State :=
  let b := (s.getCore c).msg.bank
  let k := (s.getCore c).ctl.k
  let x := if q = .routine then b.elim 0 (·.bind.ctx) else bits k.kctx 16 16
  let cid : W32 := if q = .routine then b.elim 0 (·.bind.cid) else bits k.kctx 32 32
  let s := s.recordTrap c x cid true
  (s.announce (dieOf c) ⟨8, 0x0D, c, x, cid, 0, 0⟩).modCore c fun k =>
    (k.modThread q fun t => { t with kstatus := setBit t.kstatus 15 false }).modCtl fun x => { x with run := .halted }

/-- The ROM routine of the double-trap sequence on core `c` (R185 steps 3 to 5), in one step: the record, DT cleared, the task or
routine ended as a program fault of its chamber with DTRAP, the core back at its scheduler. -/
def State.trapRoutine (s : State) (c : CoreName) (q : Seq) : State :=
  let k := s.getCore c
  let x := if q = .routine then k.msg.bank.elim 0 (·.bind.ctx) else bits k.ctl.k.kctx 16 16
  let cid : W32 := if q = .routine then k.msg.bank.elim 0 (·.bind.cid) else bits k.ctl.k.kctx 32 32
  let w := s.who c q
  let s := (s.recordTrap c x cid false).modCore c fun k =>
    (k.modThread q fun t => { t with kstatus := setBit t.kstatus 15 false }).modCtl fun x => { x with shadow := none }
  let s := if q = .routine then s.dropRoutine c else s
  s.failChamber x cid 0x0D w

/-! ## Gang stop (R191, R192) -/

/-- The counters of core `c` for its task; a read that an instruction waits for may hold a unit of `ocl` (R257). -/
def Core.counters (k : Core) : Counters :=
  { k.ctl.oc with ocl := k.ctl.oc.ocl + (k.ctl.awaits.filter fun a => a.unit && a.q != .routine).length }

/-- State byte of a gang-stop record (R192); a hinge pair's checker counts as running a task (log 132). -/
def Core.stopState (k : Core) : Byte :=
  if k.ctl.run = .halted then 5
  else if k.thr.inDoubleTrap || k.msg.bank.any (·.thr.inDoubleTrap) then 4
  else
    match k.ctl.run with
    | .idle => 0
    | .off => 0
    | .halted => 5
    | .broken => 3
    | .resident => 3
    | .checker => 1
    | .leaving => if bit k.thr.kstatus 6 then 2 else 1
    | .task => if bit k.thr.kstatus 6 then 2 else 1

/-- `kcnt` of core `c`; its leader holds that of a checker (R156). -/
def State.kcntOf (s : State) (c : CoreName) : Word :=
  let k := s.getCore c
  if k.ctl.run = .checker then ((s.getCore (c ^^^ 1)).pair).elim k.ctl.k.kcnt (·.kcnt) else k.ctl.k.kcnt

/-- The 64-byte gang-stop record (R192); of a core that the debugger has stopped already (R479), with what its shadow set holds. -/
def State.stopRecord (s : State) (c : CoreName) : List Byte :=
  let k := s.getCore c
  let held := k.ctl.shadow.filter fun _ => k.ctl.stopped
  let cid : W32 := if k.ctl.task.isSome then bits k.ctl.k.kctx 32 32 else 0
  let gen := (s.dies.toList[(bits (s.mapEntry (dieOf c)) 0 5).toNat]?).elim 0 (·.gen)
  withCrc (wordsBytes [s.kcntOf c, k.ctl.k.ksent, k.ctl.k.krecv, held.elim k.thr.pc (·.resume), held.elim (k.kstatus .control) (·.kstatus)] ++ toBytes 4 cid.toNat ++
    toBytes 2 c.toNat ++ [k.stopState, 0] ++ k.counters.bytes ++ [gen] ++ List.replicate 7 0)

/-- A core stops (R191): every sequencer halts, the shadow set takes its registers, and the resident gang routine is entered with
cause GANG, at firmware privilege (R66, R151). -/
def Core.stop (k : Core) : Core :=
  let t := k.thr
  let k := k.modCtl fun c => { c with
    misses := c.misses.filter (·.q == .routine)
    stopped := true, shadow := some ⟨k.kstatus .control, t.kcause, t.kaddr, t.kepc, t.kpfx, t.pc, none⟩ }
  { k with thr := { t with kcause := causeWord 0x0E 0 0 false false, kaddr := 0, kstatus := setBits t.kstatus 4 2#2 } }

/-- Core `c` stops; a double-trap sequence that the stop finds runs to its end first (R187, R191). -/
def State.stopHere (s : State) (c : CoreName) : State :=
  let s := if (s.getCore c).thr.inDoubleTrap then s.trapRoutine c .control else s
  let s := if (s.getCore c).msg.bank.any (·.thr.inDoubleTrap) then s.trapRoutine c .routine else s
  (s.dropTokens c).modCore c Core.stop

/-- Core `c` writes its record into the table at `table` and stops (R191, R192); one that the debugger has stopped keeps its shadow set
(R479). -/
def State.stopCore (s : State) (table : Nat) (c : CoreName) : State :=
  let t := s.deviceWrite (table + 64 * (256 * dieOf c + coreNum c)) (s.stopRecord c)
  if (s.getCore c).ctl.stopped then t else t.stopHere c

/-- Stop every core of partition `p` (R66, R191), with the records in the partition's gang-stop table. -/
def State.gangStop (s : State) (p : Nat) : State :=
  match s.part p with
  | none => s
  | some q => if q.stopped then s else ((s.partCores p).foldl (fun s c => s.stopCore q.table c) s).modPart p fun q => { q with stopped := true }

/-! ## Pushes -/

/-- Core `c` may be pre-empted to place work of priority `p` (R63, R221): its task has a lower one, its resume list has room,
it is in no hinge pair. -/
def State.yields (s : State) (c : CoreName) (p : Nat) : Bool :=
  let k := s.getCore c
  decide (k.ctl.run = .task) && k.pair.isNone && decide (k.sched.resume.length < 32) &&
    k.ctl.task.any fun t => decide (s.prio t.ctx t.cid < p)

/-- Of two cores that may be pre-empted, the one that is (R221): lower priority, then later start, then lower number. -/
def State.prefer (s : State) (a b : CoreName) : CoreName :=
  let key (c : CoreName) : Nat × Nat := (s.getCore c).ctl.task.elim (0, 0) fun t => (s.prio t.ctx t.cid, t.started)
  let x := key a
  let y := key b
  if y.1 < x.1 then b else if x.1 < y.1 then a else if x.2 < y.2 then b else if y.2 < x.2 then a
  else if b.toNat < a.toNat then b else a

/-- A PREEMPT becomes due; one that is due already goes on waiting (R184). -/
def Due.askPreempt (d : Due) : Due := if d.preempt then d else { d with preempt := true, preemptForced := false, brkFirst := d.brk }
/-- A break request becomes due. -/
def Due.askBreak (d : Due) : Due := if d.brk then d else { d with brk := true, brkForced := false, brkFirst := !d.preempt }

/-- Ask for the pre-emption of core `c`'s task. -/
def State.askPreempt (s : State) (c : CoreName) : State :=
  s.modCore c fun k => k.modCtl fun x => { x with due := x.due.askPreempt }

/-- A record that was taken from core `c`'s deque returns to its bottom (R218, R220, R222), or waits for a slot while it is full
(log 133). -/
def State.giveBack (s : State) (c : CoreName) (d : Slot) : State :=
  let d := { d with passes := 0 }
  if (s.getCore c).sched.deque.length < 256 then s.modCore c fun k => k.modSched fun h => { h with deque := d :: h.deque }
  else s.modWork fun w => { w with pushes := w.pushes ++ [⟨c, d, recCid d.record, false, false, true⟩] }

/-- Mark the members of a team in their resume lists as being placed, or not. -/
def State.markPlacing (s : State) (ms : List (CoreName × Nat)) (on : Bool) : State :=
  ms.foldl (fun s m => s.modCore m.1 fun k => k.modSched fun h => { h with
    resume := h.resume.map fun r => if r.saved.task.id = m.2 then { r with placing := on } else r }) s

/-- Release a gang's reservations: its record returns to its deque; a team that was to resume waits in its lists (R222). -/
def State.releaseGang (s : State) (g : Gang) : State :=
  let s := (s.unreserveGang g).modWork fun w => { w with gangs := w.gangs.filter (·.id != g.id) }
  if g.resume.isEmpty then s.giveBack g.home g.slot else s.markPlacing g.resume false

/-- Every core of the gang's rectangle is free and reserved (R222). -/
def State.gangReady (s : State) (g : Gang) : Bool :=
  g.cores.all fun c =>
    decide ((s.getCore c).sched.reserved = some (.gang g.id)) && decide ((s.getCore c).ctl.run = .idle) && !(s.getCore c).ctl.stopped

/-- A gang that is being placed and gives way to work of priority `p`: not every core of it is reserved and free, and its PRIO is
lower (R238). -/
def State.gangYields (s : State) (p : Nat) (g : Gang) : Bool :=
  !s.gangReady g && decide (s.prio g.slot.ctx (recCid g.slot.record) < p)

/-- The task of core `c` is pre-empted for work of priority `p`; a gang that has reserved the core and gives way releases it
(R221, R238). -/
def State.preemptFor (s : State) (p : Nat) (c : CoreName) : State :=
  let holds (g : Gang) : Bool := decide ((s.getCore c).sched.reserved = some (.gang g.id)) && s.gangYields p g
  ((s.work.gangs.find? holds).elim s s.releaseGang).askPreempt c

/-- Work of priority `p` waits on a die. With no idle worker there, a gang that holds an idle core and gives way releases it
(R238), or one task of lower priority is pre-empted (R221). -/
def State.pushPreempts (s : State) (die p : Nat) : State :=
  let ws := (coresOf die).filter isWorker
  let idle (c : CoreName) : Bool := (s.getCore c).ctl.run == .idle
  if ws.any fun c => idle c && (s.getCore c).sched.reserved.isNone then s
  else
    match s.work.gangs.find? fun g => g.cores.any (fun c => dieOf c == die && idle c) && s.gangYields p g with
    | some g => s.releaseGang g
    | none =>
    match ws.filter fun c => s.yields c p with
    | [] => s
    | c :: l => s.preemptFor p (l.foldl s.prefer c)

/-- Push a record at the bottom of core `c`'s deque, which has room (R215, R221). -/
def State.pushBottom (s : State) (c : CoreName) (d : Slot) : State :=
  let s := s.modCore c fun k => { k with sched := { k.sched with deque := d :: k.sched.deque } }
  s.pushPreempts (dieOf c) (s.prio d.ctx (recCid d.record))

/-- Put a record at the top of core `c`'s deque, which has room (R61). -/
def State.pushTop (s : State) (c : CoreName) (d : Slot) : State :=
  let s := s.modCore c fun k => { k with sched := { k.sched with deque := k.sched.deque ++ [d] } }
  s.pushPreempts (dieOf c) (s.prio d.ctx (recCid d.record))

/-- Push a record that counts in LIVE, or let it wait for a slot (R62, R71, R215); `last`: it runs after those already
there (R61). -/
def State.pushAt (s : State) (c : CoreName) (d : Slot) (reexec last : Bool) : State :=
  if (s.getCore c).sched.deque.length < 256 then
    let s := s.modChamber d.ctx (recCid d.record) fun h => { h with live := h.live + 1 }
    if last then s.pushTop c d else s.pushBottom c d
  else s.modWork fun w => { w with pushes := w.pushes ++ [⟨c, d, recCid d.record, reexec, last, false⟩] }

/-- Push a record at the bottom of core `c`'s deque (R215), or let it wait. -/
def State.pushSlot (s : State) (c : CoreName) (d : Slot) (reexec : Bool) : State := s.pushAt c d reexec false

/-- The workers of partition `n` that list every group of `feat`, in ascending order (R60, R61). -/
def State.workersFor (s : State) (n : Nat) (feat : BitVec 128) : List CoreName :=
  (s.partCores n).filter fun c => isWorker c && (feat &&& ~~~((coreGroups c).setWidth 128)) == 0

/-- The core that initial record `n` of a context goes to (R61). -/
def State.placeOf (s : State) (c : Context) (n : Nat) : CoreName :=
  if c.lmode = 1 then BitVec.ofNat 16 (ofBytes (s.currents (c.ldpl + 2 * n) 2))
  else
    let ws := s.workersFor c.part c.feat
    (ws[n % ws.length]?).getD 0

/-- Push the initial records of a context in list order (R62); records placed on one core run in that order (R61). -/
def State.pushInitial (s : State) (c : Context) (reexec : Bool) : State :=
  (List.range c.lcnt).foldl (fun s n =>
    let r := recOf (s.currents (c.recs + 64 * n) 64)
    let r := if c.lmode = 1 then recFix (setBit r (448 + 13) true) else r
    s.pushAt (s.placeOf c n) ⟨r, 1, false, false, 0, c.ctx⟩ reexec (c.lmode == 1)) s

/-- A re-execution of a chamber waits: for a slot, or for a translation of HEAD (R71). -/
def State.pushing (s : State) (x : BitVec 16) (cid : W32) : Bool :=
  (s.work.pushes.any fun p => p.reexec && p.slot.ctx == x && p.cid == cid) ||
    s.work.heads.any fun h => h.1 == x && h.2.1 == cid

/-- Step 6 of R71: CST returns to 1 once every record has been pushed. -/
def State.finishReexecution (s : State) (x : BitVec 16) (cid : W32) : State :=
  if s.pushing x cid then s else s.modChamber x cid fun h => { h with cst := 1 }

/-- Step 5 of R71 for a chamber that is not the root: HEAD is read again from memory and pushed to core `c`, with the chamber's own
CID as its pusher's (log 129); while no entry translates HEAD, the push waits (log 130). -/
def State.pushHead (s : State) (x : BitVec 16) (cid : W32) (c : CoreName) : State :=
  match (s.chamber x cid).bind fun h => s.deviceTranslate x h.head .load with
  | some a => s.pushSlot c ⟨recFix (setBits (recOf (s.currents a 64)) 160 cid), cid, true, false, 0, x⟩ true
  | none => s.modWork fun w => { w with heads := w.heads ++ [(x, cid, c)] }

/-- Re-execute a chamber (R71): steps 1 to 6, with the head pushed to core `w.core`. CST stays 3 while a push waits. -/
def State.reexecute (s : State) (x : BitVec 16) (cid : W32) (code : Byte) (rung : Nat) (w : Who) : State :=
  let s := s.modChamber x cid fun h => { h with cst := 3 }
  let s := s.sweep x (s.family x cid)
  let s := s.closeBelow x cid
  let s := s.releaseChamber x cid
  let s := s.modChamber x cid fun h => { h with reex := h.reex + 1, nest := ⟨0, false, 0, 0, 0⟩ }
  let s := s.report x cid code rung 1 w.core w.kepc w.kaddr w.kcnt
  let s := if cid = 1 then (s.findCtx x).elim s fun c => s.pushInitial c true else s.pushHead x cid w.core
  s.finishReexecution x cid

/-- A boundary of partition `n` has completed (R470). -/
def State.hasBoundary (s : State) (n : Nat) : Bool := s.mgmt.bounds.any (·.part == n)

/-- The diagnosis record of a class and rung for a core's partition (R460). -/
def diagRecord (cls rung : Nat) (pkg : BitVec 10) (core : CoreName) : Rec :=
  recOf (withCrc ([BitVec.ofNat 8 cls, BitVec.ofNat 8 rung] ++ toBytes 2 pkg.toNat ++
    [BitVec.ofNat 8 (dieOf core), 0] ++ toBytes 2 core.toNat ++ List.replicate 52 0))

/-- A context's error that no chamber can take (R72): its partition is stopped and goes to rollback, or its root fails where
rollback is refused (log 14). -/
def State.rungFourOf (s : State) (x : BitVec 16) (cid : W32) (code : Byte) (w : Who) : State :=
  match s.findCtx x with
  | none => s
  | some c =>
    if (c.chamber 1).any fun h => h.cst == 4 then s
    else if c.ckpt ≠ 0 ∧ s.hasBoundary c.part then
      let s := s.report x cid code 4 2 w.core w.kepc w.kaddr w.kcnt
      (s.gangStop c.part).modMgmt fun m => { m with passed := m.passed ++ [diagRecord 9 4 m.domain.pkg w.core] }
    else s.failAt x 1 code 4 w

/-- Re-execution for chamber `cid` at a rung from 3 up, and rung 4 (R69, R72): the nearest BOUND chamber of the line whose REEX is
below RETRY re-executes. A chamber that no longer stands has no line, and its error goes to rung 4 (log 131). -/
def State.climb (s : State) (x : BitVec 16) (cid : W32) (code : Byte) (rung : Nat) (w : Who) : State :=
  match (tailsOf (s.lineOf x cid)).find? fun l => l.head?.any fun h => h.bound && decide (h.reex < effRetry l) with
  | some (h :: _) => s.reexecute x h.cid code rung w
  | _ => s.rungFourOf x cid code w

/-- An error charged to chamber `cid` (R73): a failed chamber ignores it; with an ancestor re-executing it is dropped; during steps 1
to 5 of the chamber's own re-execution it waits; else the ladder goes on. -/
def State.ascend (s : State) (x : BitVec 16) (cid : W32) (code : Byte) (rung : Nat) (w : Who) : State :=
  match s.lineOf x cid with
  | h :: above =>
    if h.cst = 4 ∨ above.any (·.cst == 3) then s
    else if h.cst = 3 then s.modChamber x cid fun h => { h with waiting := h.waiting ++ [⟨code, rung, w.core, w.kepc, w.kaddr, w.kcnt⟩] }
    else s.climb x cid code rung w
  | [] => s.climb x cid code rung w

/-- Errors that waited for a chamber's re-execution are taken after step 6 as new ones (R73). -/
def State.takeWaiting (s : State) (x : BitVec 16) (cid : W32) : Nat → State
  | 0 => s
  | n + 1 =>
    match s.chamber x cid with
    | some h =>
      match h.waiting with
      | e :: rest =>
        if h.cst = 3 then s
        else (((s.modChamber x cid fun h => { h with waiting := rest }).ascend x cid e.code e.rung e.who).takeWaiting x cid n)
      | [] => s
    | none => s

/-- Rungs 3 and 4 (R69). -/
def State.rung3 (s : State) (x : BitVec 16) (cid : W32) (code : Byte) (w : Who) : State := s.ascend x cid code 3 w

/-- One step of the steal generator (R219). -/
def xorshift (x : W32) : W32 :=
  let x := x ^^^ (x <<< 13)
  let x := x ^^^ (x >>> 17)
  x ^^^ (x <<< 5)

/-- A restart's copy of the record waits for the first worker with room, in the order of two draws (R225). -/
def State.restartFrom (s : State) (c : CoreName) (d : Slot) : State :=
  let x1 := xorshift (s.getCore c).sched.gen
  let x2 := xorshift x1
  let s := s.modCore c fun k => k.modSched fun h => { h with gen := x2 }
  s.modWork fun w => { w with restarts := w.restarts ++ [⟨c, d, (s.findCtx d.ctx).elim 0 (·.feat), x1, x2⟩] }

/-- Rungs 2 to 4 of the ladder for the task running on core `c` (R69, R70, R225). -/
def State.ladder (s : State) (c : CoreName) (code : Byte) (w : Who) : State :=
  match (s.getCore c).ctl.task with
  | none => s
  | some t =>
    if recRst t.record ∧ recOwed t.record = 0 ∧ recIsTeam t.record = false ∧ t.rstd = false then
      let s := s.report t.ctx t.cid code 2 0 w.core w.kepc w.kaddr w.kcnt
      let s := (s.endRunning c).modChamber t.ctx t.cid fun h => { h with live := h.live + 1 }
      s.restartFrom c ⟨recFix (setBit t.record (448 + 13) false), t.cid, false, true, 0, t.ctx⟩
    else
      (s.rung3 t.ctx t.cid code w).modCore c fun k =>
        if k.ctl.run = .task ∧ k.ctl.task.any (·.id == t.id) then k.modCtl fun x => { x with run := .resident } else k

/-! ## Hinge pairs: agreement and disagreement (R425 to R427) -/

/-- The core back at the agreed point: the registers of R422, no access of the discarded interval. What an instruction that performed after
the agreement still waits for stays: the load `late`, and requests that the instruction there has sent. -/
def Core.rollBack (k : Core) (a : PairRegs) (late : Option Nat) : Core :=
  let kept := k.mem.loads.filter fun l => l.q == .routine || late == some l.id
  let mine := kept.filter fun l => l.q != .routine
  { (k.setPair a).modCtl fun x => { x with
      oc := { x.oc with ocl := mine.length }
      holds := x.holds.filter fun h => h.q == .routine || mine.any fun l => h.q == l.q && h.reg == l.reg
      stalls := x.stalls.filter (·.1 == .routine)
      awaits := x.awaits.filter fun w => w.q == .routine || (w.lasting && w.pc == a.thr.pc) } with
    mem := { k.mem with loads := kept } }

/-- A disagreement (R426): discard the gate, return to the agreed point; a second one in a row raises HINGE and goes to
rung 2 (R427). Entries that an agreement is releasing stay. -/
def State.disagree (s : State) (c : CoreName) : State :=
  match (s.getCore c).pair with
  | none => s
  | some p =>
    let s := s.modCore c fun k => k.rollBack p.agreedAt p.late
    if p.retry then
      let s := s.event (dieOf c) ⟨4, 0x0B, c, 0, 0, 0, 0⟩
      let s := s.releaseChecker c
      let s := s.modCore c fun k => k.modThread .control fun t => t.resident (causeWord 0x0B 0 3 false false) 0 none
      s.ladder c 0x0B (s.who c .control)
    else
      let s := s.event (dieOf c) ⟨3, 0, c, 0, 0, 0, 0⟩
      s.modCore c fun k => { k with pair := some { p with
        gate := if p.draining then p.gate else [], fp := 0, fpPartner := 0, count := 0, rolled := p.rolled + 1, retry := true
        own := p.agreedAt, passed := none, force := none } }

/-- A detected error taken by the task on core `c`, with `kcause` = `cause` (R67, R69, R178): it halts a core in the double-trap
sequence (R187); rung 1 in a hinge pair, else the resident handler applies rungs 2 to 4. -/
def State.detected (s : State) (c : CoreName) (cause addr : Word) (epc : Option Word) : State :=
  let k := s.getCore c
  if k.thr.inDoubleTrap then s.haltDouble c .control
  else if k.pair.isSome then s.disagree c
  else if k.ctl.run = .checker then s.disagree (c ^^^ 1)
  else
    let s := s.modCore c fun k => k.modThread .control fun t => t.resident cause addr epc
    s.ladder c (bits cause 0 8) (s.who c .control)

end Sys2Proof.Machine
end

