-- ==== Sys2Proof/Machine/Ops.lean ====
section
/-! DEFINITION. The shared operations of every meaning: the ways an instruction leaves its normal course, taking an
exception (R177, R180, R181, R290) and returning from one (R168), retiring (R156), translation and access checks (R197,
R199, R400), and the checks made before any instruction executes (R99, R110, R111, R114, R115, R289). -/

namespace Sys2Proof.Machine

/-- A cause that an instruction raises (R179): CODE, kaddr, IMM, whether kepc names the next instruction (R165), and
whether a pending prefix is consumed by it (R115). -/
structure Cause where
  code : Byte
  addr : Word
  imm : Byte
  after : Bool
  consumed : Bool
  deriving DecidableEq, Repr

/-- How an instruction leaves its normal course. -/
inductive Exit
  | trap (c : Cause)
  | error (code : Byte) (addr : Word)
  | stall (r : Stall)
  | miss (va : Word) (n : Need)
  | refill (va : Word)
  deriving DecidableEq, Repr

/-- A value, or the way out. -/
abbrev Try (α : Type) := Except Exit α

/-- Trap with cause `code` and `kaddr` = `addr`. -/
def raise {α : Type} (code : Byte) (addr : Word) : Try α := .error (.trap ⟨code, addr, 0, false, false⟩)
/-- Trap ILL, `kaddr` the address of the instruction (R179). -/
def illegal {α : Type} (s : State) : Try α := raise 0x01 s.pc
/-- Trap PRIV, `kaddr` the address of the instruction (R179). -/
def denied {α : Type} (s : State) : Try α := raise 0x02 s.pc
/-- Stall, interruptibly. -/
def stall {α : Type} (r : Stall) : Try α := .error (.stall r)
/-- Trap ILL unless `b`. -/
def check (s : State) (b : Bool) : Try Unit := if b then .ok () else illegal s
/-- Stall unless `b`. -/
def waitFor (b : Bool) (r : Stall) : Try Unit := if b then .ok () else stall r

/-! ## Contexts and answers of the acting sequencer -/

/-- The context of the acting sequencer: the task's, or the binding's in a routine (R288). -/
def State.ctx (s : State) : BitVec 16 :=
  match s.seq, s.core.msg.bank with
  | .routine, some b => b.bind.ctx
  | _, _ => bits s.core.ctl.k.kctx 16 16
/-- Its chamber. -/
def State.cid (s : State) : W32 :=
  match s.seq, s.core.msg.bank with
  | .routine, some b => b.bind.cid
  | _, _ => bits s.core.ctl.k.kctx 32 32
/-- Name of the running task, 0 for a routine. -/
def State.taskId (s : State) : Nat := if s.seq = .routine then 0 else s.core.ctl.task.elim 0 (·.id)
/-- Change the running task. -/
def State.modTask (s : State) (f : Task → Task) : State := s.modCtl fun c => { c with task := c.task.map f }

/-- Acquire on core `c` (R134): every V word of its stash goes to I, and fills on their way are not put into it. -/
def State.acquireOn (s : State) (c : CoreName) : State :=
  (s.spoilFills c fun _ => true).modCore c fun k => k.modMem fun m => { m with stash := m.stash.filter fun e => e.2 != .V }
/-- An acquire of the acting core. -/
def State.acquire (s : State) : State := s.acquireOn s.cur

/-- Register `r` of the acting sequencer holds a status word that nothing has read (R146). -/
def State.unread (s : State) (r : Reg) : Bool := s.core.ctl.holds.any fun h => h.q == s.seq && h.reg == r && h.ready
/-- A `bld` has made tile `t` of the running task ready, and nothing has named it since (R347). -/
def State.unseen (s : State) (t : TileNo) : Bool := s.core.ctl.task.any fun k => k.unseen.contains t
/-- Release a register of a core. -/
def Core.release (k : Core) (q : Seq) (r : Reg) : Core :=
  k.modCtl fun c => { c with holds := c.holds.filter fun h => !(h.q == q && h.reg == r) }

/-- Record why the acting sequencer stalls (R26). -/
def State.noteStall (s : State) (w : Stall) : State := s.modCtl fun c => { c with stalls := assocSet s.seq w c.stalls }

/-- The acting sequencer stalls for `w` (R26). An instruction that reads a completed status register, or names a tile that a `bld` has
made ready, observes the completion by an acquire first, and then issues (R146, R147, R347); one that only writes the register does
not wait. -/
def State.setStall (s : State) (w : Stall) : State :=
  match w with
  | .register r => if s.unread r then let t := s.acquire; { t with core := t.core.release t.seq r } else s.noteStall w
  | .target r => if s.unread r then { s with core := s.core.release s.seq r } else s.noteStall w
  | .tile t => if s.unseen t then s.acquire.modTask fun k => { k with unseen := k.unseen.filter (· != t) } else s.noteStall w
  | w => s.noteStall w
/-- The answer that the acting sequencer's instruction waits for, if it has sent its messages. -/
def State.pendingAnswer (s : State) : Option Await := s.core.ctl.awaits.find? fun a => a.q == s.seq && a.pc == s.pc
/-- It is the wait of the instruction of `q` at `pc`, or one that a trap of `q` does not leave. -/
def Await.passes (a : Await) (q : Seq) (pc : Word) : Bool := a.q == q && (a.pc == pc || !a.lasting)
/-- The acting sequencer waits by `a`. -/
def State.putAwait (s : State) (a : Await) : State :=
  s.modCtl fun c => { c with awaits := a :: c.awaits.filter fun b => !b.passes s.seq s.pc }
/-- Begin to wait for `n` answers, under the number `fresh`; `sent` says that the instruction is not to be abandoned, `carried` that the
task may leave meanwhile. -/
def State.setAwaitAs (s : State) (n : Nat) (sent carried : Bool) : State :=
  ({ s with fresh := s.fresh + 1 }.putAwait ⟨s.fresh, s.seq, s.pc, n, [], 0, sent, false, carried, false, 0, n, 0⟩).setStall .answer
/-- The same for an instruction that the task does not leave. -/
def State.setAwaits (s : State) (n : Nat) (sent : Bool) : State := s.setAwaitAs n sent false
/-- Begin to wait for `n` write-backs. -/
def State.setAwait (s : State) (n : Nat) : State :=
  ({ s with fresh := s.fresh + 1 }.putAwait ⟨s.fresh, s.seq, s.pc, n, [], 0, false, false, false, true, 0, n, 0⟩).setStall .answer
/-- Send a request of class `cls` to `u` and wait for its answer. -/
def State.ask (s : State) (u : UnitName) (cls : Nat) (ctx : BitVec 16) (body : Body) (carried : Bool) : State :=
  (s.setAwaitAs 1 true carried).post (coreUnit s s.cur) u cls ctx false false body (.await s.cur s.seq s.fresh 0)
/-- Forget stalls and misses of sequencer `q`, and the waits that `f` names. -/
def Core.forgetWaits (k : Core) (q : Seq) (f : Await → Bool) : Core :=
  k.modCtl fun c => { c with
    stalls := c.stalls.filter fun e => e.1 != q
    awaits := c.awaits.filter fun a => !f a
    misses := c.misses.filter (·.q != q) }
/-- The instruction of sequencer `q` has ended: its stall, wait and miss are forgotten. -/
def Core.settle (k : Core) (q : Seq) : Core := k.forgetWaits q fun a => a.passes q (k.pc q)
/-- A `mteam.join` that waits has not been issued, where it is a sequencer of `f` that is interrupted (R369). -/
def Core.leaveJoin (k : Core) (f : Seq → Bool) : Core :=
  { k with mat := { k.mat with join := k.mat.join.filter fun j => !f j.q } }
/-- A trap stops sequencer `q` before its instruction: what the instruction has sent stands, and the rest is done anew (R177). -/
def Core.pause (k : Core) (q : Seq) : Core := (k.leaveJoin (· == q)).forgetWaits q fun a => a.q == q && !a.lasting
/-- The same for the acting sequencer. -/
def State.settle (s : State) : State := { s with core := s.core.settle s.seq }
/-- A trap stops the acting sequencer before its instruction. -/
def State.pause (s : State) : State := { s with core := s.core.pause s.seq }

/-! ## Retiring -/

/-- The registers that an instruction may have written, its address first (R423). -/
def PairRegs.words (r : PairRegs) : List Word :=
  [r.thr.pc, r.thr.kstatus, r.thr.kcause, r.thr.kaddr, r.thr.kepc, r.thr.kpfx, r.thr.kvec, r.k.knoise, r.k.kmember, r.k.kchk] ++ r.thr.g.toList ++
    r.idx.toList.map (·.setWidth 64) ++ r.vec.v.toList.flatMap (fun x => (List.range 16).map fun i => bits x (64 * i) 64) ++ r.vec.p.toList

/-- Fold a retired instruction of the control sequencer into both fingerprints of a hinge pair and count it (R423): the checker has executed
it on its own registers (R422). One that forced an exchange is performed once: the agreed registers are then those after it, with the
result it still waits for (R426). -/
def Core.foldPair (k : Core) : Core :=
  match k.pair with
  | some p =>
    let regs := k.pairRegs
    let p : Pair := match p.force.filter (·.1 == k.thr.pc) with
      | some f => { p with
        agreedAt := { regs with thr := { regs.thr with pc := f.2 } }
        late := (k.mem.loads.filter fun (l : LoadRec) => l.q == .control).getLast?.map (·.id) }
      | none => p
    { k with pair := some { p with
        own := regs, fp := Config.fold p.fp regs.words, fpPartner := Config.fold p.fpPartner regs.words
        count := p.count + 1, kcnt := p.kcnt + 1, passed := none, force := none } }
  | none => k

/-- Fold the address, size and data of a store or an atomic of the control sequencer into both fingerprints (R423). -/
def State.foldAccess (s : State) (ws : List Word) : State :=
  match s.core.pair with
  | some p =>
    if s.seq = .control then
      { s with core := { s.core with pair := some { p with fp := Config.fold p.fp ws, fpPartner := Config.fold p.fpPartner ws } } }
    else s
  | none => s

/-- An instruction of sequencer `q` retires: the pending prefix is consumed, `kcnt` rises for the control sequencer of a task
(R115, R156). -/
def Core.retire (k : Core) (q : Seq) : Core :=
  let k := k.settle q
  let k := if k.pp q then k.setPp q false else k
  if q = .control then k.foldPair.modCtl fun c => { c with k := { c.k with kcnt := c.k.kcnt + 1 } } else k

/-- An instruction of the acting sequencer retires. -/
def State.retire (s : State) : State := { s with core := s.core.retire s.seq }

/-- The instruction of `len` bytes retires and the sequencer goes to the next one. -/
def State.next (s : State) (len : Nat) : State := s.retire.setPc (s.pc + BitVec.ofNat 64 len)

/-! ## Taking an exception -/

/-- SEQ of `kcause` (R152). -/
def seqCode : Seq → BitVec 2
  | .vector => 1
  | .matrix => 2
  | _ => 0

/-- The thread registers after entry into the handler at `kvec` (R181). -/
def Thread.enter (t : Thread) (cause addr epc : Word) (keepPp : Bool) : Thread :=
  let st := setBit t.kstatus 9 (keepPp && bit t.kstatus 1)
  let st := setBit st 10 (bit t.kstatus 3)
  { t with
    kcause := cause, kaddr := addr, kepc := epc
    kstatus := setBit (setBit (setBit st 1 false) 3 false) 6 true
    pc := t.kvec }

/-- Every sequencer of the acting core's task stops: the open streams freeze (R177). A routine's fault stops none (R290). -/
def State.freeze (s : State) : State :=
  if s.seq = .routine then s
  else { s with core := { s.core.leaveJoin (· == .matrix) with
      vs := { s.core.vs with frozen := s.core.vs.opened }
      ms := { s.core.ms with frozen := s.core.ms.opened } } }

/-- End the routine running in the bank (R290, R298). -/
def State.endRoutine (s : State) : State := s.dropRoutine s.cur

/-- A double trap of the acting thread (R185): the first cause goes to the shadow set, DT := 1, PM := firmware, IE := 0, and the
thread stops at the fixed vector of the resident ROM, whose routine is its next turn (R187). `kaddr` is the second cause's. -/
def State.doubleTrap (s : State) (cause2 kaddr2 epc2 : Word) : State :=
  let t := s.thr
  let st := if s.seq = .routine then t.kstatus else s.core.kstatus .control
  let s := (s.freeze.pause).modCtl fun c => { c with
    shadow := some ⟨st, t.kcause, t.kaddr, t.kepc, t.kpfx, t.pc, some (cause2, kaddr2)⟩ }
  s.modThr fun t => { t with
    kcause := (cause2 &&& 0xF00000#64) ||| 0x0D#64, kaddr := kaddr2, kepc := epc2
    kstatus := setBit (setBits (setBit t.kstatus 3 false) 4 2#2) 15 true }

/-- A program fault under the acting thread (R180, R181, R185, R290), with `kcause` = `cause`: into the handler at `kvec`
when TT = 0 and `kvec` ≠ 0; a double trap when TT = 1; otherwise the task, or the routine, ends and the chamber fails. -/
def State.programFault (s : State) (cause addr epc : Word) (keepPp : Bool) : State :=
  let x := s.ctx
  let cid := s.cid
  let code := bits cause 0 8
  if s.tt then s.doubleTrap cause addr epc
  else if s.thr.kvec ≠ 0 then (s.freeze.pause).modThr fun t => t.enter cause addr epc keepPp
  else
    let s := s.modThr fun t => { t with kcause := cause, kaddr := addr, kepc := epc }
    let w := s.who s.cur s.seq
    if s.seq = .routine then (s.endRoutine).failChamber x cid code w else s.failChamber x cid code w

/-- A synchronous cause of the acting sequencer's instruction (R177, R179, R181). `kepc` names the control stream's oldest
instruction that has not retired; BREAK in a held partition enters the resident handler, which holds the task stopped for the
debugger (R180). -/
def State.takeTrap (s : State) (c : Cause) (l32 : Bool) : State :=
  let pp := s.core.pp s.seq
  let epc := s.thr.pc + (if c.after then 4 else 0)
  let cause := causeWord c.code c.imm (seqCode s.seq) pp l32
  let held := ((s.partOf (dieOf s.cur)).bind s.part).any (·.held)
  let s := if c.consumed ∧ (s.seq = .vector ∨ s.seq = .matrix) then { s with core := s.core.setPp s.seq false } else s
  let s := s.settle
  if c.code = 0x12 ∧ held ∧ s.seq ≠ .routine then
    let s := s.modThr fun t => { t with kcause := cause, kaddr := c.addr, kepc := epc, kstatus := setBits t.kstatus 4 2#2 }
    (s.announce (dieOf s.cur) ⟨8, 0x12, s.cur, s.ctx, s.cid, c.addr, 0⟩).modCtl fun k => { k with run := .broken }
  else s.programFault cause c.addr epc (!(c.consumed && decide (s.seq = .control ∨ s.seq = .routine)))

/-- The waits of sequencer `q` other than the one of the instruction that it goes on with are forgotten. -/
def Core.keepWait (k : Core) (q : Seq) : Core :=
  k.modCtl fun c => { c with awaits := c.awaits.filter fun a => a.q != q || a.pc == k.pc q }

/-- Return from the task's trap handler (R168): pc, IE, PP and TT, and the frozen streams go on; so does an instruction that had sent its
request (R231, R284). -/
def State.trapReturn (s : State) : State :=
  let s := s.modThr fun t =>
    let st := setBit t.kstatus 3 (bit t.kstatus 10)
    { t with pc := t.kepc, kstatus := setBit (setBit st 1 (bit t.kstatus 9)) 6 false }
  let s := { s with core := s.core.keepWait s.seq }
  if s.seq = .routine then s
  else { s with core := { s.core with vs := { s.core.vs with frozen := false }, ms := { s.core.ms with frozen := false } } }

/-- A detected error of the acting sequencer, with `kcause` = `cause` (R67, R200, R290): the ladder, for the task or for the binding's
chamber; with DT = 1 it halts the core (R187). -/
def State.takeError (s : State) (cause addr : Word) (epc : Option Word) : State :=
  if s.seq = .routine then
    if s.thr.inDoubleTrap then s.haltDouble s.cur .routine
    else
      let x := s.ctx
      let cid := s.cid
      let s := s.modThr fun t => t.resident cause addr epc
      let w := s.who s.cur .routine
      s.endRoutine.rung3 x cid (bits cause 0 8) w
  else s.detected s.cur cause addr epc

/-- A detected error that the acting sequencer's instruction meets itself (R152, R200). -/
def State.meetError (s : State) (code : Byte) (addr : Word) (l32 : Bool) : State :=
  s.takeError (causeWord code 0 (seqCode s.seq) (s.core.pp s.seq) l32) addr none

/-! ## Translation -/

/-- Put an entry into a TLB of at most `cap` entries: it replaces one of the same CTX, VPN and SZ, else is added, else
replaces the entry the spec leaves open (R398, R415). -/
def tlbPut (tlb : List TlbEntry) (cap fresh : Nat) (e : TlbEntry) : List TlbEntry :=
  let same (d : TlbEntry) : Bool := d.ctx == e.ctx && bits d.dw0 14 49 == bits e.dw0 14 49
  if tlb.any same then tlb.map fun d => if same d then e else d
  else if tlb.length < cap then tlb ++ [e]
  else setAt (Config.tlbVictim fresh tlb.length % tlb.length) e tlb

/-- Install an entry in core `c`'s TLB. -/
def State.fillTlb (s : State) (c : CoreName) (e : TlbEntry) : State :=
  let n := s.fresh
  { s.modCore c (fun k => k.modMem fun m => { m with tlb := tlbPut m.tlb 64 n e }) with fresh := n + 1 }

/-- The translation service of core `c`, as after reset if not listed. -/
def State.service (s : State) (c : CoreName) : Service :=
  (s.services.find? (·.core == c)).getD (.reset c)
/-- Change a translation service. -/
def State.modService (s : State) (c : CoreName) (f : Service → Service) : State :=
  if s.services.any (·.core == c) then s.modServices fun v => if v.core = c then f v else v
  else { s with services := s.services ++ [f (.reset c)] }

/-- The acting sequencer's miss (R401): a TLBM message to the cluster's translation service core; at that core itself the
cluster TLB is looked up, and failing that the miss faults. -/
def State.raiseMiss (s : State) (va : Word) (n : Need) : State :=
  let waits := s.core.ctl.misses.any fun m => m.q == s.seq && m.va == va
  if waits then s.setStall .miss
  else
    let add (s : State) (faulted : Bool) : State := (s.modCtl fun c => { c with
      misses := ⟨s.seq, va, n.kind, faulted, none⟩ :: c.misses.filter (·.q != s.seq) }).setStall .miss
    if isService s.cur then
      match (winner (s.service s.cur).tlb s.ctx va).filter (·.permits n) with
      | some e => (s.fillTlb s.cur e).setStall .miss
      | none => add s true
    else
      let t := if s.seq = .routine then none else s.core.ctl.task
      let req : MissReq := ⟨va, n.kind, s.seq, t.any (·.team.isSome), t.elim 1 (·.groups), s.thr.pc⟩
      (add s false).post (coreUnit s s.cur) (coreUnit s (serviceOf s.cur)) 14 s.ctx false false (.tlbm req)
        (.miss s.cur s.seq)

/-- The scratch page of the running task that holds `va`, with its position (R126). -/
def State.scratchOf (s : State) (va : Word) : Option (Nat × ScratchPage) :=
  if s.seq = .routine then none
  else s.core.ctl.task.bind fun t =>
    (findAt (fun p => p.vpn == some (va.toNat / 4096)) t.scratch).bind fun i => t.scratch[i]?.map fun p => (i, p)

/-- The lowest free local pages (R124), as numbers. -/
def Core.freeList (k : Core) : List Nat :=
  (List.range 128).filter fun i => (k.mem.pages.toList[i]?).any (·.role == .free)

/-- Change one entry of the page-role table. -/
def Core.setPage (k : Core) (n : Nat) (p : Page) : Core :=
  if h : n < 128 then k.modMem fun m => { m with pages := m.pages.set n p h } else k

/-- Bring scratch page `i` of the task into local page `n`, from the forwarding entry that holds it or from its frame
(R126, R148, R211). -/
def State.loadScratch (s : State) (i n : Nat) : State :=
  match s.core.ctl.task.bind fun t => t.scratch[i]? with
  | none => s
  | some p =>
    let bs := match s.core.mem.spills.reverse.find? (·.frame == p.frame) with
      | some e => e.bytes
      | none => readBytes s.mem p.frame 4096
    let s := { s with mem := writeBytes s.mem (s.sramBase s.cur + 4096 * n) bs }
    let s := { s with core := s.core.setPage n ⟨.scratch, 0, true, true, BitVec.ofNat 52 (p.frame / 4096)⟩ }
    s.modTask fun t => { t with scratch := setAt i { p with page := some n } t.scratch }

/-- Refill the scratch page of an ordinary access; PGF when no local page is free (R211). -/
def State.refill (s : State) (va : Word) (l32 : Bool) : State :=
  match s.scratchOf va, s.core.freeList with
  | some (i, _), n :: _ => s.loadScratch i n
  | _, _ => s.takeTrap ⟨0x05, va, 0, false, false⟩ l32

/-- The need writes. -/
def Need.writes : Need → Bool
  | .store => true
  | .atomic => true
  | .engineWrite => true
  | _ => false

/-- The need is an engine operation's: a hole that it reaches goes into its status word, and its own checks come after every page is
translated (R36, R312). -/
def Need.isEngine (n : Need) : Bool := n == .engineRead || n == .engineWrite

/-- `va` lies in the page of the resident routine at g1, which the running task cannot write (R46). -/
def State.atRoutine (s : State) (va : Word) : Bool :=
  decide (s.seq ≠ .routine) && s.core.ctl.task.any fun t => t.home != 0 && t.home.toNat / 4096 == va.toNat / 4096

/-- Translate `va` for a need (R197, R400, R403): PGF on bits [63:57], below the task stack, on a write to the routine at g1, at a
hole, at a page of the core's own SRAM that is no tile page, or when firmware answered with a fault; a miss where no entry
serves. -/
def State.translate (s : State) (va : Word) (n : Need) : Try Nat :=
  if bits va 57 7 ≠ 0 ∨ (n.writes ∧ s.atRoutine va) then raise 0x05 va
  else match s.scratchOf va with
  | some (_, p) =>
    match p.page with
    | some i => .ok (s.sramBase s.cur + 4096 * i + va.toNat % 4096)
    | none => .error (.refill va)
  | none =>
    if s.seq ≠ .routine ∧ s.core.ctl.task.any (fun t => va.toNat / 4096 + 1 == t.stackBase.toNat / 4096) then raise 0x05 va
    else match (winner s.core.mem.tlb s.ctx va).filter (·.permits n) with
    | some e =>
      let pa := e.pa va
      match s.place pa with
      | .hole => if n.isEngine then .ok pa else raise 0x05 va
      | .sram c => if c = s.cur ∧ (s.core.mem.pages.get (pageOf pa)).role ≠ .tile ∧ n.isEngine = false then raise 0x05 va else .ok pa
      | _ => .ok pa
    | none =>
      if s.core.ctl.misses.any fun m => m.q == s.seq && m.va == va && m.faulted then raise 0x05 va
      else .error (.miss va n)

/-- The same byte under the other frame of an active migration (R412). -/
def State.twins (s : State) (pa : Nat) : List Nat :=
  pa :: s.homes.migrations.flatMap fun m =>
    let n := 128 * m.lines
    (if m.old ≤ pa ∧ pa < m.old + n then [pa - m.old + m.new] else []) ++
    (if m.new ≤ pa ∧ pa < m.new + n then [pa - m.new + m.old] else [])

/-- The checks of a thread access of `n` bytes at `va` (R197, R199): ALIGN, PGF (for an atomic to the host window too, R203), RANGE, in that order. It waits for an
acquire of the same sequencer that has not returned (R132). -/
def State.access (s : State) (va : Word) (n : Nat) (need : Need) : Try Nat := do
  if s.core.mem.loads.any fun l => l.q == s.seq && l.acq then stall .release
  if va.toNat % n ≠ 0 then raise 0x03 va
  let pa ← s.translate va need
  if need = .atomic ∧ s.place pa = .host then raise 0x05 va
  if (s.twins pa).any fun a => s.core.locked a n then raise 0x04 va
  return pa

/-! ## The scoreboard (R150, R195) -/

/-- Register `r` is held. -/
def State.held (s : State) (r : Reg) : Bool := r != 0 && s.core.ctl.holds.any fun h => h.q == s.seq && h.reg == r
/-- Read a source register, waiting while it is held. -/
def State.src (s : State) (r : Reg) : Try Word := if s.held r then stall (.register r) else .ok (s.g r)
/-- Wait until a destination register is not held. -/
def State.dst (s : State) (r : Reg) : Try Unit := waitFor (!s.held r) (.target r)
/-- Hold a register until a value returns. -/
def State.hold (s : State) (r : Reg) : State :=
  if r = 0 then s else s.modCtl fun c => { c with holds := ⟨s.seq, r, false⟩ :: c.holds }

/-- A release access may perform (R134): every earlier load has returned and every earlier store is O or written. -/
def State.released (s : State) : Bool :=
  s.core.mem.loads.all (fun l => l.q != s.seq) && s.core.mem.stores.all fun l => l.q != s.seq
/-- Wait as a release. -/
def State.release (s : State) : Try Unit := waitFor s.released .release
/-- The page group may be reached by migration (R111): the control stream of a worker's single task, in no pair, at task privilege. -/
def State.mayMigrate (s : State) : Bool :=
  decide (s.seq = .control) && s.pm == 0 && isWorker s.cur && s.core.pair.isNone && !(s.core.ctl.task.any (·.team.isSome))

/-! ## Before any instruction executes -/

/-- Who accepts an instruction, and what it needs (R110, R114, R115, R289, R422, R424). -/
structure Form where
  /-- length in bytes -/
  len : Nat
  /-- accepts a prefix -/
  pfx : Bool
  /-- the group's bit in kcap0 -/
  group : Nat
  inVector : Bool
  inMatrix : Bool
  inRoutine : Bool
  /-- the control stream may issue it while a vector, or a matrix, stream is open -/
  withVector : Bool
  withMatrix : Bool
  /-- may be issued in a hinge pair -/
  inPair : Bool
  /-- forces an exchange first in a hinge pair -/
  exchange : Bool

/-- Base arithmetic and branches: majors 0x01 to 0x0D. -/
def Form.base : Form := ⟨4, false, 0, true, true, true, true, true, true, false⟩
/-- The same, in 16 bits (R108). -/
def Form.short : Form := { Form.base with len := 2 }
/-- A base instruction of the control stream only. -/
def Form.control : Form := { Form.base with inVector := false, inMatrix := false, inRoutine := false }
/-- A base instruction of the control stream and of routines (R289). -/
def Form.shared : Form := { Form.control with inRoutine := true }

/-- The checks made before an instruction executes: the prefix (R115), the group (R110, R111), the sequencer (R114, R289),
the hinge pair (R422, R424), and a group that a migration would find on a page core. -/
def State.acceptsForm (s : State) (f : Form) : Try Unit := do
  if s.core.pp s.seq ∧ f.pfx = false then .error (.trap ⟨0x01, s.pc, 0, false, true⟩)
  if bit (coreGroups s.cur) f.group = false then
    if f.group = 4 ∧ s.mayMigrate then stall .migration
    else illegal s
  check s (match s.seq with
    | .vector => f.inVector
    | .matrix => f.inMatrix
    | .routine => f.inRoutine
    | .control => (!s.core.vs.opened || f.withVector) && (!s.core.ms.opened || f.withMatrix))
  if s.seq = .control then
    match s.core.pair with
    | some p =>
      check s f.inPair
      if f.exchange ∧ p.forces s.pc = false then stall (.force f.len)
      if p.draining ∨ p.count ≥ 4096 then stall .gate
    | none => pure ()

/-- The task has used group `n` (R402); its first matrix instruction takes the pages of the save area (R379). -/
def Task.useGroup (t : Task) (n : Nat) : Task :=
  { t with
    groups := t.groups ||| (1#6 <<< n)
    scratch := if n = 2 ∧ bit t.groups 2 = false then t.scratch ++ matrixPages t.id else t.scratch }

/-- Note that the task has used the form's group. -/
def State.useGroup (s : State) (f : Form) : State := if f.group = 0 then s else s.modTask (·.useGroup f.group)

/-- What becomes of an instruction: its next state, or the way out it took. -/
def conclude (s : State) (l32 : Bool) (r : Try State) : Host.Outcome State Fault Refusal :=
  match r with
  | .ok t => .next t
  | .error (.trap c) => .next (s.takeTrap c l32)
  | .error (.error code a) => .next (s.meetError code a l32)
  | .error (.stall w) => .next (s.setStall w)
  | .error (.miss va n) => .next (s.raiseMiss va n)
  | .error (.refill va) => .next (s.refill va l32)

/-- Run an instruction of form `f` whose effect, its checks included, is `body`. Once it is accepted the task has used its group, however it
ends (R402, R409). -/
def run (f : Form) (s : State) (body : Try State) : Host.Outcome State Fault Refusal :=
  if s.pm = 3 then .fault .reservedPrivilege
  else
    match s.acceptsForm f with
    | .error e => conclude s (f.len == 4) (.error e)
    | .ok _ => conclude (s.useGroup f) (f.len == 4) (body.map (·.useGroup f))

end Sys2Proof.Machine
end

