-- ==== Sys2Proof/Machine/Operands.lean ====
section
/-! DEFINITION. Operand forms: widths (R100, R157), immediates (R101, R103), memory addresses (R102), the fields of a
pending prefix (R107, R116) and tile operands (R335). -/

namespace Sys2Proof.Machine

/-- An operation on two operands of width W; a `.w` result is sign-extended (R100, R157). -/
def atWidth (w : Width) (f : (n : Nat) → BitVec n → BitVec n → BitVec n) (x y : Word) : Word :=
  match w with
  | .d64 => f 64 x y
  | .w32 => (f 32 (x.setWidth 32) (y.setWidth 32)).signExtend 64

/-- A signed 12-bit immediate or offset (R101, R102). -/
def imm12 (i : BitVec 12) : Word := i.signExtend 64
/-- A signed 19-bit immediate (R101). -/
def imm19 (i : BitVec 19) : Word := i.signExtend 64
/-- The byte offset of off[11:1] (R103 B12, R108 0xB). -/
def off12 (o : BitVec 11) : Word := (o ++ 0#1).signExtend 64
/-- The byte offset of off[19:1] (R103 B19). -/
def off20 (o : BitVec 19) : Word := (o ++ 0#1).signExtend 64
/-- The byte offset of off[6:1] (R108). -/
def off7 (o : BitVec 6) : Word := (o ++ 0#1).signExtend 64
/-- The signed 6-bit immediate of a 16-bit form (R108). -/
def imm6 (i : BitVec 6) : BitVec 12 := i.signExtend 12
/-- The offset 8 x imm of the 16-bit load and store (R108). -/
def offset8 (i : BitVec 6) : BitVec 12 := i.setWidth 12 <<< 3

/-- Bytes of a scalar access of size sz (R102). -/
def accessBytes (z : BitVec 2) : Nat := 2 ^ z.toNat

/-- The value of `n` bits sign-extended to 64 (R197). -/
def signed (n : Nat) (x : Word) : Word := (x.setWidth n).signExtend 64

/-! ## The prefix (R115, R116) -/

/-- What a prefix gives its target. -/
structure Prefix where
  fa : BitVec 4
  fb : BitVec 4
  fd : BitVec 4
  sa : Reg
  sb : Reg
  esA : Bool
  esB : Bool
  deriving DecidableEq, Repr

/-- `kpfx` read by R116. -/
def prefixOf (x : Word) : Prefix :=
  ⟨bits x 20 4, bits x 16 4, bits x 12 4, bits x 7 5, bits x 2 5, bit x 0, bit x 1⟩

/-- The prefix pending in the acting sequencer. -/
def State.pending (s : State) : Option Prefix :=
  if s.core.pp s.seq then some (prefixOf (s.core.pfx s.seq)) else none

/-- A tensor scale: bits [31:0] of the register, 1.0 for g0 (R97, R107). -/
def State.scale (s : State) (r : Reg) : W32 := if r = 0 then 0x3F800000#32 else (s.g r).setWidth 32

/-! ## Tiles (R335) -/

/-- State of a tile-table entry: 0 empty, 1 filling, 2 ready, 3 draining (R335). -/
def tileState (e : Word) : BitVec 2 := bits e 0 2
/-- First local page. -/
def tileBase (e : Word) : Nat := (bits e 8 7).toNat
/-- Size in bytes. -/
def tileBytes (e : Word) : Nat := 4096 * ((bits e 4 4).toNat + 1)
/-- Tile `t` of a core. -/
def Core.tile (k : Core) (t : TileNo) : Word := k.mem.tiles.get t.toFin
/-- The core with tile `t` set. -/
def Core.setTile (k : Core) (t : TileNo) (e : Word) : Core :=
  k.modMem fun m => { m with tiles := m.tiles.set t.toNat e t.isLt }
/-- Global address of the first byte of tile `t` of the acting core. -/
def State.tileAddr (s : State) (t : TileNo) : Nat := s.sramBase s.cur + 4096 * tileBase (s.core.tile t)

/-- Wait until tile `t` is ready; a poisoned tile takes ECCU (R26, R178). -/
def State.readyTile (s : State) (t : TileNo) : Try Word :=
  let e := s.core.tile t
  if tileState e ≠ 2 ∨ s.unseen t then stall (.tile t)
  else if bit e 15 then .error (.error 0x0A (BitVec.ofNat 64 (s.tileAddr t)))
  else .ok e

end Sys2Proof.Machine
end

