-- ==== Sys2Proof/Machine/Flags.lean ====
section
/-! DEFINITION. Status fields: what software may write of `kstatus`, `kcause` and the other control registers (R151 to
R154), branch conditions (R161), and the status word of an engine operation (R308). No arithmetic instruction sets a flag
(R157). -/

namespace Sys2Proof.Machine

/-- The bits of `kstatus` that `kwr` writes: IE, NS, TT, SIE, SPP (R154). -/
def kstatusMask : Word := 0x64C#64
/-- `kstatus` after a `kwr` (R154). -/
def kstatusWrite (old new : Word) : Word := (old &&& ~~~kstatusMask) ||| (new &&& kstatusMask)
/-- The defined bits of `kcause` (R152). -/
def kcauseMask : Word := 0xFF00F000FF#64
/-- The defined bits of `kpfx` (R116). -/
def kpfxMask : Word := 0xFFFFFF#64

/-- The condition of a conditional branch (R161). -/
inductive Cond | eq | ne | lt | ge | ltu | geu
  deriving DecidableEq, Repr

/-- The condition holds of two registers (R161). -/
def Cond.holds : Cond → Word → Word → Bool
  | .eq, x, y => x == y
  | .ne, x, y => x != y
  | .lt, x, y => x.slt y
  | .ge, x, y => !x.slt y
  | .ltu, x, y => x.ult y
  | .geu, x, y => !x.ult y

/-- A bit as a number. -/
def ofBool (b : Bool) : Word := if b then 1 else 0

end Sys2Proof.Machine
end

