-- ==== Sys2Proof/Machine/Fetch.lean ====
section
/-! DEFINITION. Fetching an instruction (R98, R173), what becomes of bytes that are none (R110, R111, R115), what is due
at a boundary (R183), whether a sequencer moves, and placing an instruction where the next step fetches it. -/

namespace Sys2Proof.Machine

/-- A PGF or ILL of a fetch, with whether the instruction is known to be 32 bits (L32 of R152). -/
abbrev Fetched := Except (Exit × Bool) (List Byte)

/-- The bytes at the head of the resident routine that retires the task (R46). -/
def homeBytes : List Byte := encode .retire

/-- One halfword of an instruction: the extent of a stream (R173), then translation (R98); ECCU from a poisoned line (R310). It is read
where its line is now (R411), and from the survivors of a lost shard (R325). -/
def State.fetchHalf (s : State) (a : Word) (l32 : Bool) : Fetched :=
  let strm : Option Stream :=
    match s.seq with
    | .vector => some s.core.vs
    | .matrix => some s.core.ms
    | _ => none
  if strm.any fun v => decide (a.toNat < v.start.toNat ∨ v.stop.toNat < a.toNat + 2) then
    .error (.trap ⟨0x01, a, 0, false, false⟩, l32)
  else
    match s.translate a .fetch with
    | .ok pa =>
      let b := s.located pa
      if s.unreadable b 2 then .error (.error 0x0A (BitVec.ofNat 64 pa), l32) else .ok (s.readLine b 2)
    | .error e => .error (e, l32)

/-- The acting sequencer is at the resident routine of R46. -/
def State.atHome (s : State) : Bool :=
  decide (s.seq = .control) && s.core.ctl.task.any fun t => t.home != 0 && t.home == s.pc

/-- Fetch the bytes of one instruction (R98). -/
def State.fetch (s : State) : Fetched :=
  let pc := s.pc
  if bit pc 0 then .error (.trap ⟨0x03, pc, 0, false, false⟩, false)
  else if s.atHome then .ok homeBytes
  else
    match s.fetchHalf pc false with
    | .error e => .error e
    | .ok h0 =>
      if (h0.head?.elim false fun b => bit b 0) = false then .ok h0
      else
        match s.fetchHalf (pc + 2) true with
        | .error e => .error e
        | .ok h1 => .ok (h0 ++ h1)

/-- The opcode of a word, whatever its other fields hold, is one that accepts a prefix (R115). -/
def takesPrefix (bytes : List Byte) : Bool :=
  let w : W32 := BitVec.ofNat 32 (ofBytes bytes)
  let fn := (bits w 29 3).toNat
  let x := (bits w 13 3).toNat
  bit w 0 && match (bits w 1 7).toNat with
  | 0x30 => true
  | 0x33 => decide (3 ≤ fn ∧ fn ≤ 5)
  | 0x34 => decide (fn ≤ 2)
  | 0x35 => decide (fn ≤ 4)
  | 0x37 => true
  | 0x4C => decide (2 ≤ x ∧ x ≠ 6)
  | 0x4D => decide (x = 0 ∨ x = 3 ∨ x = 4)
  | _ => false

/-- What becomes of bytes that are no instruction (R110, R111, R115): migration where a page opcode may migrate, no field
inspected; else ILL, which consumes a pending prefix unless the opcode is one that accepts it. -/
def State.rejected (s : State) (bytes : List Byte) (r : Reject) : Host.Outcome State Fault Refusal :=
  if r.group = 4 ∧ bit (coreGroups s.cur) 4 = false ∧ s.mayMigrate then conclude s true (stall .migration)
  else conclude s (r.len == 4) (.error (.trap ⟨0x01, s.pc, 0, false, s.core.pp s.seq && !takesPrefix bytes⟩))

/-! ## What is due (R183, R184, R496) -/

/-- Take a detected error that a completion brought: the oldest of the task (R183 rank 3). -/
def State.dueError (s : State) : Option State :=
  match s.core.ctl.task with
  | some t =>
    match t.errs with
    | e :: rest => some ((s.modTask fun t => { t with errs := rest }).detected s.cur e.1 e.2.1 e.2.2)
    | [] => none
  | none => none

/-- A program fault brought by a completion may be taken by the acting thread: TT = 0 (R496). -/
def State.pendDue (s : State) : Bool :=
  !s.tt && (match s.seq, s.core.msg.bank with
    | .routine, some b => !b.pend.isEmpty
    | .routine, none => false
    | _, _ => s.core.ctl.task.any fun t => !t.pend.isEmpty)

/-- The acting sequencer issues instructions: its core runs a task, its stream is open and not frozen, a routine is in
the bank of a core that is not halted (R12, R167, R172, R177, R191, R288). -/
def State.moves (s : State) : Bool :=
  let k := s.core
  !k.ctl.stopped && match s.seq with
    | .control => decide (k.ctl.run = .task)
    | .vector => decide (k.ctl.run = .task) && k.vs.opened && !k.vs.frozen
    | .matrix => decide (k.ctl.run = .task) && k.ms.opened && !k.ms.frozen
    | .routine => k.msg.bank.isSome && decide (k.ctl.run ≠ .halted)

/-- Who issues when both a routine and the task could: they alternate; a stalled or idle one lets the other issue
(R289). -/
def State.alternate (s : State) : State :=
  match s.core.msg.bank with
  | none => if s.seq = .routine then { s with seq := .control } else s
  | some _ =>
    let free := decide (s.core.ctl.run = .task) && !(s.core.ctl.stalls.any fun e => e.1 == .control)
    let held := s.core.ctl.stalls.any fun e => e.1 == .routine
    let routine := !free || (!s.core.msg.alternate && !held)
    if s.seq = .vector ∨ s.seq = .matrix then s
    else
      let k := s.core
      { s with seq := if routine then .routine else .control, core := k.modMsg fun m => { m with alternate := routine } }

/-! ## Placing an instruction (log 30) -/

/-- Where the instruction is placed: the first byte of HBM4E channel 0 of logical die 16. -/
def placeBase (s : State) : Nat := globalAddr s.mgmt.domain.pkg.toNat 16 0 0

/-- The task that stands for a launched one. -/
def placedTask : Task :=
  ⟨1, 0, 1, 1, false, none, ⟨0, 0, 0, 0⟩, 0, [], [], 0, 0, 0, [], [], 0, []⟩

/-- A TLB entry that maps 16 KiB at `va` of context `x` to `pa`, for reading, writing and fetching (R399). -/
def placedEntry (x : BitVec 16) (va : Word) (pa : Nat) : TlbEntry :=
  ⟨x, 0x8000000000000000#64 ||| (va &&& 0x1FFFFFFFFFFC000#64), BitVec.ofNat 64 (pa / 2 ^ 14 * 2 ^ 14) ||| 7#64⟩

/-- The task that the placed instruction runs under: the running one with nothing due, else a new one. -/
def Core.placedTask (k : Core) : Task :=
  match k.ctl.task with
  | some t => { t with pend := [], errs := [], scratch := [], stackBase := 0, home := 0, unseen := [] }
  | none => Machine.placedTask

/-- The core with its control sequencer about to fetch at `pc`: running a task, nothing due, one TLB entry there. -/
def Core.place (k : Core) (pc : Word) (e : TlbEntry) : Core :=
  { k with
    thr := { k.thr with pc := pc, kstatus := setBit (setBit k.thr.kstatus 1 false) 15 false }
    ctl := { k.ctl with
      run := .task, task := some k.placedTask, due := .reset, stopped := false, stalls := [], awaits := [], misses := [] }
    mem := { k.mem with tlb := [e] }
    msg := k.msg.setBank none }

/-- The state with `bytes` where the control sequencer of the acting core fetches next. -/
def State.place' (s : State) (bytes : List Byte) : State :=
  let pc := if bit s.core.thr.pc 0 ∨ bits s.core.thr.pc 57 7 ≠ 0 ∨ s.core.thr.pc.toNat % 16384 + 8 > 16384 then 0 else s.core.thr.pc
  let base := placeBase s
  let a := base + pc.toNat % 16384
  let x : BitVec 16 := bits s.core.ctl.k.kctx 16 16
  { s with
    agenda := [], seq := .control
    core := s.core.place pc (placedEntry x pc base)
    homes := { s.homes with
      registry := s.homes.registry.filter fun e => decide (e.line < a / 128 ∨ (a + 7) / 128 < e.line)
      poison := s.homes.poison.filter fun l => decide (l < a / 128 ∨ (a + 7) / 128 < l) }
    mem := writeBytes s.mem a bytes }

end Sys2Proof.Machine
end

