-- ==== Sys2Proof/Machine/Formats.lean ====
section
/-! DEFINITION. Number formats (R77 to R90): exact values, decoding, the rounding functions, conversions and NaNs. -/

namespace Sys2Proof.Machine

/-- The formats of R77. -/
inductive Fmt | fp32 | fp16 | bf16 | m8 | m4 | pair | int8 | int16 | int32 | int64 | e8
  deriving DecidableEq, Repr

/-- The format of a code; none for a reserved one (R77). -/
def fmtOf (c : BitVec 4) : Option Fmt :=
  match c.toNat with
  | 0 => some .fp32
  | 1 => some .fp16
  | 2 => some .bf16
  | 3 => some .m8
  | 4 => some .m4
  | 5 => some .pair
  | 6 => some .int8
  | 7 => some .int16
  | 8 => some .int32
  | 9 => some .int64
  | 10 => some .e8
  | _ => none

/-- Width in bits (R77). -/
def Fmt.width : Fmt → Nat
  | .fp32 => 32
  | .fp16 => 16
  | .bf16 => 16
  | .m8 => 8
  | .m4 => 4
  | .pair => 16
  | .int8 => 8
  | .int16 => 16
  | .int32 => 32
  | .int64 => 64
  | .e8 => 8

/-- An integer format. -/
def Fmt.isInt : Fmt → Bool
  | .int8 => true
  | .int16 => true
  | .int32 => true
  | .int64 => true
  | _ => false

/-- An exact value: NaN with sign and 4-bit payload (R89), an infinity, a signed zero, or m x 2^e with m nonzero. -/
inductive Num
  | nan (neg : Bool) (f : BitVec 4)
  | inf (neg : Bool)
  | zero (neg : Bool)
  | fin (m e : Int)
  deriving DecidableEq, Repr

/-- The NaN of an arithmetic operation (R89). -/
def Num.quiet : Num := .nan false 0
/-- m x 2^e, with +0 for m = 0. -/
def Num.of (m e : Int) : Num := if m = 0 then .zero false else .fin m e
/-- The sign. -/
def Num.neg : Num → Bool
  | .nan s _ => s
  | .inf s => s
  | .zero s => s
  | .fin m _ => decide (m < 0)
/-- The value is NaN. -/
def Num.isNaN : Num → Bool
  | .nan _ _ => true
  | _ => false
/-- The value with the opposite sign. -/
def Num.minus : Num → Num
  | .nan s f => .nan (!s) f
  | .inf s => .inf (!s)
  | .zero s => .zero (!s)
  | .fin m e => .fin (-m) e
/-- floor(log2 |x|) of a finite nonzero value. -/
def floorLog2 (m e : Int) : Int := (Nat.log2 m.natAbs : Int) + e

/-! ## Decoding -/

/-- A binary interchange format with `eb` exponent and `fb` fraction bits (R81). -/
def decodeIeee (eb fb : Nat) (x : Nat) : Num :=
  let s := x / 2 ^ (eb + fb) % 2 == 1
  let ex := x / 2 ^ fb % 2 ^ eb
  let fr := x % 2 ^ fb
  let bias : Int := 2 ^ (eb - 1) - 1
  let sign (m : Int) : Int := if s then -m else m
  if ex = 2 ^ eb - 1 then (if fr = 0 then .inf s else .nan s (BitVec.ofNat 4 (fr / 2 ^ (fb - 5))))
  else if ex = 0 then (if fr = 0 then .zero s else .fin (sign fr) (1 - bias - fb))
  else .fin (sign (2 ^ fb + fr)) (ex - bias - fb)

/-- The magnitude of an M8 code as (m, e), value m x 2^e (R78). -/
def m8Magnitude (c : Nat) : Nat × Int :=
  if c ≥ 64 then (16 + c % 16, (c / 16 % 4 : Nat) - 1 - 4)
  else if c ≥ 32 then (8 + c % 8, (c / 8 % 4 : Nat) - 5 - 3)
  else if c ≥ 16 then (4 + c % 4, (c / 4 % 4 : Nat) - 9 - 2)
  else if c ≥ 8 then (2 + c % 2, (c / 2 % 4 : Nat) - 13 - 1)
  else if c ≥ 4 then (1, (c % 4 : Nat) - 17)
  else if c ≥ 2 then (1, (c % 2 : Nat) - 19)
  else (c, -20)

/-- An M8 byte under NS (R78, R79). -/
def decodeM8 (ns : Bool) (x : Nat) : Num :=
  let s := x / 128 % 2 == 1
  let c := x % 128
  if c = 0 then (if s then .quiet else .zero false)
  else if ns ∧ c ≥ 112 then (if c = 112 then .inf s else .nan s (BitVec.ofNat 4 c))
  else
    let (m, e) := m8Magnitude c
    .fin (if s then -m else m) e

/-- The magnitude of an M4 code in eighths (R80). -/
def m4Eighths (c : Nat) : Nat :=
  match c % 8 with
  | 0 => 0
  | 1 => 1
  | 2 => 2
  | 3 => 4
  | 4 => 8
  | 5 => 12
  | 6 => 16
  | _ => 24

/-- An M4 element (R80); 0x8 reads as zero. -/
def decodeM4 (x : Nat) : Num :=
  let m : Int := m4Eighths x
  Num.of (if x / 8 % 2 = 1 then -m else m) (-3)

/-- An n-bit two's-complement integer (R82). -/
def decodeInt (n x : Nat) : Num := Num.of (BitVec.ofNat n x).toInt 0

/-- The exact value of an element (R78 to R84); of a PAIR, its mean (R85). -/
def decodeNum (f : Fmt) (ns : Bool) (x : Nat) : Num :=
  match f with
  | .fp32 => decodeIeee 8 23 x
  | .fp16 => decodeIeee 5 10 x
  | .bf16 => decodeIeee 8 7 x
  | .m8 => decodeM8 ns x
  | .m4 => decodeM4 x
  | .pair => decodeM8 ns (x / 256)
  | .int8 => decodeInt 8 x
  | .int16 => decodeInt 16 x
  | .int32 => decodeInt 32 x
  | .int64 => decodeInt 64 x
  | .e8 => if x = 255 then .quiet else .fin 1 ((x : Int) - 127)

/-! ## Rounding (R87) -/

/-- a x 2^s to an integer: nearest with ties to even, or toward zero. -/
def roundShift (trunc : Bool) (a : Nat) (s : Int) : Nat :=
  if 0 ≤ s then a * 2 ^ s.toNat
  else
    let d := 2 ^ (-s).toNat
    let q := a / d
    let r := a % d
    if trunc then q else if 2 * r > d ∨ (2 * r = d ∧ q % 2 = 1) then q + 1 else q

/-- Encode into a binary interchange format (`rne`, or `rtz` where `trunc`). -/
def encodeIeee (eb fb : Nat) (trunc : Bool) : Num → Nat
  | .nan s f => (if s then 2 ^ (eb + fb) else 0) + (2 ^ eb - 1) * 2 ^ fb + 2 ^ (fb - 1) + f.toNat * 2 ^ (fb - 5)
  | .inf s => (if s then 2 ^ (eb + fb) else 0) + (2 ^ eb - 1) * 2 ^ fb
  | .zero s => if s then 2 ^ (eb + fb) else 0
  | .fin m e =>
    let emin : Int := 2 - 2 ^ (eb - 1)
    let top := max (floorLog2 m e) emin
    let r := roundShift trunc m.natAbs (e - (top - fb))
    let n := (top - emin).toNat * 2 ^ fb + r
    let lim := (2 ^ eb - 1) * 2 ^ fb
    (if m < 0 then 2 ^ (eb + fb) else 0) + (if n < lim then n else if trunc then lim - 1 else lim)

/-- `rne32` (R87). -/
def rne32 (x : Num) : W32 := BitVec.ofNat 32 (encodeIeee 8 23 false x)
/-- `rne16`. -/
def rne16 (x : Num) : BitVec 16 := BitVec.ofNat 16 (encodeIeee 5 10 false x)
/-- `rnebf`. -/
def rnebf (x : Num) : BitVec 16 := BitVec.ofNat 16 (encodeIeee 8 7 false x)

/-- First code and fraction width of the M8 binade of exponent `e` (R78). -/
def m8Binade (e : Int) : Nat × Nat :=
  if e ≥ -1 then (64 + (e + 1).toNat * 16, 4)
  else if e ≥ -5 then (32 + (e + 5).toNat * 8, 3)
  else if e ≥ -9 then (16 + (e + 9).toNat * 4, 2)
  else if e ≥ -13 then (8 + (e + 13).toNat * 2, 1)
  else if e ≥ -17 then (4 + (e + 17).toNat, 0)
  else if e ≥ -19 then (2 + (e + 19).toNat, 0)
  else (1, 0)

/-- First code and fraction width of the M4 binade of exponent `e` (R80). -/
def m4Binade (e : Int) : Nat × Nat :=
  if e ≥ 1 then (6 + (e - 1).toNat * 2, 1) else if e ≥ 0 then (4, 1) else if e ≥ -1 then (3, 0) else if e ≥ -2 then (2, 0) else (1, 0)

/-- The code in 0..top nearest to a x 2^e, the even code on a tie; `low` is the exponent of code 1. -/
def nearestCode (binade : Int → Nat × Nat) (low : Int) (top : Nat) (a : Nat) (e : Int) : Nat :=
  let l := (Nat.log2 a : Int) + e
  if l < low then (if l = low - 1 ∧ a ≠ 2 ^ Nat.log2 a then 1 else 0)
  else
    let (base, fw) := binade l
    let s := e - (l - fw)
    let c := base + roundShift true a s - 2 ^ fw
    let d := if s < 0 then 2 ^ (-s).toNat else 1
    let r := a % d
    min top (if 2 * r > d ∨ (2 * r = d ∧ c % 2 = 1) then c + 1 else c)

/-- `sat8` (R87). -/
def sat8 (ns : Bool) : Num → Byte
  | .nan _ _ => 0x80
  | .inf s => BitVec.ofNat 8 ((if s then 128 else 0) + (if ns then 0x70 else 0x7F))
  | .zero _ => 0
  | .fin m e =>
    let c := nearestCode m8Binade (-20) (if ns then 0x6F else 0x7F) m.natAbs e
    BitVec.ofNat 8 (if c = 0 then 0 else (if m < 0 then 128 else 0) + c)

/-- `sat4` (R87). -/
def sat4 : Num → BitVec 4
  | .nan _ _ => 8
  | .inf s => if s then 15 else 7
  | .zero _ => 0
  | .fin m e =>
    let c := nearestCode m4Binade (-3) 7 m.natAbs e
    BitVec.ofNat 4 (if c = 0 then 0 else (if m < 0 then 8 else 0) + c)

/-- The nearest integer, ties to even, or toward zero. -/
def toInteger (trunc : Bool) (m e : Int) : Int :=
  let r : Int := roundShift trunc m.natAbs e
  if m < 0 then -r else r

/-- `sati`, or `rtzi` where `trunc` (R87). -/
def sati (trunc : Bool) (n : Nat) : Num → Int
  | .nan _ _ => 0
  | .inf s => if s then -2 ^ (n - 1) else 2 ^ (n - 1) - 1
  | .zero _ => 0
  | .fin m e => max (-2 ^ (n - 1)) (min (2 ^ (n - 1) - 1) (toInteger trunc m e))

/-- A NaN as an M8 byte: its payload under NS = 1 where it has one (R89). -/
def nanM8 (ns s : Bool) (f : BitVec 4) : Nat := if ns ∧ f ≠ 0 then (if s then 128 else 0) + 0x70 + f.toNat else 0x80

/-- The exact value converted into a format (R88, R89): the rounding function of the target, NaN payloads kept. -/
def encodeNum (f : Fmt) (ns trunc : Bool) (x : Num) : Nat :=
  match f with
  | .fp32 => encodeIeee 8 23 trunc x
  | .fp16 => encodeIeee 5 10 trunc x
  | .bf16 => encodeIeee 8 7 trunc x
  | .m8 =>
    match x with
    | .nan s p => nanM8 ns s p
    | _ => (sat8 ns x).toNat
  | .m4 => (sat4 x).toNat
  | .int8 => (BitVec.ofInt 8 (sati trunc 8 x)).toNat
  | .int16 => (BitVec.ofInt 16 (sati trunc 16 x)).toNat
  | .int32 => (BitVec.ofInt 32 (sati trunc 32 x)).toNat
  | .int64 => (BitVec.ofInt 64 (sati trunc 64 x)).toNat
  | .pair => 0
  | .e8 => 0

/-! ## Exact arithmetic (R89, R95) -/

/-- m x 2^e over a smaller exponent. -/
def scaleTo (m e l : Int) : Int := m * 2 ^ (e - l).toNat

/-- x + y, with x + (-x) = +0 (R95). -/
def Num.add (x y : Num) : Num :=
  match x, y with
  | .nan _ _, _ => .quiet
  | _, .nan _ _ => .quiet
  | .inf s, .inf t => if s = t then .inf s else .quiet
  | .inf s, _ => .inf s
  | _, .inf t => .inf t
  | .zero s, .zero t => .zero (s && t)
  | .zero _, y => y
  | x, .zero _ => x
  | .fin m e, .fin n f =>
    let l := min e f
    Num.of (scaleTo m e l + scaleTo n f l) l

/-- x x y. -/
def Num.mul (x y : Num) : Num :=
  let s := x.neg != y.neg
  match x, y with
  | .nan _ _, _ => .quiet
  | _, .nan _ _ => .quiet
  | .inf _, .zero _ => .quiet
  | .zero _, .inf _ => .quiet
  | .inf _, _ => .inf s
  | _, .inf _ => .inf s
  | .zero _, _ => .zero s
  | _, .zero _ => .zero s
  | .fin m e, .fin n f => .fin (m * n) (e + f)

/-- x x 2^k. -/
def Num.scale (x : Num) (k : Int) : Num :=
  match x with
  | .fin m e => .fin m (e + k)
  | y => y

/-- The rational n / d x 2^e, exact enough to round: 1,024 quotient bits and a sticky bit. -/
def Num.ratio (n d e : Int) : Num :=
  let q : Nat := n.natAbs * 2 ^ 1024 / d.natAbs
  let r : Nat := n.natAbs * 2 ^ 1024 % d.natAbs
  let m : Int := 2 * q + (if r = 0 then 0 else 1)
  Num.of (if (n < 0) != (d < 0) then -m else m) (e - 1025)

/-- x < y as numbers; false with a NaN. -/
def Num.lt (x y : Num) : Bool :=
  let key : Num → Int × Int
    | .fin m e => (m, e)
    | _ => (0, 0)
  match x, y with
  | .nan _ _, _ => false
  | _, .nan _ _ => false
  | .inf s, .inf t => s && !t
  | .inf s, _ => s
  | _, .inf t => !t
  | x, y =>
    let (m, e) := key x
    let (n, f) := key y
    let l := min e f
    decide (scaleTo m e l < scaleTo n f l)

/-- x = y as numbers; false with a NaN; the zeros are equal. -/
def Num.eq (x y : Num) : Bool := !x.isNaN && !y.isNaN && !x.lt y && !y.lt x

/-- FP32 addition with one rounding (R95, R203). -/
def fadd32 (x y : W32) : W32 := rne32 ((decodeNum .fp32 false x.toNat).add (decodeNum .fp32 false y.toNat))
/-- FP32 multiplication with one rounding (R97). -/
def fmul32 (x y : W32) : W32 := rne32 ((decodeNum .fp32 false x.toNat).mul (decodeNum .fp32 false y.toNat))

/-! ## The pair format (R85) -/

/-- T[j] of R85. -/
def pairT (j : Nat) : Nat :=
  match j with
  | 0 => 32768
  | 1 => 38968
  | 2 => 46341
  | _ => 55109

/-- sigma of a log-deviation byte, exactly (R85). -/
def sigmaOf (lsd : Byte) : Num :=
  if lsd = 0x80 then .zero false
  else .fin (pairT (lsd.toNat % 4)) (lsd.toInt / 4 - 15)

/-! ## Blocks with an E8 scale (R90) -/

/-- max |x| over finite values, as floor(log2). -/
def maxLog (xs : List Num) : Option Int :=
  xs.foldl (fun a x => match x, a with
    | .fin m e, none => some (floorLog2 m e)
    | .fin m e, some b => some (max b (floorLog2 m e))
    | _, a => a) none

/-- The E8 scale and the elements of a block written in M8 or M4 (R90). -/
def encodeBlock (m4 ns : Bool) (xs : List Num) : Byte × List Nat :=
  let bad := xs.any fun x => match x with
    | .nan _ _ => true
    | .inf _ => true
    | _ => false
  let enc (x : Num) : Nat := if m4 then (sat4 x).toNat else (sat8 ns x).toNat
  if bad then (255, xs.map fun _ => if m4 then 8 else 0x80)
  else
    match maxLog xs with
    | none => (127, xs.map fun _ => 0)
    | some l =>
      let top : Int := if m4 then 1 else if ns then 1 else 2
      let s := min (max (l - top + 127) 0) 254
      (BitVec.ofInt 8 s, xs.map fun x => enc (x.scale (127 - s)))

end Sys2Proof.Machine
end

