-- ==== Sys2Proof/Machine/Saving.lean ====
section
/-! DEFINITION. A task's life on a core: its start (R46), its save frame (R189) and leaving the core (R188, R379, R294), its
return (R190). -/

namespace Sys2Proof.Machine

/-! ## The save frame (R189) -/

/-- A stream's row: pc, prefix latch, flags. -/
def Stream.row (v : Stream) : List Byte :=
  wordsBytes [v.pc, v.pfx, ofBool v.opened ||| (ofBool v.pp <<< 1) ||| (ofBool v.ns <<< 2), 0]

/-- A stream's copies of the registers. -/
def Stream.copies (v : Stream) : List Byte := wordsBytes v.g.toList ++ v.i.toList.flatMap fun x => toBytes 4 x.toNat

/-- `kstatus` of a task that is out, with its streams (R151, R190). -/
def Saved.kstatus (v : Saved) : Word := setBit (setBit v.thr.kstatus 13 v.vs.opened) 14 v.ms.opened

/-- The 8 KiB of a save frame (R189). -/
def Saved.frame (v : Saved) : List Byte :=
  let t := v.thr
  wordsBytes t.g.toList ++ (v.idx.toList.flatMap fun x => toBytes 4 x.toNat) ++
  wordsBytes [v.kstatus, t.kcause, t.kaddr, t.kepc, t.kpfx] ++
  wordsBytes [t.kvec, v.k.kcnt, v.k.ksent, v.k.krecv, v.k.knoise, v.k.kmember, v.k.kchk] ++
  wordsBytes [t.pc] ++ v.oc.bytes ++ toBytes 4 v.task.pend.length ++ wordsBytes v.vec.p.toList ++
  v.vs.row ++ v.ms.row ++ (v.vec.m.toList.flatMap fun m => toBytes 32 m.toNat) ++
  v.vs.copies ++ List.replicate 240 0 ++ v.ms.copies ++ List.replicate 240 0 ++
  wordsBytes v.tiles.toList ++ ((v.task.pend.flatMap fun (p : Word × Word) => wordsBytes [p.1, p.2]) ++ List.replicate 1536 0).take 1536 ++ (v.vec.v.toList.flatMap fun x => toBytes 128 x.toNat)

/-- The saved states of tasks that are out: in resume lists, park slots and ships. -/
def State.allSaved (s : State) : List Saved :=
  let lists := s.core.sched.resume ++ s.cores.flatMap (·.2.sched.resume)
  let parks := s.services.flatMap fun v => v.parks.map (·.2.saved)
  let ships := s.fab.outst.filterMap fun o => match o.body with
    | .ship h => some h.saved
    | _ => none
  lists.map (·.saved) ++ parks ++ ships

/-- What has completed for a task that is out is written into its frame (R64, R189). -/
def State.reframe (s : State) (task : Nat) : State :=
  (s.allSaved.find? (·.task.id == task)).elim s fun v => s.deviceWrite v.task.frame v.frame

/-! ## Leaving a core -/

/-- A message as a ring entry (R292); `g7` is the value g7 would have (R288). -/
def Inbound.g7 (m : Inbound) : Word :=
  BitVec.ofNat 64 (globalAddr m.src.pkg.toNat m.src.die.toNat m.src.unit.toNat 0) ||| m.cls.setWidth 64
/-- The 64 bytes of the entry. -/
def Inbound.entry (m : Inbound) : List Byte :=
  toBytes 8 m.g7.toNat ++ (m.args.take 4).flatMap (fun x => toBytes 8 x.toNat) ++
    [(if m.nw then 1 else 0) ||| (if m.ns then 2 else 0)] ++ List.replicate 23 0

/-- The slot of entry `n` of a ring of 63 (R292). HEAD may be lowered past 0 (R294), where the entry's number counts as negative (log
139). -/
def ringEntrySlot (buf : Nat) (n : Word) : Nat := buf + 64 * (1 + (n.toInt % 63).toNat)

/-- Spill the fast-path entries of the task into its ring, ahead of the ring's oldest entry (R294). -/
def State.spillFast (s : State) (c : CoreName) (task : Nat) : State :=
  let mine (m : Inbound) : Bool := m.bind.any fun b => b.polled && b.task == task
  let s' := ((s.getCore c).msg.fast.filter mine).reverse.foldl (fun s m =>
    match m.bind.map (·.buf) with
    | some a =>
      let h := readWord s.mem a - 1
      (s.deviceWrite (ringEntrySlot a h) m.entry).deviceWrite a (toBytes 8 h.toNat)
    | none => s) s
  s'.modCore c fun k => k.modMsg fun m => { m with fast := m.fast.filter fun x => !mine x }

/-- What is saved of a core's task (R64, R189, R379). -/
def Core.saved (k : Core) (t : Task) : Saved :=
  ⟨t, k.thr, k.ctl.idx, k.ctl.k, k.ctl.oc, k.vs, k.ms, k.vec, k.mem.tiles, k.ctl.holds,
   if bit t.groups 2 then some { k.mat with join := none } else none, k.mat.join.isSome,
   k.ctl.awaits.filter fun a => a.lasting && a.q != .routine⟩

/-- The thread once the task has gone through the resident handler: PM firmware, TT 1, IE 0 (R188 step 3). -/
def Thread.leave (t : Thread) : Thread := { t with kstatus := setBit (setBits (setBit t.kstatus 3 false) 4 2#2) 6 true }

/-- Answers on their way to instructions of task `t` on core `c` that it goes on with later follow the task. -/
def State.carryAnswers (s : State) (c : CoreName) (t : Nat) : State :=
  let ids := ((s.getCore c).ctl.awaits.filter fun a => a.lasting && a.q != .routine).map (·.id)
  s.modFab fun f => { f with
    outst := f.outst.map fun o =>
      match o.purpose with
      | .await d _ id i => if d = c ∧ ids.contains id then { o with purpose := .awaitOf t id i } else o
      | _ => o }

/-- Every earlier access of the core's task has its point, so the task may leave (R140); reads of an instruction that waits for them
have come (R258). -/
def Core.quiet (k : Core) : Bool :=
  (k.mem.loads.all fun l => l.q == .routine) && (k.mem.stores.all fun l => l.q == .routine) &&
    k.ctl.awaits.all fun a => a.q == .routine || a.sent || a.out == 0

/-! ### The matrix save area (R379) -/

/-- The fixed-point number at line `r`, place `k` of a panel. -/
def Panel.fixedAt (p : Panel) (r k : Nat) : Int :=
  match (p.cells[r]?).bind fun l => l[k]? with
  | some x => x.q
  | none => 0

/-- A slot as held: a byte for each K-row and column; a 16-bit pair's high bytes and low bytes are in its two slots (R352; log 144). -/
def Matrix.slotBytes (m : Matrix) (n : Nat) : List Byte :=
  let kind (i : Nat) : Nat := (bits (m.slots.get (Fin.ofNat 8 i)).desc 60 3).toNat
  let p := (m.slots.get (Fin.ofNat 8 (if kind n = 3 then n + 4 else n))).panel
  (List.range 128).flatMap fun k => (List.range 64).map fun c =>
    let q : Int := p.fixedAt c k
    BitVec.ofInt 8 (if kind n = 2 then q >>> 8 else q)

/-- The exponent of block `b` of line `n` as a byte; 0x80 for a NaN block (log 144). -/
def Panel.expByte (p : Panel) (n b : Nat) : Byte :=
  match (p.exps[n]?).bind (·[b]?) with
  | some (some e) => BitVec.ofInt 8 e
  | some none => 0x80
  | none => 0

/-- The block exponents of a slot. -/
def MSlot.slotExps (x : MSlot) : List Byte := (List.range 4).flatMap fun b => (List.range 64).map fun c => x.panel.expByte c b

/-- A bank: its rows, then their exponents. -/
def MSlot.bankBytes (x : MSlot) : List Byte :=
  ((List.range 256).flatMap fun r => (List.range 128).flatMap fun k =>
    toBytes 2 (BitVec.ofInt 16 (x.panel.fixedAt r k)).toNat) ++
  (List.range 256).flatMap fun r => (List.range 4).map (x.panel.expByte r)

/-- The 200 KiB of the save area (R379). -/
def Matrix.area (m : Matrix) : List Byte :=
  (List.range 8).flatMap m.slotBytes ++ m.slots.toList.flatMap MSlot.slotExps ++
    wordsBytes (m.slots.toList.map (·.desc) ++ m.banks.toList.map (·.desc) ++ [m.team] ++
      ((m.accs ++ List.replicate 8 0).take 8).flatMap fun r => [r, 0]) ++
    List.replicate 1832 0 ++ m.banks.toList.flatMap MSlot.bankBytes ++ List.replicate 2048 0

/-- The save area of a task that has used the unit is written (R379). -/
def State.saveMatrix (s : State) (c : CoreName) (t : Task) : State :=
  if bit t.groups 2 then s.deviceWrite (taskFrame t.id 6) (s.getCore c).mat.area else s

/-- Take the task off core `c` (R188 steps 2 to 4): stash, scratch and messages are written back, the frame is written, the
weight returns. -/
def State.takeOff (s : State) (c : CoreName) : Option (Saved × State) :=
  match (s.getCore c).ctl.task with
  | none => none
  | some t =>
    let s := (((s.flushStash c).unpinScratch c).spillFast c t.id).dropTokens c
    let s := s.unreserve c
    let k := s.getCore c
    let v := k.saved ((k.ctl.task).getD t)
    let s := (s.deviceWrite t.frame v.frame).saveMatrix c t
    let s := (s.carryAnswers c t.id).abandon c false
    let s := s.modCore c fun k => { k.vacate with thr := k.thr.leave }
    some (v, s.subUse t.ctx t.cid (dieOf c) 1 (weight (recPcls t.record)))

/-- The task of core `c` enters the core's resume list (R188, R216, R239). -/
def State.intoResume (s : State) (c : CoreName) (yld : Bool) : State :=
  match s.takeOff c with
  | none => s
  | some (v, s) => s.modCore c fun k => k.modSched fun h => { h with resume := h.resume ++ [⟨v, yld, yld, false⟩] }

/-! ## Tiles that move (R111, R379, R405) -/

/-- The first local page of `n` free pages in a row. -/
def Core.freeRun (k : Core) (n : Nat) : Option Nat :=
  (List.range (129 - n)).find? fun b => (List.range n).all fun i => (k.mem.pages.toList[b + i]?).any (·.role == .free)

/-- Give the pages from `b` to tile `t`. -/
def Core.claimPages (k : Core) (t : TileNo) (b n : Nat) : Core :=
  (List.range n).foldl (fun k i => k.setPage (b + i) ⟨.tile, t, false, true, 0⟩) k

/-- The contents of the ready tiles of a saved task whose pages are on core `c`. -/
def State.tileContents (s : State) (c : CoreName) (v : Saved) : List (TileNo × List Byte) :=
  (List.range 64).filterMap fun i =>
    let e := (v.tiles.toList[i]?).getD 0
    if tileState e = 2 then some (BitVec.ofNat 6 i, readBytes s.mem (s.sramBase c + 4096 * tileBase e) (tileBytes e)) else none

/-- Place one tile's contents in free pages of core `c`, with its number and state. -/
def State.placeTile (s : State) (c : CoreName) (x : State × Saved) (t : TileNo × List Byte) : State × Saved :=
  let e := x.2.tiles.get t.1.toFin
  let n := t.2.length / 4096
  match (x.1.getCore c).freeRun n with
  | none => x
  | some b =>
    let s' := x.1.modCore c fun k => k.claimPages t.1 b n
    ({ s' with mem := writeBytes s'.mem (s.sramBase c + 4096 * b) t.2 },
     { x.2 with tiles := x.2.tiles.set t.1.toNat (setBits e 8 (BitVec.ofNat 7 b)) t.1.isLt })

/-- Free pages enough for every tile of a saved task, if they are taken one after another. -/
def Core.holdsTiles (k : Core) (ts : List (TileNo × List Byte)) : Bool :=
  (ts.foldl (fun (r : Option Core) t => r.bind fun k =>
    (k.freeRun (t.2.length / 4096)).map fun b => k.claimPages t.1 b (t.2.length / 4096)) (some k)).isSome

/-! ## Coming back -/

/-- The core with a saved task running on it (R190). -/
def Core.restore (k : Core) (v : Saved) : Core :=
  { k with
    thr := v.thr
    ctl := { k.ctl with
      idx := v.idx, k := v.k, oc := v.oc, run := .task, task := some v.task, lastCtx := some v.task.ctx
      holds := v.holds ++ k.ctl.holds, awaits := v.awaits ++ k.ctl.awaits }
    vs := v.vs, ms := v.ms, vec := v.vec
    mat := (v.mat.elim k.mat fun m => { m with power := k.mat.power })
    mem := { k.mem with tiles := v.tiles, stash := k.mem.stash.filter fun e => e.2 != .V } }

/-- A saved task resumes on core `c` (R190): its weight is admitted again. -/
def State.resumeOn (s : State) (c : CoreName) (v : Saved) : State :=
  let n := s.work.starts
  let v := { v with task := { v.task with started := n } }
  let s := s.modWork fun w => { w with starts := n + 1 }
  let s := s.modCore c fun k => k.restore v
  s.addUse v.task.ctx v.task.cid (dieOf c) 1 (weight (recPcls v.task.record))

/-! ## Shipping (R405, R406) -/

/-- The ship record (R406): 508 bytes and their CRC. -/
def shipRecord (v : Saved) (entry : Option TlbEntry) (tiles : Bool) : List Byte :=
  let t := v.thr
  let f := v.task.fetcher
  withCrc (wordsBytes t.g.toList ++ (v.idx.toList.flatMap fun x => toBytes 4 x.toNat) ++
    wordsBytes [v.kstatus, t.kcause, t.kaddr, t.kepc, t.kpfx, t.kvec] ++
    wordsBytes [v.k.kcnt, v.k.ksent, v.k.krecv, v.k.knoise, v.k.kmember, v.k.kchk] ++
    wordsBytes [t.pc, BitVec.ofNat 64 v.task.frame] ++ recBytes v.task.record ++
    wordsBytes [f.next, f.fin, f.ext] ++ toBytes 4 f.gen.toNat ++ toBytes 4 v.task.cid.toNat ++
    wordsBytes (entry.elim [0, 0] fun e => [e.dw0, e.dw1]) ++ toBytes 2 v.task.ctx.toNat ++
    [v.task.groups.setWidth 8, (if v.task.rstd then 1 else 0) ||| (if tiles then 2 else 0)] ++ List.replicate 8 0)

/-- A ship record passes its CRC (R406). -/
def shipSound (bs : List Byte) : Bool := bs.drop 508 == toBytes 4 (crc32c (bs.take 508)).toNat

/-- A ship with its record written. -/
def Ship.of (v : Saved) (entry : Option TlbEntry) (tiles : List (TileNo × List Byte)) (va : Word) : Ship :=
  ⟨v, entry, tiles, va, shipRecord v entry !tiles.isEmpty⟩

/-- Take core `c`'s task off with its tiles' contents; its pages there are freed. -/
def State.shipOff (s : State) (c : CoreName) (entry : Option TlbEntry) (va : Word) : Option (Ship × State) :=
  (s.takeOff c).map fun x =>
    (Ship.of x.1 entry (s.tileContents c x.1) va, x.2.modCore c fun k => k.freeTiles x.1.tiles)

/-- Ship core `c`'s task to core `d`; the completion serves `p`. -/
def State.shipTo (s : State) (c d : CoreName) (entry : Option TlbEntry) (va : Word) (p : Purpose) : State :=
  match s.shipOff c entry va with
  | some (h, s) => s.post (coreUnit s c) (coreUnit s d) 16 h.saved.task.ctx false false (.ship h) p
  | none => s

/-- Core `d` can take the task: its resume list has room, and its pages hold the tiles. -/
def State.takesShip (s : State) (d : CoreName) (tiles : List (TileNo × List Byte)) : Bool :=
  decide ((s.getCore d).sched.resume.length < 32) && (s.getCore d).holdsTiles tiles

/-- Core `c`'s task may be taken off for a ship: its counters are zero and its accesses have their points (R111, R405). -/
def Core.drained (k : Core) : Bool :=
  k.quiet && k.ctl.oc.ocl == 0 && k.ctl.oc.ocs == 0 && k.ctl.oc.occ == 0 && k.ctl.oc.ocx == 0 &&
    !(k.ctl.awaits.any fun a => a.sent && a.q != .routine)

/-! ## Starting (R46) -/

/-- The first page of the stack of the task that starts as the `n`-th (R46): the four pages lie in the address space. -/
def stackPage (n : Nat) : Nat := (Config.stackPage n).toNat % (2 ^ 45 - 4)

/-- The address in g1 of that task (R46): even, below 2^57, not 0, and outside the stack, which the task can write. -/
def homeAddr (n : Nat) : Word :=
  let a : Word := (Config.residentRoutine n).setWidth 64 <<< 2
  let fits (a : Word) : Bool := a != 0 && !decide (stackPage n ≤ a.toNat / 4096 ∧ a.toNat / 4096 < stackPage n + 4)
  if fits a then a else if fits 0x1000 then 0x1000 else 0x8000

/-- The scratch pages of a new task (R46, R189): 16 KiB of stack, and the two pages of the save frame, which no address names. -/
def stackPages (n : Nat) : List ScratchPage :=
  (List.range 4).map (fun i => ⟨some (stackPage n + i), taskFrame n i, none⟩) ++
    (List.range 2).map fun i => ⟨none, taskFrame n (4 + i), none⟩

/-- A new task from a record (R46, R225). -/
def newTask (n : Nat) (d : Slot) (m : Option Member) : Task :=
  { id := n, record := d.record, ctx := d.ctx, cid := recCid d.record, rstd := d.rstd, team := m, fetcher := ⟨0, 0, 0, 0⟩,
    groups := 1, windows := [], scratch := stackPages n, frame := taskFrame n 4,
    stackBase := BitVec.ofNat 64 (stackPage n * 4096), home := homeAddr n,
    pend := [], errs := [], started := n, unseen := [] }

/-- The general registers at entry (R46). -/
def entryRegs (t : Task) : Vector Word 32 := Vector.ofFn fun i =>
  match i.val with
  | 1 => t.home
  | 2 => t.stackBase + 16384
  | 3 => recArg t.record 0
  | 4 => recArg t.record 1
  | 5 => recArg t.record 2
  | 6 => recArg t.record 3
  | _ => 0

/-- `kstatus` at entry: NS from the record, IE = 1, PM of the context (R46); SIE and SPP keep their values. -/
def entryStatus (old : Word) (t : Task) (pm : Nat) : Word :=
  setBit (setBits (setBit (old &&& 0x600#64) 3 true) 4 (BitVec.ofNat 2 pm)) 2 (bit (recFlags t.record) 12)

/-- `kctx` (R153). -/
def ctxWord (ctx : BitVec 16) (cid : W32) : Word := (cid.setWidth 64 <<< 32) ||| (ctx.setWidth 64 <<< 16)

/-- The core at the first instruction of task `t` (R46, R153, R229). -/
def Core.begin (k : Core) (t : Task) (pm : Nat) : Core :=
  let i3 : W32 := t.team.elim 0 fun m => BitVec.ofNat 32 (m.row * 256 + m.col)
  { k with
    thr := { k.thr with
      g := entryRegs t, pc := recEntry t.record, kstatus := entryStatus k.thr.kstatus t pm
      kvec := if k.ctl.lastCtx = some t.ctx then k.thr.kvec else 0 }
    ctl := { k.ctl with
      idx := #v[bits t.record 64 32, bits t.record 96 32, bits t.record 128 32, i3]
      k := { k.ctl.k with
        kctx := ctxWord t.ctx t.cid, knoise := 0, kmember := 0, kpower := BitVec.ofNat 64 (recPcls t.record) }
      oc := .reset, run := .task, task := some t, lastCtx := some t.ctx }
    vs := .reset, ms := .reset, vec := .reset
    mem := { k.mem with tiles := Vector.replicate 64 0, stash := k.mem.stash.filter fun e => e.2 != .V } }

/-- Start a record's task on core `c` (R46); its weight is admitted (R30), CUSE rises. -/
def State.startOn (s : State) (c : CoreName) (d : Slot) (m : Option Member) : State :=
  let n := s.work.starts
  let t := newTask n d m
  let s := s.modWork fun w => { w with starts := n + 1 }
  let pm := (s.findCtx d.ctx).elim 0 (·.lpm)
  let s := s.modCore c fun k => k.begin t pm
  s.addUse t.ctx t.cid (dieOf c) 1 (weight (recPcls t.record))

end Sys2Proof.Machine
end

