-- ==== Sys2Proof/Machine/Memory.lean ====
section
/-! DEFINITION. The paths of R198: a thread's loads, stores and atomics through scratch, tile pages, stash, and requests to
homes, agents and gateways; the store gate of a hinge pair (R424). -/

namespace Sys2Proof.Machine

/-! ## Routes -/

/-- Where an access to a translated address goes (R198). -/
inductive Route
  | here
  | stash
  | away (u : UnitName)
  deriving DecidableEq, Repr

/-- The core's own tile page serves `pa` at once: its line is not moving or moved (R411), and no shard under rebuild (R325). -/
def State.servesOwn (s : State) (pa : Nat) : Bool := decide (s.moving pa = .serve) && !s.lostAt pa

/-- The route of `pa` (R198). A routine has no stash (R288). What a page of the core's own does not serve at once is a request to the
core's own agent, which answers as any unit does (R325, R411). -/
def State.route (s : State) (pa : Nat) : Route :=
  match s.place pa with
  | .sram c => if c = s.cur ∧ s.servesOwn pa then .here else .away (coreUnit s c)
  | .memory => if s.seq ≠ .routine ∧ (s.core.stashPage (pa / 4096)).isSome then .stash else .away (s.home pa)
  | _ => .away (s.server pa)

/-- The unit of the acting core. -/
def State.unit (s : State) : UnitName := coreUnit s s.cur

/-- The words that `n` bytes at `pa` touch, as word numbers. -/
def wordsOf (pa n : Nat) : List Nat := (List.range ((pa + n + 3) / 4 - pa / 4)).map (pa / 4 + ·)

/-- Consecutive numbers as runs: the first of each, and its length. -/
def runsOf : List Nat → List (Nat × Nat)
  | [] => []
  | w :: l =>
    match runsOf l with
    | [] => [(w, 1)]
    | r :: rs => if r.1 = w + 1 then (w, r.2 + 1) :: rs else (w, 1) :: r :: rs

/-- The part of the bytes `[pa, pa + n)` that lies in the `k` words from word `w`: offset and length. -/
def inWords (pa n w k : Nat) : Nat × Nat :=
  let lo := Nat.max pa (4 * w)
  (lo - pa, Nat.min (pa + n) (4 * (w + k)) - lo)

/-- Words are read one access each (R135): a part of 8 bytes goes as two, so that 8 bytes in one request are one access. -/
def cutEight (p : Nat × Nat) : List (Nat × Nat) := if p.2 = 8 then [(p.1, 4), (p.1 + 4, 4)] else [p]

/-- The parts of a read of `n` bytes at `pa` that need a request, and those that hit in the core or its stash, word by word (R125,
R198): offset and length. `whole`: 8 bytes with one point (R135), which a word not yet owned makes one request. -/
def State.readParts (s : State) (pa n : Nat) (whole : Bool) : List (Nat × Nat) × List (Nat × Nat) :=
  match s.route pa with
  | .here => ([], [(0, n)])
  | .away _ => (if whole then [(0, n)] else cutEight (0, n), [])
  | .stash =>
    let ws := wordsOf pa n
    let near := ws.filter fun w => (s.core.word w).isSome
    let far := ws.filter fun w => (s.core.word w).isNone
    let one := decide (ws.length ≤ 1) || ws.all fun w => s.core.word w == some .O || s.core.word w == some .P
    if whole ∧ !one then ([(0, n)], [])
    else ((runsOf far).flatMap fun r => cutEight (inWords pa n r.1 r.2), (runsOf near).map fun r => inWords pa n r.1 r.2)

/-- A tile page of the core holds an uncorrectable word of the bytes (R200): what a stash holds does not depend on the home's line. -/
def State.badHere (s : State) (pa n : Nat) : Bool := decide (s.route pa = .here) && s.poisoned pa n

/-- The bytes that hit at offset `x.1` of a read at `pa`. -/
def State.nearBytes (s : State) (pa : Nat) (x : Nat × Nat) : List Byte :=
  ((if s.route pa = .stash then s.stashAddr s.cur (pa + x.1) else some (pa + x.1))).elim [] fun a => readBytes s.mem a x.2

/-- Core `c` has an atomic, or the fetch of a word that a store to part of it waits for, on its way for words of the bytes. -/
def State.changing (s : State) (c : CoreName) (pa n : Nat) : Bool :=
  let near (a k : Nat) : Bool := decide (a / 4 * 4 < pa + n ∧ pa < (a + k + 3) / 4 * 4)
  s.fab.outst.any fun o =>
    match o.purpose, o.body with
    | .merge d _ a bs, _ => d == c && near a bs.length
    | .load d _ _, .amo _ a k _ _ => d == c && near a k
    | _, _ => false

/-- Such a request is on its way for bytes in the stash: what follows it in the same words waits (R132, R133, R136). -/
def State.pendingWord (s : State) (pa n : Nat) : Bool := decide (s.route pa = .stash) && s.changing s.cur pa n

/-- Bytes of the store gate over bytes read (R424). -/
def State.overlay (s : State) (pa : Nat) (bs : List Byte) : List Byte :=
  match s.core.pair with
  | some p =>
    if s.seq = .routine then bs
    else (p.gate.flatMap (·.segs)).foldl (fun bs g =>
      (List.range bs.length).map fun i =>
        if g.1 ≤ pa + i ∧ pa + i < g.1 + g.2.length then (g.2[pa + i - g.1]?).getD 0 else (bs[i]?).getD 0) bs
  | none => bs

/-- The bytes that the store gate holds of `n` at `pa`, by offset (R424). -/
def State.gateBytes (s : State) (pa n : Nat) : List (Nat × Byte) :=
  match s.core.pair with
  | some p =>
    if s.seq = .routine then []
    else (List.range n).filterMap fun i =>
      (((p.gate.flatMap (·.segs)).reverse.find? fun g => decide (g.1 ≤ pa + i ∧ pa + i < g.1 + g.2.length)).bind fun g => g.2[pa + i - g.1]?).map fun b => (i, b)
  | none => []

/-- Bytes as doublewords, eight to each. -/
def packWords : Nat → List Byte → List Word
  | 0, _ => []
  | _, [] => []
  | n + 1, bs => BitVec.ofNat 64 (ofBytes (bs.take 8)) :: packWords n (bs.drop 8)

/-- The value of an answer's result as bytes. -/
def Body.bytes : Body → List Byte
  | .value ws => ws.flatMap fun w => toBytes 8 w.toNat
  | .wb _ _ ds => ds.flatMap fun d => toBytes 4 d.toNat
  | _ => []

/-- A read answered with bytes. -/
def valueOf (bs : List Byte) : Body := .value (packWords (bs.length / 8 + 1) bs)

/-! ## Counters -/

/-- The core with counters of sequencer `q` changed (R288: a routine has its own). -/
def Core.modOc (k : Core) (q : Seq) (f : Counters → Counters) : Core :=
  match q with
  | .routine => k.modMsg fun m => m.modBank fun b =>
      let o := f ⟨b.ocl, b.ocs, 0, 0⟩
      { b with ocl := o.ocl, ocs := o.ocs }
  | _ => k.modCtl fun c => { c with oc := f c.oc }

/-- Change the acting sequencer's counters. -/
def State.modOc (s : State) (f : Counters → Counters) : State := { s with core := s.core.modOc s.seq f }

/-- The counters that the acting sequencer sees (R257, R288, R289). -/
def State.counters (s : State) : Counters :=
  match s.seq, s.core.msg.bank with
  | .routine, some b => ⟨b.ocl, b.ocs, 0, 0⟩
  | _, _ => s.core.counters

/-- `ocl` and `ocs` of the acting sequencer. -/
def State.oc (s : State) : Counters := s.counters

/-! ## Asking for bytes -/

/-- The unit that serves a read of `pa` on the acting core's behalf. -/
def State.asked (s : State) (pa : Nat) : UnitName :=
  match s.route pa with
  | .away u => u
  | .stash => s.home pa
  | .here => s.unit

/-- Send a read of `n` bytes (R198): a stash page fetches the line's words (R125), and only the last fill asked for is put into the
page. -/
def State.askLoad (s : State) (pa n : Nat) (p : Purpose) : State :=
  let fill := s.route pa = .stash
  let s := if fill then s.spoilFills s.cur (· == pa / 128) else s
  s.post s.unit (s.asked pa) 1 s.ctx false false (.ld pa n fill) p

/-- Requests may go to every unit that serves the pieces (R275). -/
def State.roomFor (s : State) (pas : List Nat) : Bool := pas.all fun pa => s.canPost s.unit (s.asked pa) 1

/-- A read that the instruction waits for: the bytes if they can be had now; else, if they have all come, the answers, or the
status of one that failed and its address; else the state that has sent the requests and waits. -/
inductive Gather
  | got (bs : List Byte)
  | wait (s : State)
  | failed (status : Byte) (pa : Nat)

/-- Pieces (address, bytes) with the offset of each in all their bytes. -/
def withOffsets : Nat → List (Nat × Nat) → List (Nat × Nat × Nat)
  | _, [] => []
  | off, p :: l => (off, p.1, p.2) :: withOffsets (off + p.2) l

/-- Bytes have come at offset `off`, or, from a poisoned line, ECCU (R200). -/
def Await.note (a : Await) (off : Nat) (bs : List Byte) (bad : Bool) : Await :=
  if bad then { a with status := if a.status = 0 then 0x0A else a.status, fail := if a.status = 0 then off else a.fail }
  else { a with got := a.got ++ [(off, bs)] }

/-- Ask for the pieces from number `i` on, as far as the channels have room; words that need no request are read at once (R200,
R275). -/
def State.gatherFrom (s : State) (a : Await) (i : Nat) : List (Nat × Nat × Nat) → Await × State
  | [] => ({ a with asked := i }, s)
  | p :: l =>
    let parts := s.readParts p.2.1 p.2.2 false
    if s.pendingWord p.2.1 p.2.2 ∨ (!parts.1.isEmpty ∧ s.canPost s.unit (s.asked p.2.1) parts.1.length = false) then ({ a with asked := i }, s)
    else
      let a := parts.2.foldl (fun (a : Await) x => a.note (p.1 + x.1) (s.nearBytes p.2.1 x) (s.badHere (p.2.1 + x.1) x.2)) a
      let t := parts.1.foldl (fun (t : State) x => t.askLoad (p.2.1 + x.1) x.2 (.await s.cur s.seq a.id (p.1 + x.1))) s
      t.gatherFrom { a with left := a.left + parts.1.length - 1, out := a.out + parts.1.length } (i + 1) l

/-- The byte at offset `o` of what has come. -/
def Await.byte (a : Await) (o : Nat) : Byte :=
  ((a.got.find? fun g => decide (g.1 ≤ o ∧ o < g.1 + g.2.length)).bind fun g => g.2[o - g.1]?).getD 0

/-- Read pieces as plain loads and wait for them (R118, R230, R233, R284); `unit`: the instruction holds a unit of `ocl` meanwhile, of
at most 32 (R170, R257). -/
def State.gatherAs (s : State) (unit : Bool) (ps : List (Nat × Nat)) : Gather :=
  let a := s.pendingAnswer.getD ⟨s.fresh, s.seq, s.pc, ps.length, [], 0, false, unit, false, false, 0, 0, 0⟩
  let all := withOffsets 0 ps
  let r := s.gatherFrom a a.asked (all.drop a.asked)
  if r.1.left ≠ 0 ∧ unit ∧ s.pendingAnswer.isNone ∧ s.oc.ocl ≥ 32 then .wait (s.setStall .counter)
  else if r.1.left ≠ 0 then
    .wait (({ r.2 with fresh := r.2.fresh + 1 }.putAwait r.1).setStall .answer)
  else if r.1.status ≠ 0 then
    .failed r.1.status ((all.find? fun p => decide (p.1 ≤ r.1.fail ∧ r.1.fail < p.1 + p.2.2)).elim 0 fun p => p.2.1 + (r.1.fail - p.1))
  else .got (all.flatMap fun p => s.overlay p.2.1 ((List.range p.2.2).map fun i => r.1.byte (p.1 + i)))

/-- The same without a unit of `ocl`. -/
def State.gather (s : State) (ps : List (Nat × Nat)) : Gather := s.gatherAs false ps

/-! ## Loads -/

/-- Issue a load or an atomic of an instruction of `len` bytes, whose value comes later (R195): `ocl` rises and the register is held. The
bytes in `value` are there. -/
def State.addLoad (s : State) (len : Nat) (d : Reg) (va : Word) (pa n left : Nat) (acq : Bool) (value : Word) : State :=
  let id := s.fresh
  let r : LoadRec := ⟨id, s.taskId, s.seq, d, n, va, pa, acq, left, value, 0, s.gateBytes pa n, s.pc, len == 4⟩
  let s := { s with fresh := id + 1 }
  let s := s.modMem fun m => { m with loads := m.loads ++ [r] }
  (s.hold d).modOc fun o => { o with ocl := o.ocl + 1 }

/-- A scalar load of an instruction of `len` bytes (R197, R198): the value now, or the state that has asked for the words that the
core does not hold. A plain 8-byte load is one access for each word (R135). -/
def State.load (s : State) (len : Nat) (d : Reg) (va : Word) (pa n : Nat) (acq : Bool) : Try State :=
  let parts := s.readParts pa n acq
  if s.pendingWord pa n then stall .answer
  else if s.badHere pa n then .error (.error 0x0A (BitVec.ofNat 64 pa))
  else
    let value := parts.2.foldl (fun (v : Word) x => v ||| (BitVec.ofNat 64 (ofBytes (s.nearBytes pa x)) <<< (8 * x.1))) 0
    if parts.1.isEmpty then
      let s := s.setG d (signed (8 * n) (BitVec.ofNat 64 (ofBytes (s.overlay pa (toBytes n value.toNat)))))
      .ok (if acq then s.acquire else s)
    else if s.oc.ocl ≥ 32 then stall .counter
    else if s.canPost s.unit (s.asked pa) parts.1.length = false then stall .space
    else
      let id := s.fresh
      let s := s.addLoad len d va pa n parts.1.length acq value
      .ok (parts.1.foldl (fun s p => s.askLoad (pa + p.1) p.2 (.load s.cur id p.1)) s)

/-! ## Accesses of many words (R257) -/

/-- `n` bytes at a virtual address as the physical segments they occupy, cut at lines, with their offsets; a page boundary may
lie between (R257). -/
def State.segments (s : State) (va : Word) (n : Nat) (need : Need) : Try (List (Nat × Nat × Nat)) := do
  let here (c : Exit) : Exit := match c with
    | .trap t => .trap { t with addr := va }
    | e => e
  let first ← (s.translate va need).mapError here
  let split := 4096 - va.toNat % 4096
  let second ← if n ≤ split then pure 0 else (s.translate (va + BitVec.ofNat 64 split) need).mapError here
  let at_ (i : Nat) : Nat := if i < split then first + i else second + (i - split)
  let starts := (List.range n).filter fun i => i == 0 || at_ i % 128 == 0
  return starts.map fun i => (i, at_ i, Nat.min (n - i) (128 - at_ i % 128))

/-- The checks of R197 for `n` bytes at `va`, aligned to `align`: ALIGN, PGF, RANGE (R199, R257). -/
def State.accessSegs (s : State) (va : Word) (n align : Nat) (need : Need) : Try (List (Nat × Nat × Nat)) := do
  if s.core.mem.loads.any fun l => l.q == s.seq && l.acq then stall .release
  if va.toNat % align ≠ 0 then raise 0x03 va
  let segs ← s.segments va n need
  if segs.any fun g => (s.twins g.2.1).any fun a => s.core.locked a g.2.2 then raise 0x04 va
  return segs

/-- The checks of the plain doubleword accesses that `n` bytes at `va` take, aligned to `align` (R118, R230, R284): each makes its own, and
a cause names its own address (R197, R199). Their words, as pieces. -/
def State.accessDwords (s : State) (va : Word) (n align : Nat) (need : Need) : Try (List (Nat × Nat)) := do
  if va.toNat % align ≠ 0 then raise 0x03 va
  let ps ← (List.range (n / 8)).mapM fun i => s.access (va + BitVec.ofNat 64 (8 * i)) 8 need
  return ps.flatMap fun pa => [(pa, 4), (pa + 4, 4)]

/-! ## Stores -/

/-- The last outstanding registration of core `c` that names word `w`, by its number. -/
def State.registering (s : State) (c : CoreName) (w : Nat) : Option Nat :=
  s.fab.outst.reverse.findSome? fun o =>
    match o.purpose with
    | .reg d id line mask => if o.answer.isNone && d == c && line == w / 32 && bit mask (w % 32) then some id else none
    | _ => none

/-- Note a store that waits for its requests. -/
def State.addStore (s : State) (ids : List Nat) (va : Word) (spans : List (Nat × Nat)) : State :=
  if ids.isEmpty then s
  else
    let r : StoreRec := ⟨ids, s.taskId, s.seq, va, spans, 0, none⟩
    (s.modMem fun m => { m with stores := m.stores ++ [r] }).modOc fun o => { o with ocs := o.ocs + 1 }

/-- The whole of word `w` lies in the bytes. -/
def coversWord (pa n w : Nat) : Bool := decide (pa ≤ 4 * w ∧ 4 * w + 4 ≤ pa + n)

/-- The parts of `bs` at `pa` in runs of words: offset and bytes. -/
def partsOf (pa : Nat) (bs : List Byte) (rs : List (Nat × Nat)) : List (Nat × List Byte) :=
  rs.map fun r => let x := inWords pa bs.length r.1 r.2; (x.1, (bs.drop x.1).take x.2)

/-- The parts of a store that goes away: a plain store of memory is one access per word (R118, R135, R257); `whole`, a line, and what is
not memory go as one, of which nothing is written where it faults (R199). -/
def State.storeParts (s : State) (pa : Nat) (bs : List Byte) (whole : Bool) : List (Nat × List Byte) :=
  if bs.length ≤ 4 ∨ bs.length = 128 ∨ whole ∨ s.place pa ≠ .memory then [(0, bs)]
  else partsOf pa bs ((wordsOf pa bs.length).map (·, 1))

/-- The request that carries a part of a store: more than a doubleword goes with its line (R270). -/
def storeBody (pa : Nat) (bs : List Byte) : Nat × Body :=
  if 8 < bs.length then (3, .stl pa bs) else (2, .st pa bs.length (BitVec.ofNat 64 (ofBytes bs)))

/-- The words of a stored range that the core must register: in V or I (R125). -/
def Core.unowned (k : Core) (pa n : Nat) : List Nat :=
  (wordsOf pa n).filter fun w => k.word w == none || k.word w == some WordState.V
/-- The words of a stored range that are stored to in part and must be fetched first: in I (R125). -/
def Core.partial (k : Core) (pa n : Nat) : List Nat :=
  (wordsOf pa n).filter fun w => (k.word w).isNone && !coversWord pa n w
/-- The registrations under way that cover its words in P. -/
def State.covering (s : State) (c : CoreName) (pa n : Nat) : List Nat :=
  (((wordsOf pa n).filter fun w => (s.getCore c).word w == some WordState.P).filterMap (s.registering c)).eraseDups

/-- The words in O of a store that takes one point for all its words, others of which are not in O (R135). -/
def Core.mixed (k : Core) (pa n : Nat) : List Nat :=
  if (k.unowned pa n).isEmpty then [] else (wordsOf pa n).filter fun w => k.word w == some WordState.O

/-- The requests that a store of bytes within one line sends at most. -/
def State.storeCount (s : State) (pa : Nat) (bs : List Byte) (whole : Bool) : Nat :=
  match s.route pa with
  | .here => 0
  | .stash =>
    (s.core.partial pa bs.length).length + (if (s.core.unowned pa bs.length).isEmpty then 0 else 1) +
      (if whole && !(s.core.mixed pa bs.length).isEmpty then 1 else 0)
  | .away _ => (s.storeParts pa bs whole).length

/-- Whether a store of bytes within one line can be made now. `n` requests are to be sent in all. -/
def State.segCheck (s : State) (pa : Nat) (bs : List Byte) (whole : Bool) (n : Nat) : Try Unit :=
  match s.route pa with
  | .here => .ok ()
  | .stash =>
    let none_ := (s.core.unowned pa bs.length).isEmpty
    if s.pendingWord pa bs.length ∨ (whole ∧ (wordsOf pa bs.length).any fun w => s.core.word w == some .P) then stall .answer
    else if s.oc.ocs ≥ 32 ∧ !(none_ && (s.covering s.cur pa bs.length).isEmpty) then stall .counter
    else if !none_ ∧ s.canPost s.unit (s.home pa) n = false then stall .space
    else .ok ()
  | .away u =>
    if s.oc.ocs ≥ 32 then stall .counter
    else if s.canPost s.unit u n = false then stall .space
    else .ok ()

/-- The flit of a request that has not left its source (R198, R278). -/
def Flit.queued (f : Flit) (o : Outst) : Bool :=
  decide (f.kind = .request ∧ f.src = o.src ∧ f.dst = o.dst ∧ f.epoch = o.epoch ∧ f.seq = o.seq) && !f.rtx && f.via.isNone && f.age == 0

/-- A registration of the line by core `c` that still waits in its dispatcher's send queue (R198), with its number: its flit has not left
the core, or it is held at a fence. -/
def State.queuedReg (s : State) (c : CoreName) (line : Nat) : Option (Outst × Nat) :=
  s.fab.outst.findSome? fun o =>
    match o.purpose with
    | .reg d id l _ =>
      if d == c && l == line && o.answer.isNone && !o.noticed && (o.fence || s.fab.flits.any (·.queued o)) then some (o, id) else none
    | _ => none

/-- A registration with more words. -/
def Body.widen (mask sub : W32) : Body → Body
  | .reg line m n => .reg line (m ||| mask) (n ||| sub)
  | b => b

/-- Add words to a registration that waits in the send queue (R198). -/
def State.widenReg (s : State) (o : Outst) (mask sub : W32) : State :=
  s.modFab fun b => { b with
    outst := b.outst.map fun x =>
      if x = o then { x with body := x.body.widen mask sub, purpose := match x.purpose with
        | .reg c id l m => .reg c id l (m ||| mask)
        | p => p }
      else x
    flits := b.flits.map fun f => if f.queued o then { f with body := f.body.widen mask sub }.seal else f }

/-- Make a store of bytes within one line in core `c`'s stash, where every word stored to in part is held: words in V or I go to P and are
registered (R125); the registrations it waits for. -/
def State.storeHeld (s : State) (c : CoreName) (ctx : BitVec 16) (pa : Nat) (bs : List Byte) : State × List Nat :=
  let n := bs.length
  let line := pa / 128
  let new := (s.getCore c).unowned pa n
  let old := s.covering c pa n
  let s := (s.stashAddr c pa).elim s fun a => { s with mem := writeBytes s.mem a bs }
  let s := s.modCore c (·.setWords new (some .P))
  let mask := maskOf new
  let sub := maskOf (new.filter fun w => !coversWord pa n w)
  if new.isEmpty then (s, old)
  else
    match s.queuedReg c line with
    | some x => (s.widenReg x.1 mask sub, (x.2 :: old).eraseDups)
    | none =>
      let id := s.fresh
      let s := { s with fresh := id + 1 }
      (s.post (coreUnit s c) (s.home pa) 5 ctx false false (.reg line mask sub) (.reg c id line mask), id :: old)

/-- Do a list of parts in turn, each with the requests it waits for. -/
def State.each {α : Type} (s : State) (l : List α) (f : State → α → State × List Nat) : State × List Nat :=
  l.foldl (fun (x : State × List Nat) a => let y := f x.1 a; (y.1, x.2 ++ y.2)) (s, [])

/-- Fetch a word that a store to part of it waits for (R125); the request. -/
def State.fetchWord (s : State) (pa : Nat) (bs : List Byte) : State × List Nat :=
  let id := s.fresh
  let s := { s with fresh := id + 1 }
  (s.post s.unit (s.home pa) 1 s.ctx false false (.ld (pa / 4 * 4) 4 false) (.merge s.cur id pa bs), [id])

/-- Send a part of a store; the request. -/
def State.sendStore (s : State) (u : UnitName) (pa : Nat) (bs : List Byte) : State × List Nat :=
  let id := s.fresh
  let b := storeBody pa bs
  ({ s with fresh := id + 1 }.post s.unit u b.1 s.ctx false false b.2 (.store s.cur id), [id])

/-- Write words in O back, so that they are registered again with others of a store that takes one point (R135). -/
def State.unmix (s : State) (line : Nat) (ws : List Nat) : State :=
  if ws.isEmpty then s
  else
    let s := s.post s.unit (s.home (128 * line)) 7 s.ctx false false (.wb line (maskOf ws) (ws.map (s.stashValue s.cur))) .none
    { s with core := s.core.setWords ws (some .V) }

/-- Make a store of bytes within one line on the path of R198: words held or stored to whole are stored at once, the others are fetched
first (R125); the requests it waits for. `whole`: one point for all its words (R135), which are then owned already, or registered
together. -/
def State.segDo (s : State) (pa : Nat) (bs : List Byte) (whole : Bool) : State × List Nat :=
  match s.route pa with
  | .here => ({ s with mem := writeBytes s.mem pa bs }, [])
  | .stash =>
    let part := s.core.partial pa bs.length
    let rest := (wordsOf pa bs.length).filter fun w => !part.contains w
    let s := if whole then s.unmix (pa / 128) (s.core.mixed pa bs.length) else s
    let x := s.each (partsOf pa bs (runsOf rest)) fun s p => s.storeHeld s.cur s.ctx (pa + p.1) p.2
    let y := x.1.each (partsOf pa bs (part.map (·, 1))) fun s p => s.fetchWord (pa + p.1) p.2
    (y.1, x.2 ++ y.2)
  | .away u => s.each (s.storeParts pa bs whole) fun s p => s.sendStore u (pa + p.1) p.2

/-- Every segment can be stored now. -/
def State.segsCheck (s : State) (whole : Bool) (n : Nat) (segs : List (Nat × List Byte)) : Try Unit :=
  segs.forM fun g => s.segCheck g.1 g.2 whole n

/-- A store of segments, each within one line, on the path of R198, as one store of R195. -/
def State.storePath (s : State) (va : Word) (segs : List (Nat × List Byte)) (whole : Bool) : Try State := do
  s.segsCheck whole (segs.map fun g => s.storeCount g.1 g.2 whole).sum segs
  let r := s.each segs fun s g => s.segDo g.1 g.2 whole
  return r.1.addStore r.2.eraseDups va (segs.map fun g => (g.1, g.2.length))

/-- The address and bytes of a store (R423). -/
def storeWords (va : Word) (segs : List (Nat × List Byte)) : List Word :=
  va :: segs.flatMap fun e => BitVec.ofNat 64 e.1 :: e.2.map (·.setWidth 64)

/-- A store of an instruction of `len` bytes (R198); the leader of a hinge pair puts it into the store gate (R424), but for one that has
forced an exchange, which performs (R425). -/
def State.store (s : State) (len : Nat) (va : Word) (segs : List (Nat × List Byte)) (whole : Bool) : Try State :=
  match s.core.pair with
  | some p =>
    if s.seq = .routine then s.storePath va segs whole
    else if p.forces s.pc then do
      let t ← s.storePath va segs whole
      return t.foldAccess (storeWords va segs)
    else if p.gate.length ≥ 128 then stall (.force len)
    else .ok (State.foldAccess { s with
        fresh := s.fresh + 1
        core := { s.core with pair := some { p with gate := p.gate ++ [⟨s.fresh, va, segs, whole⟩] } } } (storeWords va segs))
  | none => s.storePath va segs whole

/-! ## Atomics (R203) -/

/-- What an atomic writes: `old`, operand `y` and the expected value of `cas`, as n-byte numbers; none for no write. -/
def amoNew (op : AmoOp) (n : Nat) (old y cmp : Word) : Option Word :=
  let lt : Bool := (signed (8 * n) old).slt (signed (8 * n) y)
  match op with
  | .swap => some y
  | .cas => if old.setWidth (8 * n) = cmp.setWidth (8 * n) then some y else none
  | .add => some (old + y)
  | .and => some (old &&& y)
  | .or => some (old ||| y)
  | .xor => some (old ^^^ y)
  | .min => some (if lt then old else y)
  | .max => some (if lt then y else old)
  | .fadd => some ((fadd32 (old.setWidth 32) (y.setWidth 32)).setWidth 64)

/-- Every word of the bytes is held in state O. -/
def State.ownsAll (s : State) (pa n : Nat) : Bool := (wordsOf pa n).all fun w => s.core.word w == some .O

/-- An earlier store of the sequencer to a byte of the range has no point yet (R136). -/
def State.storing (s : State) (pa n : Nat) : Bool :=
  s.core.mem.stores.any fun r => r.spans.any fun p => decide (p.1 < pa + n ∧ pa < p.1 + p.2)

/-- An atomic done in the core on the bytes at `a` (R136). -/
def State.amoHere (s : State) (op : AmoOp) (d : Reg) (a n : Nat) (y cmp : Word) : State :=
  let old := BitVec.ofNat 64 (readNat s.mem a n)
  let s := match amoNew op n old y cmp with
    | some x => { s with mem := writeNat s.mem a n x.toNat }
    | none => s
  s.setG d (signed (8 * n) old)

/-- Send an atomic to the unit that performs it, once earlier stores to its bytes have their points (R136). -/
def State.sendAmo (s : State) (u : UnitName) (op : AmoOp) (d : Reg) (va : Word) (pa n : Nat) (y cmp : Word) (acq : Bool) :
    Try State :=
  if s.storing pa n then stall .answer
  else if s.oc.ocl ≥ 32 then stall .counter
  else if s.canPost s.unit u 1 = false then stall .space
  else
    let id := s.fresh
    let s := s.addLoad 4 d va pa n 1 acq 0
    .ok (s.post s.unit u 4 s.ctx false false (.amo op pa n y cmp) (.load s.cur id 0))

/-- An atomic (R136, R203): in the core where it owns every word, else at the home, agent or gateway; fills of its line that are on
their way are older than it. -/
def State.amo (s : State) (op : AmoOp) (d : Reg) (va : Word) (pa n : Nat) (y cmp : Word) (acq : Bool) : Try State :=
  let near (a : Nat) : Try State :=
    if s.badHere pa n then .error (.error 0x0A (BitVec.ofNat 64 pa))
    else .ok (if acq then (s.amoHere op d a n y cmp).acquire else s.amoHere op d a n y cmp)
  match s.route pa with
  | .here => near pa
  | .stash =>
    if s.pendingWord pa n then stall .answer
    else if s.ownsAll pa n then near ((s.stashAddr s.cur pa).getD pa)
    else (s.spoilFills s.cur (· == pa / 128)).sendAmo (s.home pa) op d va pa n y cmp acq
  | .away u => if s.place pa = .host then raise 0x05 va else s.sendAmo u op d va pa n y cmp acq

/-! ## What a completion brings (R199, R200, R496) -/

/-- The cause is a detected error (R67). -/
def isDetected (st : Byte) : Bool := st == 0x09 || st == 0x0A || st == 0x0B || st == 0x0F || st == 0x14 || st == 0x15

/-- Change the task of that name wherever a core holds it. -/
def Core.modTaskNamed (k : Core) (id : Nat) (f : Task → Task) : Core :=
  (k.modCtl fun c => { c with task := c.task.map fun t => if t.id = id then f t else t }).modSched fun h =>
    { h with resume := h.resume.map fun r => { r with saved := r.saved.modTask id f } }

/-- Change the task of that name wherever it is. -/
def State.modTaskNamed (s : State) (id : Nat) (f : Task → Task) : State :=
  let g (k : Core) : Core := k.modCtl fun c => { c with task := c.task.map fun t => if t.id = id then f t else t }
  let s := { s with core := g s.core, cores := s.cores.map fun (e : CoreName × Core) => (e.1, g e.2) }
  s.modSaved fun v => v.modTask id f

/-- A pending list of at most 96 faults, with one more (R496). -/
def pended (l : List (Word × Word)) (cause addr : Word) : List (Word × Word) := if l.length < 96 then l ++ [(cause, addr)] else l

/-- A completion that did not succeed (R199, R200, R290, R496), with `kcause` = `cause` and `kaddr` = `addr`: a program fault waits in
the pending list of the task or routine that issued, in its frame too while the task is out (R189); a detected error becomes due, with
`kepc` where it is precise. A routine that has ended hears nothing. -/
def State.notifyAs (s : State) (c : CoreName) (q : Seq) (task : Nat) (st : Byte) (cause addr : Word) (epc : Option Word) : State :=
  if st = 0 then s
  else if q = .routine then
    if (s.getCore c).msg.bank.isNone then s
    else if isDetected st then s.within c .routine fun s => s.takeError cause addr epc
    else s.modCore c fun k => k.modMsg fun m => m.modBank fun b => { b with pend := pended b.pend cause addr }
  else if isDetected st then s.modTaskNamed task fun t => { t with errs := t.errs ++ [(cause, addr, epc)] }
  else (s.modTaskNamed task fun t => { t with pend := pended t.pend cause addr }).reframe task

/-- The same for what is not precise: SEQ is 0b11 (R152). -/
def State.notify (s : State) (c : CoreName) (q : Seq) (task : Nat) (st : Byte) (addr : Word) : State :=
  s.notifyAs c q task st (causeWord st 0 3 false false) addr none

/-- `kaddr` of an access that failed: the global address for ECCU, else the virtual address (R179). -/
def faultAddr (st : Byte) (va : Word) (pa : Nat) : Word := if st = 0x0A then BitVec.ofNat 64 pa else va

/-- A read of `pa` by core `c` finds its uncorrectable word in the core's stash or tile pages, or at its home: ECCU is precise (R200). -/
def State.nearby (s : State) (c : CoreName) (pa : Nat) : Bool := decide (s.place pa = .memory) || decide (s.place pa = .sram c)

/-- The same for an instruction that waits: its accesses have failed, and it goes on (R199), or ECCU is precise (R200). -/
def State.refused (s : State) (st : Byte) (va : Word) (pa : Nat) : Try State :=
  if st = 0x0A ∧ s.nearby s.cur pa then .error (.error st (BitVec.ofNat 64 pa))
  else .ok (s.notify s.cur s.seq s.taskId st (faultAddr st va pa))

end Sys2Proof.Machine
end

