-- ==== Sys2Proof/Machine/Gate.lean ====
section
/-! DEFINITION. The store gate of a hinge pair and its exchanges (R423 to R427, R432). -/

namespace Sys2Proof.Machine

/-- Change the pair that core `c` leads. -/
def State.modPair (s : State) (c : CoreName) (f : Pair → Pair) : State := s.modCore c fun k => { k with pair := k.pair.map f }

/-- The instruction at the core's pc that waits for an exchange, by its address and the one after it (R424). -/
def Core.forcing (k : Core) : Option (Word × Word) :=
  k.ctl.stalls.findSome? fun e =>
    match e with
    | (.control, .force n) => some (k.thr.pc, k.thr.pc + BitVec.ofNat 64 n)
    | _ => none

/-- The stores of core `c` from the `n`-th on have come from its gate, where they were `g`. -/
def State.fromGate (s : State) (c : CoreName) (n : Nat) (g : Gated) : State :=
  s.modCore c fun k => k.modMem fun m => { m with
    stores := m.stores.take n ++ (m.stores.drop n).map fun (r : StoreRec) => { r with gated := some g.id } }

/-- Release gated entries of core `c` in program order, each on the path of R198, as far as they go (R425). -/
def drainGate (c : CoreName) : Nat → State → State
  | 0, s => s
  | n + 1, s =>
    match (s.getCore c).pair with
    | none => s
    | some p =>
      match p.gate with
      | [] => s.modPair c fun p => { p with draining := false, passed := some (s.getCore c).thr.pc, force := (s.getCore c).forcing }
      | g :: rest =>
        match (s.focus c .control).storePath g.va g.segs g.whole with
        | .ok t => drainGate c n (((t.fromGate c (s.getCore c).mem.stores.length g).modPair c fun p => { p with gate := rest }).focus s.cur s.seq)
        | .error _ => s

/-- One step of an exchange of the pair that core `c` leads (R423, R425, R426): the fingerprints are compared, or an agreement
goes on to release the gate. One that has agreed where another falls due serves both (R432). -/
def State.exchange (s : State) (c : CoreName) : State :=
  let k := s.getCore c
  match k.pair with
  | none => s
  | some p =>
    if p.draining then drainGate c 130 s
    else if p.passed = some k.thr.pc then s.modPair c fun p => { p with force := k.forcing }
    else if k.mem.loads.any fun l => l.q == .control then s
    else if p.fp = p.fpPartner then
      drainGate c 130 (s.modPair c fun p => { p with
        fp := 0, fpPartner := 0, count := 0, agreedAt := k.pairRegs, agreed := p.agreed + 1, retry := false, passed := none, force := none
        draining := true, late := none })
    else s.disagree c

/-- A pair is to dissolve (R432): an exchange first, then the checker returns to its scheduler. -/
def State.dissolve (s : State) (c : CoreName) : State :=
  match (s.getCore c).pair with
  | none => s
  | some p => if p.count = 0 ∧ p.gate.isEmpty ∧ p.draining = false then s.releaseChecker c else s.exchange c

end Sys2Proof.Machine
end

