-- ==== Sys2Proof/Machine/System.lean ====
section
/-! DEFINITION. System instructions (R154 to R175): control registers, traps, `halt`, `wait`, streams, the prefix. -/

namespace Sys2Proof.Machine

/-! ## Control registers (R154) -/

/-- `kstatus` as the acting sequencer reads it. -/
def State.kstatus (s : State) : Word := if s.seq = .routine then s.thr.kstatus else s.core.kstatus s.seq

/-- The value that `krd` reads of register `k`, none where the number names no register (R117, R154, R289). -/
def State.controlReg (s : State) (k : BitVec 8) : Option Word :=
  let t := s.thr
  let r := s.core.ctl.k
  let o := s.counters
  let h := s.core.ctl.oc
  match k.toNat with
  | 0x00 => some s.kstatus
  | 0x01 => some t.kcause
  | 0x02 => some t.kaddr
  | 0x03 => some t.kepc
  | 0x04 => some t.kvec
  | 0x05 => some (ctxWord s.ctx s.cid)
  | 0x06 => some ((coreGroups s.cur).setWidth 64)
  | 0x07 => some 0
  | 0x08 => some r.kcnt
  | 0x09 => some r.ksent
  | 0x0A => some r.krecv
  | 0x0B => some t.kpfx
  | 0x0C => some r.knoise
  | 0x0D => some r.kmember
  | 0x0E => some r.kchk
  | 0x0F => some r.kpower
  | 0x10 => some (BitVec.ofNat 64 o.ocl)
  | 0x11 => some (BitVec.ofNat 64 o.ocs)
  | 0x12 => some (BitVec.ofNat 64 h.occ)
  | 0x13 => some (BitVec.ofNat 64 h.ocx)
  | 0x40 => some (s.core.ctl.idx[0].setWidth 64)
  | 0x41 => some (s.core.ctl.idx[1].setWidth 64)
  | 0x42 => some (s.core.ctl.idx[2].setWidth 64)
  | 0x43 => some (s.core.ctl.idx[3].setWidth 64)
  | _ => none

/-- Change the control registers outside the thread's. -/
def State.modK (s : State) (f : KRegs → KRegs) : State := s.modCtl fun c => { c with k := f c.k }

/-- `kwr` of the registers that a class routine has in its own bank (R289). -/
def State.writeThread (s : State) (k : BitVec 8) (x : Word) : Option State :=
  match k.toNat with
  | 0x00 => some (s.modThr fun t => { t with kstatus := kstatusWrite t.kstatus x })
  | 0x01 => some (s.modThr fun t => { t with kcause := x &&& kcauseMask })
  | 0x02 => some (s.modThr fun t => { t with kaddr := x })
  | 0x03 => some (s.modThr fun t => { t with kepc := x })
  | 0x04 => some (s.modThr fun t => { t with kvec := x &&& ~~~1#64 })
  | 0x0B => some (s.modThr fun t => { t with kpfx := x &&& kpfxMask })
  | _ => none

/-- `kwr` (R154): ILL where the register cannot be written, PRIV above the privilege. -/
def State.writeControl (s : State) (k : BitVec 8) (x : Word) : Try State :=
  match s.writeThread k x with
  | some t => .ok t
  | none =>
    if s.seq = .routine then illegal s
    else
      match k.toNat with
      | 0x08 => if s.pm = 2 then .ok (s.modK fun r => { r with kcnt := x }) else denied s
      | 0x09 => if s.pm = 2 then .ok (s.modK fun r => { r with ksent := x }) else denied s
      | 0x0A => if s.pm = 2 then .ok (s.modK fun r => { r with krecv := x }) else denied s
      | 0x0C => if s.core.ms.opened then illegal s else if s.pm ≠ 0 then .ok (s.modK fun r => { r with knoise := x }) else denied s
      | 0x0D => if s.core.ms.opened then illegal s else if s.pm ≠ 0 then .ok (s.modK fun r => { r with kmember := x &&& 0xFFFF#64 }) else denied s
      | 0x0E => .ok (s.modK fun r => { r with kchk := x })
      | 0x40 => .ok (s.modCtl fun c => { c with idx := c.idx.set 0 (x.setWidth 32) })
      | 0x41 => .ok (s.modCtl fun c => { c with idx := c.idx.set 1 (x.setWidth 32) })
      | 0x42 => .ok (s.modCtl fun c => { c with idx := c.idx.set 2 (x.setWidth 32) })
      | 0x43 => .ok (s.modCtl fun c => { c with idx := c.idx.set 3 (x.setWidth 32) })
      | _ => illegal s

/-- KRD (R154). -/
def execKrd (d : Reg) (k : BitVec 8) (s : State) : Host.Outcome State Fault Refusal :=
  run .shared s do
    match s.controlReg k with
    | some x =>
      s.dst d
      return (s.setG d x).next 4
    | none => illegal s

/-- KWR (R154): the write, and what follows it, after the instruction has retired and counted (R155, R156). -/
def execKwr (a : Reg) (k : BitVec 8) (s : State) : Host.Outcome State Fault Refusal :=
  run .shared s do
    let x ← s.src a
    let _ ← s.writeControl k x
    (s.next 4).writeControl k x

/-! ## Traps and their return -/

/-- TRAP (R165): SWT, `kepc` names the next instruction. -/
def execTrap (i : BitVec 8) (s : State) : Host.Outcome State Fault Refusal :=
  run .shared s (.error (.trap ⟨0x17, s.pc, i, true, false⟩))

/-- A breakpoint of form `f` (R166). -/
def State.breakpoint (s : State) (f : Form) (i : Byte) : Host.Outcome State Fault Refusal :=
  run f s (.error (.trap ⟨0x12, s.pc, i, false, false⟩))

/-- EBRK (R166). -/
def execEbrk (i : BitVec 8) (s : State) : Host.Outcome State Fault Refusal := s.breakpoint .shared i
/-- EBRK_16 (R108, R166). -/
def execEbrk16 (s : State) : Host.Outcome State Fault Refusal := s.breakpoint { Form.shared with len := 2 } 0

/-- KRET (R168): it retires, then the thread returns. -/
def execKret (s : State) : Host.Outcome State Fault Refusal := run .shared s (.ok s.retire.trapReturn)

/-! ## Ending and waiting -/

/-- The cause byte of a task that ends by `halt`, or by `retire` in its handler (R167, R232). -/
def State.haltCode (s : State) : Byte :=
  let code := bits s.thr.kcause 0 8
  if s.tt ∧ code ≠ 0 then code else 0x17

/-- The task ends as a program fault of its chamber (R68). -/
def State.endByHalt (s : State) : State := s.failChamber s.ctx s.cid s.haltCode (s.who s.cur s.seq)

/-- HALT (R167). -/
def execHalt (s : State) : Host.Outcome State Fault Refusal :=
  run { Form.control with exchange := decide (s.pm = 2) } s do
    if s.pm = 2 then
      let s := s.retire
      return ((s.announce (dieOf s.cur) ⟨8, 0, s.cur, s.ctx, s.cid, 0, 0⟩).modCtl fun c => { c with run := .halted })
    else return s.endByHalt

/-- A counter is at or below its limit; 7 places no condition (R113). -/
def withinLimit (n : Nat) (l : BitVec 3) : Bool := l == 7 || decide (n ≤ l.toNat)

/-- WAIT (R169): it retires when every condition holds; a limit on `occ` or `ocx` makes it an acquire (R146). -/
def execWait (l m c x : BitVec 3) (s : State) : Host.Outcome State Fault Refusal :=
  run .shared s do
    let o := s.counters
    waitFor (withinLimit o.ocl l && withinLimit o.ocs m && withinLimit o.occ c && withinLimit o.ocx x) .counter
    return (if c ≠ 7 ∨ x ≠ 7 then s.acquire else s).next 4

/-- NOP (R167). -/
def execNop (s : State) : Host.Outcome State Fault Refusal := run .base s (.ok (s.next 4))
/-- NOP_16 (R108). -/
def execNop16 (s : State) : Host.Outcome State Fault Refusal := run .short s (.ok (s.next 2))

/-! ## Streams (R172 to R175) -/

/-- A descriptor that `fork` refuses: LEN = 0, or the stream is open (R173). -/
def badDescriptor (x : Word) (opened : Bool) : Bool := decide (x ≠ 0) && (bits x 48 16 == 0 || opened)

/-- The stream that a descriptor starts (R173); a descriptor of 0 starts none, and a stream that is open was opened before. -/
def State.forkStream (s : State) (x : Word) (old : Stream) : Stream :=
  if x = 0 then { old with last := false }
  else
    let start := s.pc + (bits x 0 48).signExtend 64
    ⟨true, false, start, start + ((bits x 48 16).setWidth 64 <<< 1), start, false, 0, bit s.thr.kstatus 2, s.thr.g, s.core.ctl.idx, true⟩

/-- FORK (R173): the copies are taken when no register of the control stream waits for a value; status words that nothing has read are
read by it (R146). -/
def execFork (a b : Reg) (s : State) : Host.Outcome State Fault Refusal :=
  run { Form.control with inPair := false } s do
    let x ← s.src a
    let y ← s.src b
    check s (!s.tt && !badDescriptor x s.core.vs.opened && !badDescriptor y s.core.ms.opened)
    s.release
    waitFor (s.core.ctl.holds.all fun h => h.q != .control || h.ready) .answer
    let t := if s.core.ctl.holds.any fun h => h.q == .control then (s.acquire.modCtl fun c => { c with
      holds := c.holds.filter (·.q != .control) }).next 4 else s.next 4
    return { t with core := { t.core with vs := s.forkStream x s.core.vs, ms := s.forkStream y s.core.ms } }

/-- The registers of stream `q` are discarded (R174): status words still to come go nowhere. -/
def Core.discard (k : Core) (q : Seq) : Core :=
  (k.modCtl fun c => { c with holds := c.holds.filter (·.q != q) }).modMem fun m => { m with
    ops := m.ops.map fun o => if o.q = q ∧ k.ctl.task.any (·.id == o.task) then { o with reg := 0 } else o }

/-- The stream that the last `fork` opened is still open (R175). -/
def Stream.joins (v : Stream) : Bool := v.opened && v.last

/-- `rend` of form `f` (R175): a stream ends when its accesses have their points; the control stream waits for those that the last `fork`
opened, and what it does next is ordered after them, as by an acquire (R138). -/
def State.joinStreams (s : State) (f : Form) : Host.Outcome State Fault Refusal :=
  run f s do
    match s.seq with
    | .vector =>
      s.release
      let t := s.settle
      return { t with core := { t.core.discard .vector with vs := .reset } }
    | .matrix =>
      s.release
      let t := s.settle
      return { t with core := { t.core.discard .matrix with ms := .reset } }
    | _ =>
      check s (!s.tt)
      waitFor (!s.core.vs.joins && !s.core.ms.joins) .stream
      return s.acquire.next f.len

/-- REND (R175); a class routine does not accept it (R289). -/
def execRend (s : State) : Host.Outcome State Fault Refusal := s.joinStreams { Form.base with inRoutine := false }
/-- REND_16 (R108). -/
def execRend16 (s : State) : Host.Outcome State Fault Refusal := s.joinStreams { Form.short with inRoutine := false }

/-- The latch of a prefix set (R115). -/
def Core.setPfx (k : Core) (q : Seq) (x : Word) : Core :=
  match q with
  | .vector => { k with vs := { k.vs with pp := true, pfx := x } }
  | .matrix => { k with ms := { k.ms with pp := true, pfx := x } }
  | q => k.modThread q fun t => { t with kstatus := setBit t.kstatus 1 true, kpfx := x }

/-- FMT (R115, R171): PP := 1 and `kpfx` := bits [31:8] of the word; a class routine does not accept it (R289). -/
def execFmt (f g h : BitVec 4) (t u : Reg) (e : BitVec 2) (s : State) : Host.Outcome State Fault Refusal :=
  run { Form.base with inRoutine := false } s do
    let x : Word := (bits (formatP f g h t u e) 8 24).setWidth 64
    let s := s.next 4
    return { s with core := s.core.setPfx s.seq x }

/-! ## Boundaries and stops -/

/-- ISSUE_AFTER_STALL (R26, R27): the stalled sequencer of core `c` tries its instruction again on the next turn. -/
def execIssueAfterStall (c : CoreName) (q : Seq) (s : State) : Host.Outcome State Fault Refusal :=
  if (s.getCore c).ctl.stalls.any fun e => e.1 == q then
    let s := s.modCore c fun k => k.modCtl fun x => { x with stalls := x.stalls.filter (·.1 != q) }
    .next { s with agenda := .core c q :: s.agenda }
  else .next s

/-- The instruction that sequencer `q` is at waits and is not abandoned, or is a vector load under way (R257): the sequencer is at no
boundary. One whose answer the task takes later is interruptible (R231, R284; log 134). -/
def Core.inFlight (k : Core) (q : Seq) : Bool :=
  k.ctl.awaits.any fun a => a.q == q && a.pc == k.pc q && ((a.sent && !a.carried) || a.unit)

/-- The control stream of core `c` is at a boundary where a trap may be taken; a `balloc` that waits is withdrawn for it (R26, R350;
log 143). -/
def State.trapBoundary (s : State) (c : CoreName) : Bool := !((s.withdrawAlloc c).getCore c).inFlight .control

/-- Take the oldest fault of a pending list, when there is one, under sequencer `q` of core `c` (R290, R496). -/
def State.takePending (s : State) (c : CoreName) (q : Seq) : State :=
  s.within c q fun s =>
    match q, s.core.msg.bank, s.core.ctl.task with
    | .routine, some b, _ =>
      match b.pend with
      | p :: rest =>
        if s.tt then s
        else
          let s := { s with core := s.core.modMsg fun m => m.modBank fun b => { b with pend := rest } }
          s.programFault p.1 p.2 s.thr.pc true
      | [] => s
    | .control, _, some t =>
      match t.pend with
      | p :: rest =>
        if s.tt ∨ s.core.ctl.run ≠ .task then s
        else (s.modTask fun t => { t with pend := rest }).programFault p.1 p.2 s.thr.pc true
      | [] => s
    | _, _, _ => s

/-- PENDING_FAULT_TAKE (R496): of the task, unless a detected error is due, which ranks higher (R183); else of the routine of core
`c`. -/
def execPendingFaultTake (c : CoreName) (s : State) : Host.Outcome State Fault Refusal :=
  let k := s.getCore c
  if k.ctl.task.any (fun t => !t.pend.isEmpty) && !(bit k.thr.kstatus 6) && !k.ctl.stopped && s.trapBoundary c then
    if k.ctl.task.any fun t => !t.errs.isEmpty then .next s else .next ((s.withdrawAlloc c).takePending c .control)
  else if k.ctl.stopped || k.ctl.run == .halted || k.inFlight .routine then .next s
  else .next (s.takePending c .routine)

/-- The team that a task belongs to, as (core, gang). -/
def State.teamCores (s : State) (gang : Nat) : List CoreName :=
  s.knownCores.filter fun c => (s.getCore c).ctl.task.any fun t => t.team.any (·.gang == gang)

/-- The cores whose tasks leave together with core `c`'s (R50). -/
def State.leavers (s : State) (c : CoreName) : List CoreName :=
  match (s.getCore c).ctl.task.bind (·.team) with
  | some m => s.teamCores m.gang
  | none => [c]

/-- A core's task has an outstanding `mmat` (R378). -/
def Core.mmatOut (k : Core) : Bool :=
  k.mem.ops.any fun o => match o.kind with
    | .mmat _ _ _ => k.ctl.task.any (·.id == o.task)
    | _ => false

/-- An issued load of the unit has not completed, or an `mmat` has not given up its partial (R379): what else is to be done of that goes on
while its task is out (R64, R378). -/
def Core.matrixBusy (k : Core) : Bool :=
  k.mem.ops.any fun o => k.ctl.task.any (·.id == o.task) && match o.kind with
    | .mmat _ _ _ => o.moves.any (·.st == .todo)
    | .mldb _ => true
    | .mlda _ => true
    | _ => false

/-- A request for the team of core `c` is deferred: it has other members, and one has an `mmat` outstanding (R378). -/
def State.deferred (s : State) (c : CoreName) : Bool :=
  let l := s.leavers c
  decide (l.length > 1) && l.any fun d => (s.getCore d).mmatOut

/-- `kcause` and `kaddr` of an interrupt into the resident handler, with PM, TT and IE as R188 sets them. -/
def Thread.interrupt (t : Thread) (code : Byte) : Thread :=
  { t.leave with kcause := causeWord code 0 0 false false, kaddr := 0 }

/-- PREEMPT of one core (R188): a pair dissolves first (R432); its sequencers stop; once its accesses have their points, and the matrix unit
has done what was issued (R379), the task is saved and enters the resume list. -/
def State.preemptCore (s : State) (c : CoreName) : State :=
  let s := s.withdrawAlloc c
  let k := s.getCore c
  if k.pair.isSome then s.dissolve c
  else if k.inFlight .control || k.inFlight .matrix then s.askPreempt c
  else if k.quiet && !k.matrixBusy then
    let s := if k.ctl.due.command then s.modMgmt fun m => { m with answered := m.answered ++ [c] } else s
    (s.intoResume c false).modCore c fun k => { k with thr := k.thr.interrupt 0x13 }
  else s.modCore c fun k => k.modCtl fun x => { x with run := .leaving }

/-- An event that ranks above PREEMPT is due on the core's control stream (R183), or it is in the double-trap sequence (R187). -/
def Core.urgent (k : Core) : Bool :=
  k.thr.inDoubleTrap || k.msg.bank.any (·.thr.inDoubleTrap) || k.ctl.task.any fun t => !t.errs.isEmpty || (!t.pend.isEmpty && !(bit k.thr.kstatus 6))

/-- A PREEMPT due on core `c` may be taken: at a boundary while IE = 1 or the bound of R184 has passed, with room in the resume
lists of the whole team (R216), unless an `mmat` of the team defers it (R378) or an event of higher rank is due (R183). -/
def State.mayPreempt (s : State) (c : CoreName) : Bool :=
  let k := s.getCore c
  let allowed := (k.ctl.run = .leaving ∧ k.ctl.stopped = false) ∨
    (k.ctl.run = .task ∧ k.ctl.stopped = false ∧ k.ctl.due.preempt ∧ (bit k.thr.kstatus 3 ∨ k.ctl.due.preemptForced) ∧
      (s.leavers c).all fun d => !(s.getCore d).urgent)
  decide allowed && (s.leavers c).all (fun d => decide ((s.getCore d).sched.resume.length < 32)) && !s.deferred c

/-- PREEMPT (R188): taken by the task of core `c`, and every member of its team (R50), at a boundary while IE = 1 or the
bound of R184 has passed; a `yield`, and a ship that waited (R378), go on. -/
def execPreempt (c : CoreName) (s : State) : Host.Outcome State Fault Refusal :=
  let k := s.getCore c
  if s.mayPreempt c then .next ((s.leavers c).foldl State.preemptCore s)
  else if s.deferred c then .next s
  else
    match k.ctl.leave with
    | some l =>
      let t := s.withdrawAlloc c
      if k.ctl.run = .task ∧ k.ctl.stopped = false ∧ (t.getCore c).drained ∧ s.canPost (coreUnit s c) (coreUnit s l.dest) 1 then
        .next (t.shipTo c l.dest l.entry l.va .none)
      else .next s
    | none => .next s

/-- The oldest request that still waits for IE no longer does (R184). -/
def Due.expire (d : Due) : Due :=
  let preempt := d.preempt && !d.preemptForced
  if d.brk ∧ d.brkForced = false ∧ (d.brkFirst ∨ preempt = false) then { d with brkForced := true }
  else if preempt then { d with preemptForced := true }
  else d

/-- INTERRUPT_WAIT_EXPIRY (R184): 65,536 cycles have passed since the oldest request on core `c` that waits for IE. -/
def execInterruptWaitExpiry (c : CoreName) (s : State) : Host.Outcome State Fault Refusal :=
  .next (s.modCore c fun k => k.modCtl fun x => { x with due := x.due.expire })

/-- An exchange of the pair that the core leads is going on, or about to (R432). -/
def Core.exchanging (k : Core) : Bool :=
  k.pair.any fun p => p.draining || decide (4096 ≤ p.count) || !p.forces k.thr.pc &&
    k.ctl.stalls.any fun e => match e with
      | (.control, .force _) => true
      | _ => false

/-- A break request due on core `c` may be taken (R183, R184, R378): nothing of higher rank is due, and no exchange (R432). -/
def State.mayBreak (s : State) (c : CoreName) : Bool :=
  let k := s.getCore c
  !k.exchanging &&
  decide (k.ctl.run = .task) && !k.ctl.stopped && k.ctl.due.brk && (bit k.thr.kstatus 3 || k.ctl.due.brkForced) &&
    s.trapBoundary c && !k.inFlight .matrix && !k.urgent && !s.mayPreempt c && !s.deferred c

/-- DEBUGGER_BREAK_REQUEST (R180, R183, R184): it becomes due, for every member of a team (R378); once due it is taken at a
boundary while IE = 1 or the bound has passed, and no `mmat` of the team is outstanding, with `kaddr` 0. -/
def execDebuggerBreakRequest (c : CoreName) (s : State) : Host.Outcome State Fault Refusal :=
  let k := s.getCore c
  if k.ctl.run ≠ .task then .next s
  else if k.ctl.due.brk then
    if s.mayBreak c then
      let s := (s.withdrawAlloc c).modCore c fun k => k.modCtl fun x => { x with due := { x.due with brk := false, brkForced := false } }
      .next (s.within c .control fun s => s.takeTrap ⟨0x12, 0, 0, false, false⟩ false)
    else .next s
  else .next ((s.leavers c).foldl (fun (s : State) d => s.modCore d fun k => k.modCtl fun x => { x with due := x.due.askBreak }) s)

/-- SP_PREEMPT_COMMAND (R63, R216): the task of core `c` is to be pre-empted; while the resume list is full the command
waits, and it is answered once the task has been pre-empted. -/
def execSpPreemptCommand (c : CoreName) (s : State) : Host.Outcome State Fault Refusal :=
  if (s.getCore c).ctl.run = .task then
    .next ((s.askPreempt c).modCore c fun k => k.modCtl fun x => { x with due := { x.due with command := true } })
  else .next s

/-! ## Gang stop (R191 to R193) -/

/-- GANG_STOP (R191, R192): the service processors stop partition `p` and give the address of the gang-stop table. -/
def execGangStop (p : StopOrder) (s : State) : Host.Outcome State Fault Refusal :=
  if (s.part p.part).any (·.stopped) then .next s
  else .next ((s.modPart p.part fun q => { q with table := p.table }).gangStop p.part)

/-- The bits of `kstatus` that the device derives: PAIR, VSO and MSO (R151). -/
def kstatusDerived : Word := 0x6180#64

/-- A stopped core continues with the shadow set (R193). -/
def Core.unstop (k : Core) : Core :=
  match k.ctl.shadow with
  | some x =>
    { (k.modCtl fun c => { c with stopped := false, shadow := none }) with
      thr := { k.thr with
        kstatus := x.kstatus &&& ~~~kstatusDerived, kcause := x.kcause, kaddr := x.kaddr, kepc := x.kepc, kpfx := x.kpfx, pc := x.resume } }
  | none => k.modCtl fun c => { c with stopped := false }

/-- Every core of partition `p` that is not on a halted die continues (R193). -/
def State.gangResume (s : State) (p : Nat) : State :=
  match s.part p with
  | none => s
  | some q =>
    if q.stopped then
      let s := (s.partCores p).foldl (fun s c => if q.halted.contains (dieOf c) then s else s.modCore c Core.unstop) s
      s.modPart p fun q => { q with stopped := false, bound := false }
    else s

/-- GANG_RESUME (R193); a boundary's stop ends with the boundary (R470). -/
def execGangResume (p : Nat) (s : State) : Host.Outcome State Fault Refusal :=
  if (s.part p).any (·.bound) then .next s else .next (s.gangResume p)

end Sys2Proof.Machine
end

