-- ==== Sys2Proof/Machine/Boundary.lean ====
section
/-! DEFINITION. What is taken at a boundary before the instruction there (R183, R300), and what may act at all (R441). -/

namespace Sys2Proof.Machine

/-- What a class routine takes before its instruction: the ROM routine of a double trap (R185), NSMIS at its first one (R300), then
the oldest fault of its list (R290). -/
def State.routineBoundary (s : State) : Option State :=
  match s.core.msg.bank with
  | none => none
  | some b =>
    if b.thr.inDoubleTrap then some (s.trapRoutine s.cur .routine)
    else if b.nsmis then
      let s := { s with core := s.core.modMsg fun m => m.modBank fun b => { b with nsmis := false } }
      some (s.takeTrap ⟨0x06, b.src &&& ~~~0x3FF#64, 0, false, false⟩ false)
    else if s.pendDue then some (s.takePending s.cur .routine)
    else none

/-- What the control sequencer takes before its instruction, by rank (R183): a detected error, a program fault brought by a
completion, PREEMPT, a break request; in the double-trap sequence, which no request interrupts, its ROM routine (R185, R187). -/
def State.controlBoundary (s : State) : Option (Host.Outcome State Fault Refusal) :=
  match s.dueError with
  | some t => some (.next t)
  | none =>
    if s.thr.inDoubleTrap then some (.next (s.trapRoutine s.cur .control))
    else if s.pendDue && s.trapBoundary s.cur then some (.next ((s.withdrawAlloc s.cur).takePending s.cur .control))
    else if s.core.ctl.due.preempt && s.mayPreempt s.cur && !(s.withdrawAlloc s.cur).core.inFlight .control then some (execPreempt s.cur s)
    else if s.mayBreak s.cur then some (execDebuggerBreakRequest s.cur s)
    else none

/-- What is due at a boundary of the acting sequencer. -/
def State.boundary (s : State) : Option (Host.Outcome State Fault Refusal) :=
  match s.seq with
  | .control => s.controlBoundary
  | .routine => if s.core.inFlight .routine then none else s.routineBoundary.map .next
  | _ => none

/-- Once the stop latch is set, nothing acts until the package restarts (R441). -/
def State.actsOn (s : State) (i : Instr) : Bool :=
  !s.mgmt.reserve.stop || (match i with
    | .coldReset => true
    | _ => false)

end Sys2Proof.Machine
end

