-- ==== Sys2Proof/Machine/Coherence.lean ====
section
/-! DEFINITION. Requests to homes, agents and gateways, ownership and its return, and the completions of thread accesses
(R127, R130, R136, R141 to R143, R195, R207, R411). -/

namespace Sys2Proof.Machine

/-! ## Requests in a receive queue -/

/-- The line a request is about. -/
def Body.line : Body → Option Nat
  | .ld pa _ _ => some (pa / 128)
  | .st pa _ _ => some (pa / 128)
  | .stl pa _ => some (pa / 128)
  | .amo _ pa _ _ _ => some (pa / 128)
  | .reg line _ _ => some line
  | .rev line _ _ _ _ => some line
  | .wb line _ _ => some line
  | .fwd pa _ => some (pa / 128)
  | .copyd _ _ _ dst _ _ => some (dst / 128)
  | _ => Option.none

/-- A request of a class that its unit takes up when it accepts it and completes later: a copy's, a gather's or scatter's, a partial
and a basin request. Later requests go on meanwhile, but for a later part of the same gather or scatter (R318). -/
def takenUp (e r : Recv) : Bool := [9, 17, 22].contains e.cls.toNat || ([11, 12].contains e.cls.toNat && e.cls != r.cls)

/-- The request waits behind an earlier one of its channel (R276): one not yet looked at, or one that waits. A write-back waits for no
request that waits, since it may be the answer to a revocation (R142, R143). -/
def behind (earlier : List Recv) (r : Recv) : Bool :=
  earlier.any fun e => decide (e.src = r.src ∧ e.dst = r.dst) && (!e.held || (decide (r.cls ≠ 7) && !takenUp e r))

/-- A gang stop has suspended the accesses of core `c`: what completes them waits until it resumes (R140, R191). At a boundary they
complete (R470). -/
def State.suspended (s : State) (c : CoreName) : Bool :=
  (s.getCore c).ctl.stopped && !((s.partOf (dieOf c)).bind s.part).any (·.bound)

/-- A request of a unit of this package by which a core's access is made: its class is one of 1 to 5 and 7 (R270). -/
def State.isAccess (s : State) (src : UnitName) (cls : BitVec 10) : Bool :=
  [1, 2, 3, 4, 5, 7].contains cls.toNat && src.pkg == s.mgmt.domain.pkg && decide (src.die.toNat < 16) && !src.slice

/-- The request is for a line of a region under rebuild (R325). -/
def State.underRebuild (s : State) (r : Recv) : Bool := r.body.line.any fun l => (s.codedAt (128 * l)).any fun x => x.1.lost != 0

/-- A write that stalled for a rebuild is due first: one to the same line, or one that stalled earlier at the same unit (R325). -/
def State.stalledBefore (s : State) (earlier : List Recv) (r : Recv) : Bool :=
  earlier.any fun e => e.stalled && e.dst == r.dst && !s.underRebuild e && (r.stalled || e.body.line == r.body.line)

/-- Request `k` of the receive queues, whole, of one of the classes, not behind another of its channel (R276) or a write that a rebuild
has stalled (R325), and no access of a core whose accesses are suspended (R214). -/
def State.request (s : State) (k : Nat) (classes : List Nat) : Option Recv :=
  (s.fab.rxq[k]?).filter fun r => classes.contains r.cls.toNat && r.left.isEmpty && !behind (s.fab.rxq.take k) r &&
    !(s.isAccess r.src r.cls && s.suspended (unitCore r.src)) && !s.stalledBefore (s.fab.rxq.take k) r

/-- The request waits where it is (R277). -/
def State.keep (s : State) (r : Recv) : State :=
  s.modFab fun f => { f with rxq := f.rxq.map fun x => if x.same r then { x with held := true } else x }

/-- A write waits for a rebuild at its unit (R325). -/
def State.keepLost (s : State) (r : Recv) : State :=
  s.modFab fun f => { f with rxq := f.rxq.map fun x => if x.same r then { x with held := true, stalled := true } else x }

/-- Outstanding request `k`, whose completion has come, of one of the classes (R275). -/
def State.returned (s : State) (k : Nat) (classes : List Nat) : Option (Outst × Byte × Body) :=
  (s.fab.outst[k]?).bind fun o =>
    if classes.contains o.cls.toNat then o.answer.bind fun a =>
      match a.2 with
      | .redir _ => none
      | _ => some (o, a.1, a.2)
    else none

/-- Remove an outstanding request. -/
def State.forget (s : State) (o : Outst) : State :=
  let same (x : Outst) : Bool := decide (x.src = o.src ∧ x.dst = o.dst ∧ x.epoch = o.epoch ∧ x.seq = o.seq)
  s.modFab fun f => { f with outst := f.outst.filter fun x => !same x }

/-! ## Ownership at the home -/

/-- EPOCH and SEQ of the last registration accepted for words of `mask` (R141). -/
def RegEntry.last (e : RegEntry) (mask : W32) : Byte × BitVec 16 :=
  ((e.regs.find? fun r => (r.1 &&& mask) != 0).map (·.2)).getD (0, 0)

/-- A registration of a channel, by EPOCH and SEQ, comes no later than another. -/
def notAfter (a b : Byte × BitVec 16) : Bool :=
  if a.1 = b.1 then decide ((b.2 - a.2).toNat < 2 ^ 15) else decide ((b.1 - a.1).toNat < 128)

/-- Ask an owner for the words of `mask` that its entry holds, if no revocation of the entry is outstanding (R141); the host
gets a back-invalidation (R484). -/
def State.revoke (s : State) (e : RegEntry) (mask : W32) (data : Bool) : State :=
  let m := e.mask &&& mask
  if e.rev ∨ m = 0 then s
  else
    let mark (s : State) : State := s.modHomes fun h => { h with registry := h.registry.map fun x =>
      if x.owner = e.owner ∧ x.line = e.line then { x with rev := true } else x }
    if e.owner.die = 31 then (mark s).modHomes fun h => { h with snoops := h.snoops ++ [(e.line, m)] }
    else
      let u := s.home (128 * e.line)
      if s.canPost u e.owner 1 then
        let r := e.last m
        (mark s).post u e.owner 6 0 false false (.rev e.line m data r.1 r.2) (.rev e.line m e.owner)
      else s

/-- The entries of a line that hold words of `mask`. -/
def State.ownersOf (s : State) (line : Nat) (mask : W32) : List RegEntry :=
  s.homes.registry.filter fun e => e.line == line && (e.mask &&& mask) != 0

/-- Take back words of a line before they are written: none when nobody owns them, else the state that waits (R136, R141). `whole`: the
words written whole, whose values a single owner is not asked for. -/
def State.reclaim (s : State) (line : Nat) (mask whole : W32) : Option State :=
  match s.ownersOf line mask with
  | [] => none
  | [e] => some (s.revoke e mask ((e.mask &&& mask &&& ~~~whole) != 0))
  | es => some (es.foldl (fun s e => s.revoke e mask true) s)

/-! ## Loads at a home, agent or gateway (R127, R131, R143, R198) -/

/-- What an agent or a gateway says of an access of `n` bytes: the status, 0 where it performs it (R36, R127). -/
def State.agentStatus (s : State) (pa n : Nat) : Byte :=
  match s.place pa with
  | .sram c =>
    if ((s.getCore c).mem.pages.get (pageOf pa)).role ≠ .tile then 0x05
    else if (s.getCore c).locked pa n then 0x04
    else 0
  | .hole => 0x05
  | _ => 0

/-- The words of a line that nobody owns, with their values, for a fill (R125). -/
def State.fillWords (s : State) (line : Nat) (need : W32) : W32 × List W32 :=
  let ws := (List.range 32).filter fun i => bit need i || s.homes.registry.all fun e => !(e.line == line && bit e.mask i)
  (maskOf ws, ws.map fun i => BitVec.ofNat 32 (ofBytes (s.servedBytes (128 * line + 4 * i) 4)))

/-- Whether a load has been forwarded and not answered. -/
def State.forwarded (s : State) (r : Recv) : Bool :=
  s.fab.outst.any fun o => o.purpose == .fwd r.src r.dst r.epoch r.seq

/-- A load at the home of its line (R131, R143): unowned words are read there, words of one owner are read by forwarding. Eight bytes with
one point (R135) whose words are not all one owner's are taken back first. -/
def State.loadHome (s : State) (r : Recv) (pa n : Nat) (fill : Bool) : State :=
  let need := wordMask pa n
  let line := pa / 128
  let es := s.ownersOf line need
  if s.unreadable pa n ∧ (es.foldl (fun m e => m &&& ~~~e.mask) need) ≠ 0 then s.answer r 0x0A .none
  else
    match es with
    | [] =>
      if fill then
        let x := s.fillWords line need
        s.answer r 0 (.wb line x.1 x.2)
      else s.answer r 0 (valueOf (s.servedBytes pa n))
    | [e] =>
      if (e.mask &&& need) = need ∧ e.owner.die ≠ 31 then
        if s.forwarded r ∨ s.canPost r.dst e.owner 1 = false then s.keep r
        else (s.post r.dst e.owner 8 0 false false (.fwd (pa / 4 * 4) (4 * (wordsOf pa n).length)) (.fwd r.src r.dst r.epoch r.seq)).keep r
      else (s.revoke e need true).keep r
    | es => (es.foldl (fun s e => s.revoke e need true) s).keep r

/-- LD_REQUEST (R127, R131): a home, agent or gateway serves a load. -/
def execLdRequest (k : Nat) (s : State) : Host.Outcome State Fault Refusal :=
  match s.request k [1] with
  | some r =>
    match r.body with
    | .ld pa n fill =>
      match s.moving pa with
      | .wait => .next (s.keep r)
      | .moved a => .next (s.answer r 0 (.redir a))
      | .serve =>
        if s.place pa = .memory then .next (s.loadHome r pa n fill)
        else
          let st := s.agentStatus pa n
          if st ≠ 0 then .next (s.answer r st .none)
          else if s.unreadable pa n then .next (s.answer r 0x0A .none)
          else .next (s.answer r 0 (valueOf (s.servedBytes pa n)))
    | _ => .next s
  | none => .next s

/-! ## Stores and atomics at a home, agent or gateway -/

/-- Perform a write of `n` bytes at `pa` for a request where it is due, else let it wait (R127, R131, R136, R325, R411): `f` performs
it and gives the answer. `whole`: the words that it writes whole. -/
def State.serveWrite (s : State) (r : Recv) (pa n : Nat) (whole : W32) (f : State → State × Byte × Body) : State :=
  let perform : State := let x := f s; x.1.answer r x.2.1 x.2.2
  if s.lostAt pa then s.keepLost r
  else match s.moving pa with
  | .wait => s.keep r
  | .moved a => s.answer r 0 (.redir a)
  | .serve =>
    if s.place pa = .memory then
      match s.reclaim (pa / 128) (wordMask pa n) whole with
      | some t => t.keep r
      | none => perform
    else
      let st := s.agentStatus pa n
      if st ≠ 0 then s.answer r st .none else perform

/-- Perform a write at the unit that serves it. In the launch window a write of LREC or EHEAD takes effect as the next step, and
any other is dropped (R485, R487); in a mailbox the writer is noted (R466). -/
def State.put (s : State) (r : Recv) (pa : Nat) (bs : List Byte) : State :=
  match s.place pa with
  | .window =>
    let off := addrOff pa
    let v : Word := BitVec.ofNat 64 (ofBytes bs)
    if off < 8 then { s with agenda := .event (.launch (.write .own v (if off = 0 then bs.length else 0) [])) :: s.agenda }
    else if off = 0x800 ∧ bs.length = 8 then { s with agenda := .event (.contextEndHead v) :: s.agenda }
    else s
  | .mailbox => (s.write pa bs).modMgmt fun m => { m with writers := assocSet (pa / 64) r.ctx m.writers }
  | _ => s.write pa bs

/-- The words that lie whole in the bytes. -/
def wholeWords (pa n : Nat) : W32 := maskOf ((wordsOf pa n).filter (coversWord pa n))

/-- A store at its home, agent or gateway (R131). -/
def State.serveStore (s : State) (r : Recv) : State :=
  match r.body with
  | .st pa n v => s.serveWrite r pa n (wholeWords pa n) fun s => (s.put r pa (toBytes n v.toNat), 0, .none)
  | .stl pa bs => s.serveWrite r pa bs.length (wholeWords pa bs.length) fun s => (s.put r pa bs, 0, .none)
  | _ => s

/-- ST_REQUEST (R131). -/
def execStRequest (k : Nat) (s : State) : Host.Outcome State Fault Refusal :=
  match s.request k [2] with
  | some r => .next (s.serveStore r)
  | none => .next s

/-- STL (R131, R310): a store of a line, or of more than a doubleword of it. -/
def execStl (k : Nat) (s : State) : Host.Outcome State Fault Refusal :=
  match s.request k [3] with
  | some r => .next (s.serveStore r)
  | none => .next s

/-- AMO_REQUEST (R136, R203): read and write at one point; the words are left without an owner. -/
def execAmoRequest (k : Nat) (s : State) : Host.Outcome State Fault Refusal :=
  match s.request k [4] with
  | some r =>
    match r.body with
    | .amo op pa n y cmp => .next (s.serveWrite r pa n 0 fun s =>
        if s.poisoned pa n then (s, 0x0A, .none)
        else
          let old := BitVec.ofNat 64 (ofBytes ((List.range n).map fun i => s.byteAt (pa + i)))
          match amoNew op n old y cmp with
          | some x => (s.put r pa (toBytes n x.toNat), 0, .value [old])
          | none => (s, 0, .value [old]))
    | _ => .next s
  | none => .next s

/-! ## Registrations (R130, R141, R142) -/

/-- The entries in use in the set of a line at its home (R129). -/
def State.setOf (s : State) (line : Nat) : List RegEntry :=
  s.homes.registry.filter fun e => s.home (128 * e.line) == s.home (128 * line) && homeSet (128 * e.line) == homeSet (128 * line)

/-- The entry with the least stamp. -/
def oldest : List RegEntry → Option RegEntry
  | [] => none
  | e :: l =>
    match oldest l with
    | none => some e
    | some d => if e.stamp ≤ d.stamp then some e else some d

/-- The registrations accepted for an owner's words, with one more (R141). -/
def RegEntry.register (e : RegEntry) (mask : W32) (epoch : Byte) (seq : BitVec 16) : RegEntry :=
  { e with
    mask := e.mask ||| mask
    regs := (mask, epoch, seq) :: (e.regs.map fun (r : W32 × Byte × BitVec 16) => (r.1 &&& ~~~mask, r.2)).filter (·.1 != 0) }

/-- The number of the registration that a request carries, at its core. -/
def State.regNumber (s : State) (r : Recv) : Option Nat :=
  s.fab.outst.findSome? fun o =>
    match o.purpose with
    | .reg _ id _ _ => if o.src = r.src ∧ o.dst = r.dst ∧ o.epoch = r.epoch ∧ o.seq = r.seq then some id else none
    | _ => none

/-- The old owner's copies of words that another core's registration has taken over are in V from that step on (R130, R143; log 156). -/
def State.cede (s : State) (e : RegEntry) (mask : W32) : State :=
  if e.owner.die = 31 then s
  else
    let c := unitCore e.owner
    let ws := (maskWords e.line (e.mask &&& mask)).filter (s.owns c)
    s.modCore c (·.setWords ws (some .V))

/-- Accept a registration: the words move to the new owner, old owners get a revocation without data, and the words stored to in part
take in the home's bytes (R130, R135). -/
def State.acceptReg (s : State) (r : Recv) (line : Nat) (mask sub : W32) : State :=
  let others := (s.ownersOf line mask).filter fun e => decide (e.owner ≠ r.src)
  let s := others.foldl (fun s e => (s.revoke e mask false).cede e mask) s
  let stamp := s.fresh
  let own := s.homes.registry.any fun e => decide (e.owner = r.src ∧ e.line = line)
  let s := { s with fresh := stamp + 1 }
  let s := s.modHomes fun h => { h with registry :=
    (h.registry.map fun e =>
      if e.line ≠ line then e
      else if e.owner = r.src then { e.register mask r.epoch r.seq with stamp := stamp }
      else { e with mask := e.mask &&& ~~~mask }) ++
    (if own then [] else [⟨r.src, line, mask, false, [(mask, r.epoch, r.seq)], stamp⟩]) }
  let s := (s.regNumber r).elim s fun id => s.mergeSub (unitCore r.src) id line sub
  s.answer r 0 .none

/-- A request that waits has named the entry that is to make room for it (R142). -/
def State.keepFor (s : State) (r : Recv) (e : RegEntry) : State :=
  s.modFab fun f => { f with rxq := f.rxq.map fun x => if x.same r then { x with held := true, victim := some (e.owner, e.line) } else x }

/-- Core `u` has an entry for the line. -/
def State.hasEntry (s : State) (u : UnitName) (line : Nat) : Bool := s.homes.registry.any fun e => decide (e.owner = u ∧ e.line = line)

/-- A registration that came earlier to the same home waits for the same words, or, as this one does, for a way of the same set (R142,
R143), or a store does, which takes its point as their owner gives them up. -/
def State.registersBefore (s : State) (r : Recv) (line : Nat) (mask : W32) : Bool :=
  (s.fab.rxq.takeWhile fun x => !x.same r).any fun e =>
    match e.body with
    | .st pa n _ => e.held && decide (e.dst = r.dst) && pa / 128 == line && (wordMask pa n &&& mask) != 0
    | .stl pa bs => e.held && decide (e.dst = r.dst) && pa / 128 == line && (wordMask pa bs.length &&& mask) != 0
    | .reg l m _ => decide (e.dst = r.dst) && ((l == line && (m &&& mask) != 0) ||
        (homeSet (128 * l) == homeSet (128 * line) && !s.hasEntry e.src l && !s.hasEntry r.src line))
    | _ => false

/-- A registration at its home (R130, R141, R142). -/
def State.register (s : State) (r : Recv) (line : Nat) (mask sub : W32) : State :=
  match s.moving (128 * line) with
  | .wait => s.keep r
  | .moved a => s.answer r 0 (.redir a)
  | .serve =>
    if s.lostAt (128 * line) then s.keepLost r else
    let others := (s.ownersOf line mask).filter fun e => decide (e.owner ≠ r.src)
    let mine := s.homes.registry.find? fun e => decide (e.owner = r.src ∧ e.line = line)
    let merge := others.filter fun e => (e.mask &&& sub) != 0
    if mask = 0 then s.answer r 0 .none
    else if s.registersBefore r line mask then s.keep r
    else if !merge.isEmpty then (merge.foldl (fun s e => s.revoke e sub true) s).keep r
    else if others.any (·.rev) ∨ mine.any (·.rev) then s.keep r
    else if others.any fun e => e.owner.die != 31 && !s.canPost r.dst e.owner 1 then s.keep r
    else if mine.isNone ∧ (s.setOf line).length ≥ 8 then
      let named := r.victim.bind fun v => s.homes.registry.find? fun e => decide (e.owner = v.1 ∧ e.line = v.2)
      match named.orElse fun _ => oldest ((s.setOf line).filter fun e => !e.rev) with
      | some v => (s.revoke v 0xFFFFFFFF#32 true).keepFor r v
      | none => s.keep r
    else s.acceptReg r line mask sub

/-- REG (R130). -/
def execReg (k : Nat) (s : State) : Host.Outcome State Fault Refusal :=
  match s.request k [5] with
  | some r =>
    match r.body with
    | .reg line mask sub => .next (s.register r line mask sub)
    | _ => .next s
  | none => .next s

/-- REG_SET_FREE (R142): a registration that waited is looked at again. -/
def execRegSetFree (k : Nat) (s : State) : Host.Outcome State Fault Refusal :=
  match s.request k [5] with
  | some r =>
    match r.body with
    | .reg line mask sub => if r.held then .next (s.register r line mask sub) else .next s
    | _ => .next s
  | none => .next s

/-! ## Revocations and write-backs (R141, R143, R207) -/

/-- The registration named has not completed, or one of its owner's before it, of words of `mask` (R141). -/
def State.revWaits (s : State) (r : Recv) (line : Nat) (mask : W32) (last : Byte × BitVec 16) : Bool :=
  s.fab.outst.any fun o => decide (o.src = r.dst ∧ o.dst = r.src) && o.registers (unitCore r.dst) line mask && notAfter (o.epoch, o.seq) last

/-- The owner's own write-back of words under revocation is on its way: it is the answer, and the revocation is then dropped (R143). -/
def State.returning (s : State) (r : Recv) (line : Nat) (mask : W32) : Bool :=
  s.fab.outst.any fun o => decide (o.src = r.dst ∧ o.dst = r.src) && !s.performed o &&
    match o.body with
    | .wb l m _ => l == line && (m &&& mask) != 0
    | _ => false

/-- The home has accepted a registration of the word by the owner since the one named: the revocation is dropped for it (R143). -/
def State.renewed (s : State) (owner : UnitName) (w : Nat) (last : Byte × BitVec 16) : Bool :=
  s.homes.registry.any fun e => decide (e.owner = owner ∧ e.line = w / 32) && bit e.mask (w % 32) &&
    !notAfter (e.last (1#32 <<< (w % 32))) last

/-- REV (R141): the owner's dispatcher answers once the registration named has completed: words in O are returned if asked for,
and go to V. -/
def execRev (k : Nat) (s : State) : Host.Outcome State Fault Refusal :=
  match s.request k [6] with
  | some r =>
    match r.body with
    | .rev line mask data epoch seq =>
      let c := unitCore r.dst
      if s.revWaits r line mask (epoch, seq) ∨ s.returning r line mask then .next (s.keep r)
      else
        let ws := (maskWords line mask).filter fun w => (s.getCore c).word w == some .O && !s.renewed r.dst w (epoch, seq)
        let vals := ws.map (s.stashValue c)
        let s := s.modCore c fun k => k.setWords ws (some .V)
        .next (s.answer r 0 (if data then .wb line (maskOf ws) vals else .none))
    | _ => .next s
  | none => .next s

/-- Take returned words at the home: written while the writer's MASK bit is set; a whole line at once clears the poison marker
(R141, R207, R310). -/
def State.takeWords (s : State) (owner : UnitName) (line : Nat) (mask : W32) (data : List W32) : State :=
  let whole := mask == 0xFFFFFFFF#32 && s.homes.registry.any fun e => decide (e.owner = owner ∧ e.line = line ∧ e.mask = 0xFFFFFFFF#32)
  if whole then s.write (128 * line) (data.flatMap fun x => toBytes 4 x.toNat)
  else s.acceptWords owner line (wbWords line mask data)

/-- Answer every request that waits at the home of a line with QUIESCE (R143). -/
def State.failWaiting (s : State) (line : Nat) : State :=
  (s.fab.rxq.filter fun r => r.held && r.body.line == some line && r.dst.slice).foldl (fun s r => s.answer r 0x15 .none) s

/-- The words that a store request writes whole. -/
def Body.storesWhole : Body → W32
  | .st pa n _ => wholeWords pa n
  | .stl pa bs => wholeWords pa bs.length
  | _ => 0

/-- The store that waits for words of the line and writes them whole takes its point as their owner gives them up without their values
(R141). -/
def State.storeWaiting (s : State) (line : Nat) (mask : W32) : State :=
  (((List.range s.fab.rxq.length).filterMap fun k => s.request k [2, 3]).find? fun r =>
    r.held && r.body.line == some line && (mask &&& ~~~r.body.storesWhole) == 0).elim s s.serveStore

/-- The revocation of a line's words is answered (R141, R143, R280). -/
def State.revoked (s : State) (line : Nat) (mask : W32) (owner : UnitName) (st : Byte) (body : Body) : State :=
  let t := match body with
    | .wb _ m data => s.takeWords owner line m data
    | _ => s
  let t := t.clearOwner owner line mask true
  if st ≠ 0 then t.failWaiting line
  else if body = .none then t.storeWaiting line mask
  else t

/-- REV_ANSWER (R141): words returned to a shard under rebuild wait (R325). -/
def execRevAnswer (k : Nat) (s : State) : Host.Outcome State Fault Refusal :=
  match s.returned k [6] with
  | some (o, st, body) =>
    match o.purpose with
    | .rev line mask owner =>
      if body ≠ .none ∧ s.lostAt (128 * line) then .next s else .next ((s.forget o).revoked line mask owner st body)
    | _ => .next (s.forget o)
  | none => .next s

/-- WB (R143, R207): the home takes words still owned by the writer; a write-back of the words under revocation is its
answer. -/
def execWb (k : Nat) (s : State) : Host.Outcome State Fault Refusal :=
  match s.request k [7] with
  | some r =>
    match r.body with
    | .wb line mask data =>
      match s.moving (128 * line) with
      | .wait => .next (s.keep r)
      | .moved a => .next (s.answer r 0 (.redir a))
      | .serve =>
        if s.lostAt (128 * line) then .next (s.keepLost r) else
        .next (((s.takeWords r.src line mask data).wordsBack r.src line mask).answer r 0 .none)
    | _ => .next s
  | none => .next s

/-- FWD (R143, R198): the owner's dispatcher returns the words as it holds them now; they stay in O or P. Words that it no longer owns send
the load back to the home. -/
def execFwd (k : Nat) (s : State) : Host.Outcome State Fault Refusal :=
  match s.request k [8] with
  | some r =>
    match r.body with
    | .fwd pa n =>
      let c := unitCore r.dst
      if (wordsOf pa n).all (s.owns c) then
        .next (s.answer r 0 (valueOf ((s.stashAddr c pa).elim [] fun a => readBytes s.mem a n)))
      else .next (s.answer r 0 .none)
    | _ => .next s
  | none => .next s

/-! ## Completions of thread accesses (R195) -/

/-- The bytes that an answer gives of `n` bytes at `pa`: a value, or words of the line. -/
def answerBytes (pa n : Nat) : Body → List Byte
  | .wb line mask data =>
    let ws := wbWords line mask data
    (List.range n).map fun i =>
      BitVec.ofNat 8 (((assocGet ((pa + i) / 4) ws).elim 0 (·.toNat)) / 2 ^ (8 * ((pa + i) % 4)))
  | b => b.bytes.take n

/-- Put words into a core's stash pages, in V (R125). -/
def State.putWords (s : State) (c : CoreName) (ws : List (Nat × W32)) : State :=
  let s := ws.foldl (fun s w => (s.stashAddr c (4 * w.1)).elim s fun a => { s with mem := writeBytes s.mem a (toBytes 4 w.2.toNat) }) s
  s.modCore c fun k => k.setWords (ws.map (·.1)) (some .V)

/-- The stash holds word `w` in I, and nothing of the core's is on its way to change it. -/
def State.fillable (s : State) (c : CoreName) (w : Nat) : Bool :=
  ((s.getCore c).word w).isNone && ((s.getCore c).stashPage (w / 1024)).isSome && !s.changing c (4 * w) 4

/-- Put fetched words that the core holds in I into the stash page, in V (R125), unless the core has performed an acquire, or asked for the
line again, since (R132, R134). -/
def State.fillStash (s : State) (c : CoreName) (o : Outst) (body : Body) : State :=
  match body with
  | .wb line mask data => if o.stale then s else s.putWords c ((wbWords line mask data).filter fun w => s.fillable c w.1)
  | _ => s

/-- Copies of the words that an atomic has changed, held in V, take its value (R133). -/
def State.renew (s : State) (c : CoreName) (b answer : Body) : State :=
  match b, answer with
  | .amo op pa n y cmp, .value (old :: _) =>
    let bs := toBytes n ((amoNew op n old y cmp).getD old).toNat
    s.putWords c (((wordsOf pa n).filter fun w => (s.getCore c).word w == some .V).map fun w =>
      (w, BitVec.ofNat 32 (ofBytes ((bs.drop (4 * w - pa)).take 4))))
  | _, _ => s

/-- The address and size that a read or atomic asked for. -/
def Body.span : Body → Nat × Nat
  | .ld pa n _ => (pa, n)
  | .amo _ pa n _ _ => (pa, n)
  | _ => (0, 0)

/-- The value of a load that has all its parts, under the bytes that the store gate held (R424). -/
def LoadRec.result (l : LoadRec) : Word :=
  let bs := (List.range l.bytes).map fun i => (assocGet i l.newer).getD (byteOf l.value i)
  signed (8 * l.bytes) (BitVec.ofNat 64 (ofBytes bs))

/-- A load or atomic has all its parts: its value goes to its register, which is released, and `ocl` falls (R195); one that
failed leaves the register as it was (R199), and an uncorrectable word at its home is precise (R200). -/
def State.endLoad (s : State) (c : CoreName) (l : LoadRec) : State :=
  let s := s.modCore c fun k =>
    let v := l.result
    let k := if l.status = 0 then k.setReg l.q l.reg v else k
    let k := match k.pair with
      | some p => if p.late = some l.id ∧ l.status = 0 then
          { k with pair := some { p with agreedAt := { p.agreedAt with thr := { p.agreedAt.thr with g := regSet p.agreedAt.thr.g l.reg v } } } }
        else k
      | none => k
    let k := (k.release l.q l.reg).modOc l.q fun o => { o with ocl := o.ocl - 1 }
    k.modMem fun m => { m with loads := m.loads.filter (·.id != l.id) }
  let s := if l.acq then s.acquireOn c else s
  if l.status = 0x0A ∧ s.nearby c l.pa then
    s.notifyAs c l.q l.task l.status (causeWord l.status 0 (seqCode l.q) false l.l32) (BitVec.ofNat 64 l.pa) (some l.epc)
  else s.notify c l.q l.task l.status (faultAddr l.status l.va l.pa)

/-- One part of a load or atomic has returned. -/
def State.loadPart (s : State) (c : CoreName) (id shift : Nat) (st : Byte) (bs : List Byte) : State :=
  match (s.getCore c).mem.loads.find? (·.id == id) with
  | none => s
  | some l =>
    let l := { l with
      left := l.left - 1, value := l.value ||| (BitVec.ofNat 64 (ofBytes bs) <<< (8 * shift))
      status := if l.status = 0 then st else l.status }
    if l.left = 0 then s.endLoad c l
    else s.modCore c fun k => k.modMem fun m => { m with loads := m.loads.map fun x => if x.id = id then l else x }

/-- One answer has come. -/
def Await.answer (a : Await) (slot : Nat) (st : Byte) (bs : List Byte) : Await :=
  { a with
    left := a.left - 1, out := a.out - 1, got := a.got ++ [(slot, bs)]
    status := if a.status = 0 then st else a.status, fail := if a.status = 0 then slot else a.fail }

/-- An answer that an instruction waits for has come. -/
def State.awaited (s : State) (c : CoreName) (id slot : Nat) (st : Byte) (bs : List Byte) : State :=
  s.modCore c fun k => k.modCtl fun x => { x with awaits := x.awaits.map fun a => if a.id = id then a.answer slot st bs else a }

/-- The same for an instruction of a task that has left its core since, wherever the task is. -/
def State.awaitedOf (s : State) (task id slot : Nat) (st : Byte) (bs : List Byte) : State :=
  let put (l : List Await) : List Await := l.map fun a => if a.id = id then a.answer slot st bs else a
  let g (k : Core) : Core := if k.ctl.task.any (·.id == task) then k.modCtl fun x => { x with awaits := put x.awaits } else k
  let s := { s with core := g s.core, cores := s.cores.map fun (e : CoreName × Core) => (e.1, g e.2) }
  s.modSaved fun v => if v.task.id = task then { v with awaits := put v.awaits } else v

/-- A request of a store has completed: a store with none left has its point, and its `ocs` unit is free (R195). -/
def State.storeDone (s : State) (c : CoreName) (id : Nat) (st : Byte) : State :=
  let upd (r : StoreRec) : StoreRec :=
    if r.ids.contains id then { r with ids := r.ids.filter (· != id), status := if r.status = 0 then st else r.status } else r
  let recs := (s.getCore c).mem.stores.map upd
  let done := recs.filter (·.ids.isEmpty)
  let s := s.modCore c fun k => k.modMem fun m => { m with stores := recs.filter fun r => !r.ids.isEmpty }
  done.foldl (fun s r => (s.modCore c fun k => k.modOc r.q fun o => { o with ocs := o.ocs - 1 }).notify c r.q r.task r.status
    (faultAddr r.status r.va (r.spans.head?.elim 0 (·.1)))) s

/-- The stores of core `c` that wait for request `id` wait for the requests `ids`. -/
def Core.replaceStore (k : Core) (id : Nat) (ids : List Nat) : Core :=
  k.modMem fun m => { m with
    stores := m.stores.map fun (r : StoreRec) => if r.ids.contains id then { r with ids := (r.ids.filter (· != id) ++ ids).eraseDups } else r }

/-- The word that a store to part of it waited for has come: the store is made (R125). -/
def State.mergeStore (s : State) (o : Outst) (c : CoreName) (id pa : Nat) (bs : List Byte) (st : Byte) (word : List Byte) : State :=
  let t := s.forget o
  if st ≠ 0 then t.storeDone c id st
  else if s.canPost o.src (s.home pa) 1 = false then s
  else
    let t := if t.fillable c (pa / 4) then t.putWords c [(pa / 4, BitVec.ofNat 32 (ofBytes word))] else t
    let x := t.storeHeld c o.ctx pa bs
    if x.2.isEmpty then x.1.storeDone c id 0 else x.1.modCore c (·.replaceStore id x.2)

/-- LOAD_RETURN (R195): the value of a load or atomic returns; a fill goes to the stash. -/
def execLoadReturn (k : Nat) (s : State) : Host.Outcome State Fault Refusal :=
  match s.returned k [1, 4] with
  | some (o, st, body) =>
    let x := o.body.span
    let bs := answerBytes x.1 x.2 body
    match o.purpose with
    | .load c id shift =>
      if s.suspended c then .next s else .next ((((s.forget o).fillStash c o body).renew c o.body body).loadPart c id shift st bs)
    | .await c _ id slot => if s.suspended c then .next s else .next (((s.forget o).fillStash c o body).awaited c id slot st bs)
    | .merge c id pa new => if s.suspended c then .next s else .next (s.mergeStore o c id pa new st bs)
    | _ => .next (s.forget o)
  | none => .next s

/-- The task that sequencer `q` of core `c` runs, 0 for a routine. -/
def State.taskOf (s : State) (c : CoreName) (q : Seq) : Nat := if q = .routine then 0 else (s.getCore c).ctl.task.elim 0 (·.id)

/-- STORE_COMPLETE (R195): of a store, or of a write-back that an instruction waits for (R207), which where it failed is a detected error
at the address of its line (R200). -/
def execStoreComplete (k : Nat) (s : State) : Host.Outcome State Fault Refusal :=
  match s.returned k [2, 3, 7] with
  | some (o, st, _) =>
    match o.purpose with
    | .store c id => if s.suspended c then .next s else .next ((s.forget o).storeDone c id st)
    | .await c q id slot =>
      if s.suspended c then .next s
      else .next (((s.forget o).awaited c id slot 0 []).notify c q (s.taskOf c q) st (BitVec.ofNat 64 slot))
    | _ => .next (s.forget o)
  | none => .next s

/-- REG_ACK (R125, R195, R280): the words named go from P to O, or to I where the registration was not accepted; words that the core has
registered again since stay in P. -/
def execRegAck (k : Nat) (s : State) : Host.Outcome State Fault Refusal :=
  match s.returned k [5] with
  | some (o, st, _) =>
    match o.purpose with
    | .reg c id line mask =>
      if s.suspended c then .next s
      else
        let s := s.forget o
        let again (w : Nat) : Bool := s.fab.outst.any fun x => x.registers c line (1#32 <<< (w % 32)) && notAfter (o.epoch, o.seq) (x.epoch, x.seq)
        let ws := (maskWords line mask).filter fun w => (s.getCore c).word w == some .P && !again w
        let s := s.modCore c fun k => k.setWords ws (if st = 0 then some .O else none)
        .next (s.storeDone c id st)
    | _ => .next (s.forget o)
  | none => .next s

/-- SPILL_WRITE_ACCEPTED (R148): L2 accepts spilled entry `k` of core `c`, whose entry is free; the entries of one page go in order. -/
def execSpillWriteAccepted (c : CoreName) (k : Nat) (s : State) : Host.Outcome State Fault Refusal :=
  match (s.getCore c).mem.spills[k]? with
  | some e =>
    if ((s.getCore c).mem.spills.take k).any (·.frame == e.frame) then .next s else
    let s := s.deviceWrite e.frame e.bytes
    .next (s.modCore c fun x => x.modMem fun m => { m with spills := m.spills.filter (·.id != e.id) })
  | none => .next s

/-- A forwarded read's completion at the home (R143): the load is answered with it, with QUIESCE where the owner's die is
fenced, or is looked at again. -/
def State.forwardedReturn (s : State) (o : Outst) (st : Byte) (body : Body) : State :=
  let s := s.forget o
  match o.purpose with
  | .fwd src dst epoch seq =>
    match s.fab.rxq.find? fun r => decide (r.src = src ∧ r.dst = dst ∧ r.epoch = epoch ∧ r.seq = seq) with
    | none => s
    | some r =>
      match r.body, body with
      | .ld pa n fill, .value ws =>
        let bs := ws.flatMap fun w => toBytes 8 w.toNat
        if st ≠ 0 then s.answer r st .none
        else if fill then
          let words := wordsOf pa n
          s.answer r 0 (.wb (pa / 128) (maskOf words) ((List.range words.length).map fun i => BitVec.ofNat 32 (ofBytes ((bs.drop (4 * i)).take 4))))
        else s.answer r 0 (valueOf ((bs.drop (pa % 4)).take n))
      | _, _ =>
        if st ≠ 0 then s.answer r st .none else s
  | _ => s

end Sys2Proof.Machine
end

