-- ==== Sys2Proof/Machine/Images.lean ====
section
/-! DEFINITION. Saved images in the persistence store, as they are read (R435, R445 to R448). -/

namespace Sys2Proof.Machine

/-- A number in a block of bytes. -/
def field (bs : List Byte) (off n : Nat) : Nat := ofBytes ((bs.drop off).take n)

/-- First byte of the tables of image `k` (R445). -/
def State.imageTables (s : State) (k : Nat) : Nat := globalAddr s.mgmt.domain.pkg.toNat 20 0 (0x3F800000 + 0x200000 * k)
/-- First byte of page `p` of the data of image `k`: even pages on die 20, odd ones on die 21 (R445). -/
def State.imagePage (s : State) (k p : Nat) : Nat :=
  globalAddr s.mgmt.domain.pkg.toNat (20 + p % 2) 0 (0x40000000 + 0x20000000 * k + 4096 * (p / 2))
/-- First byte of the black-box rings of image `k` (R445). -/
def State.imageRings (s : State) (k : Nat) : Nat := globalAddr s.mgmt.domain.pkg.toNat 21 0 (0x3F800000 + 0x400000 * k)

/-- The header of image `k` (R446). -/
def State.imageHeader (s : State) (k : Nat) : List Byte := readBytes s.mem (s.imageTables k) 64
/-- SEQ of image `k` when it is sealed and its header checks (R446), of any minor version (R491). -/
def State.imageSeq (s : State) (k : Nat) : Option Nat :=
  let h := s.imageHeader k
  if field h 1 1 = 1 ∧ field h 16 1 = 1 ∧ field h 60 4 = (crc32c (h.take 60)).toNat then some (field h 4 4) else none
/-- The newest sealed image (R445, R446). -/
def State.newestImage (s : State) : Option Nat :=
  match s.imageSeq 0, s.imageSeq 1 with
  | some a, some b => if a < b then some 1 else some 0
  | some _, none => some 0
  | none, some _ => some 1
  | none, none => none

/-- Extent record `i` of image `k` (R448). -/
def State.savedRecord (s : State) (k i : Nat) : List Byte := readBytes s.mem (s.imageTables k + 0x8040 + 64 * i) 64
/-- The extent records of image `k`, with their numbers. -/
def State.savedRecords (s : State) (k : Nat) : List (Nat × List Byte) :=
  (List.range (field (s.imageHeader k) 12 4)).map fun i => (i, s.savedRecord k i)
/-- The extent record has not been claimed (R448). -/
def unclaimed (r : List Byte) : Bool := field r 19 1 % 2 == 0
/-- The context record `i` of image `k` (R447). -/
def State.savedContext (s : State) (k i : Nat) : List Byte := readBytes s.mem (s.imageTables k + 0x40 + 32 * i) 32
/-- The records with tag `t` in the image offered, by number (R451, R454). -/
def State.offeredRecords (s : State) (t : Word) : List (Nat × List Byte) :=
  s.mgmt.reserve.offered.elim [] fun k => (s.savedRecords k).filter fun r => field r.2 0 8 == t.toNat
/-- Set CLAIMED in record `i` of image `k` (R449). -/
def State.claim (s : State) (k i : Nat) : State :=
  let r := s.savedRecord k i
  let f := BitVec.ofNat 8 (field r 19 1) ||| 1
  s.write (s.imageTables k + 0x8040 + 64 * i) (withCrc ((r.take 19) ++ [f] ++ ((r.drop 20).take 40)))
/-- Discard the image offered (R435): none of its records is claimed any more, and none is offered (log 163). -/
def State.discardImage (s : State) : State :=
  match s.mgmt.reserve.offered with
  | none => s
  | some k =>
    let s := ((s.savedRecords k).filter fun r => unclaimed r.2).foldl (fun s r => s.claim k r.1) s
    { s with mgmt := { s.mgmt with reserve := { s.mgmt.reserve with offered := none } } }
/-- Pages of the saved images that have not been claimed (R435). -/
def State.unclaimedPages (s : State) : Nat :=
  s.mgmt.reserve.offered.elim 0 fun k => (((s.savedRecords k).filter fun r => unclaimed r.2).map fun r => field r.2 20 4).sum

end Sys2Proof.Machine
end

