-- ==== Sys2Proof/Machine/Scheduler.lean ====
section
/-! DEFINITION. The scheduler's instructions (R228 to R239). -/

namespace Sys2Proof.Machine

/-! ## Shared parts -/

/-- Majors 0x20 and 0x21: in a hinge pair they force an exchange (R424). -/
def Form.sched : Form := { Form.control with exchange := true }

/-- A CID operand: 0 names the task's own chamber (R228). -/
def State.cidOf (s : State) (x : Word) : Try W32 := do
  check s (bits x 32 32 == 0)
  return if x = 0 then s.cid else x.setWidth 32

/-- The answer of an acting sequencer's request that has an effect. -/
def State.sentAnswer (s : State) : Option Await := s.pendingAnswer.filter (·.sent)

/-- Pieces of four bytes: plain doubleword loads are two accesses each (R135). -/
def wordPieces (pa n : Nat) : List (Nat × Nat) := (List.range (n / 4)).map fun i => (pa + 4 * i, 4)

/-- Read `n` bytes at `va` as plain doubleword loads, aligned to `n` (R230, R233, R284): the bytes, or the state that waits for
them. A read that failed leaves the instruction to run again after its fault (R199). -/
def State.readRecord (s : State) (va : Word) (n : Nat) : Try (List Byte ⊕ State) := do
  let ps ← s.accessDwords va n n .load
  match s.gather ps with
  | .got bs => return .inl bs
  | .wait t => return .inr t
  | .failed st a => return .inr (← s.settle.refused st va a)

/-- A chamber that takes records: CST is 1 or 2 (R230). -/
def State.takesRecords (s : State) (cid : W32) : Bool :=
  (s.chamber s.ctx cid).any fun h => h.cst == 1 || h.cst == 2

/-! ## Must-save charges (R54, R437) -/

/-- 4 KiB pages of a byte count (R437). -/
def pagesOf (n : Nat) : Nat := (n + 4095) / 4096

/-- `pages` more may be charged to a chamber, whose line is `l`, of context `c` (R54, R434, R437). -/
def State.mayCharge (s : State) (c : Context) (l : List Chamber) (pages : Nat) : Bool :=
  (tailsOf l).all (fun t => decide ((t.head?.elim 0 (·.muse)) + 4096 * pages ≤ effMsave t)) &&
    (s.part c.part).all (fun p => decide (p.charged + pages ≤ p.share)) &&
    decide ((s.work.parts.map (·.charged)).sum + s.unclaimedPages + pages ≤ s.mgmt.reserve.capacity)

/-- Charge pages to a chamber (R437). -/
def State.charge (s : State) (x : BitVec 16) (cid : W32) (pages : Nat) : State :=
  if pages = 0 then s
  else
    let part := (s.findCtx x).elim 0 (·.part)
    let s := s.modLine x cid fun h => { h with muse := h.muse + 4096 * pages }
    (s.modChamber x cid fun h => { h with own := h.own + pages }).modPart part fun p => { p with charged := p.charged + pages }

/-- A must-save charge of `n` bytes may be made in a chamber; BUDGET otherwise (R54). -/
def State.budget (s : State) (cid : W32) (n : Nat) : Try Unit :=
  match s.findCtx s.ctx with
  | some c => if n = 0 ∨ s.mayCharge c (s.lineOf s.ctx cid) (pagesOf n) then .ok () else raise 0x11 0
  | none => .ok ()

/-! ## Records (R230, R231) -/

/-- SPAWN (R230). -/
def execSpawn (d a b : Reg) (s : State) : Host.Outcome State Fault Refusal :=
  run .sched s do
    let va ← s.src a
    let n ← s.src b
    s.dst d
    match ← s.readRecord va 64 with
    | .inr t => return t
    | .inl bs =>
      let r := recOf bs
      let cid := recCid r
      if s.takesRecords cid = false then return (s.setG d 2).next 4
      else if s.core.sched.deque.length ≥ 256 then return (s.setG d 1).next 4
      else
        s.budget cid n.toNat
        s.release
        let t := s.charge s.ctx cid (pagesOf n.toNat)
        return ((t.pushSlot s.cur ⟨r, s.cid, false, false, 0, s.ctx⟩ false).setG d 0).next 4

/-- The context's features, in the positions of kcap0. -/
def State.features (s : State) : BitVec 128 := (s.findCtx s.ctx).elim 0 (·.feat)

/-- A core of the partition of the acting core's context that lists every group of its features (R60). -/
def State.fits (s : State) (x : BitVec 16) (c : CoreName) : Bool :=
  match s.findCtx x with
  | some k => bits c 13 3 == 0 && isWorker c && (s.partCores k.part).contains c &&
      (k.feat &&& ~~~((coreGroups c).setWidth 128)) == 0
  | none => false

/-- SPAWNT (R231). It stalls interruptibly for the acknowledgement: a task that leaves meanwhile goes on with it where it resumes
(log 134). -/
def execSpawnt (d a b : Reg) (s : State) : Host.Outcome State Fault Refusal :=
  run .sched s do
    let va ← s.src a
    let y ← s.src b
    s.dst d
    check s (bits y 16 48 == 0)
    let c : CoreName := y.setWidth 16
    match s.sentAnswer with
    | some w =>
      if w.left ≠ 0 then stall .answer
      else if w.status ≠ 0 then .error (.error w.status va)
      else return (s.setG d (BitVec.ofNat 64 (ofBytes ((assocGet 0 w.got).getD [])))).next 4
    | none =>
      match ← s.readRecord va 64 with
      | .inr t => return t
      | .inl bs =>
        let r := recOf bs
        if s.fits s.ctx c = false then return (s.setG d 3).next 4
        else if s.takesRecords (recCid r) = false then return (s.setG d 2).next 4
        else
          s.release
          waitFor (s.canPost s.unit (coreUnit s c) 1) .space
          return s.ask (coreUnit s c) 20 s.ctx (.push ⟨r, s.cid, false, false, 0, s.ctx⟩ (s.features.setWidth 6)) true

/-! ## Ending and yielding (R232, R239) -/

/-- A paired task first acts as `unpair` (R430): once the exchange has agreed and the gate's stores have their points, the checker's core goes
back, and the instruction is looked at again. -/
def State.unpairing (s : State) : Try (Option State) :=
  if s.core.pair.isSome then do
    s.release
    return some ((s.releaseChecker s.cur).setStall .gate)
  else .ok none

/-- The first sequence a task still owes, in its debt word (R348). -/
def State.owedAddr (s : State) (debt : Word) : Word :=
  let q := (s.basin (wordPart debt)).elim (wordSeq debt) fun b => seqMax (b.lane (debtLane debt)).cursor (wordSeq debt)
  setBits debt 0 q

/-- No unit of any counter is held. -/
def Counters.isZero (o : Counters) : Bool := o.ocl == 0 && o.ocs == 0 && o.occ == 0 && o.ocx == 0

/-- RETIRE (R232). -/
def execRetire (s : State) : Host.Outcome State Fault Refusal :=
  run .sched s do
    if let some t ← s.unpairing then return t
    check s (!s.core.vs.opened && !s.core.ms.opened)
    if s.tt then return s.endByHalt
    else
      match s.core.ctl.task with
      | none => return s.next 4
      | some t =>
        match t.windows with
        | w :: _ => raise 0x16 (s.handle w)
        | [] =>
          waitFor s.core.ctl.oc.isZero .counter
          let debt := recArg t.record 3
          if s.lastMember t ∧ s.owedBy debt (recOwed t.record) ≠ 0 then raise 0x08 (s.owedAddr debt)
          s.release
          return s.retire.endRunning s.cur

/-- YIELD (R239): with a full resume list it only retires. -/
def execYield (s : State) : Host.Outcome State Fault Refusal :=
  run .sched s do
    if let some t ← s.unpairing then return t
    check s (!s.tt)
    if s.core.sched.resume.length ≥ 32 then return s.next 4
    else
      waitFor (s.core.quiet && !s.core.matrixBusy) .release
      return (s.next 4).intoResume s.cur true

/-! ## Chambers (R233 to R235) -/

/-- A chamber from the bytes of its RCB at `pa` (R52). -/
def chamberOf (bs : List Byte) (pa : Nat) (cid parent : W32) : Chamber :=
  { cid := cid, rcb := pa, parent := parent
    head := BitVec.ofNat 64 (field bs 0x28 8), msave := BitVec.ofNat 64 (field bs 0x20 8), basin := BitVec.ofNat 64 (field bs 0x18 8)
    power := field bs 0x14 4, cores := field bs 0x10 4, retry := field bs 0x0E 1, bound := field bs 0x0D 1 % 2 == 1
    prio := field bs 0x0C 1, ovr := BitVec.ofNat 16 (field bs 0x0A 2), feat := BitVec.ofNat 128 (field bs 0x70 16)
    frep := BitVec.ofNat 64 (field bs 0x80 8)
    cst := 1, live := 0, cuse := 0, reex := 0, buse := 0, muse := 0, nest := ⟨0, false, 0, 0, 0⟩, own := 0, decl := 0
    weights := 0, waiting := [] }

/-- CRC of an RCB (R51). -/
def rcbCrc (bs : List Byte) : Bool := field bs 0xFC 4 == (crc32c (bs.take 0xA0)).toNat
/-- VER of an RCB is 1.0 (R52). -/
def rcbVersion (bs : List Byte) : Bool := field bs 0x08 2 == 0x0100
/-- Reserved bytes of an RCB, those of R233 reason 3 aside. -/
def rcbReserved (bs : List Byte) : Bool := field bs 0x0F 1 == 0 && field bs 0xE4 24 == 0
/-- The form that `chopen` asks of an RCB (R233 reason 3). -/
def rcbForm (bs : List Byte) : Bool :=
  field bs 0 8 != 0 && field bs 0x88 24 == 0 && decide (field bs 0x0A 2 < 64) && decide (field bs 0x0C 1 ≤ 15) &&
    decide (field bs 0x0D 1 < 2) && rcbReserved bs && !(field bs 0x0D 1 == 1 && field bs 0x28 8 == 0)

/-- The record at HEAD as the device reads it. -/
def State.headRecord (s : State) (x : BitVec 16) (h : Word) : Option Rec :=
  (s.deviceTranslate x h .load).map fun a => recOf (s.currents a 64)

/-- Why `chopen` refuses an RCB: 0 if it does not (R233). -/
def State.refuseChamber (s : State) (c : Context) (bs : List Byte) : Nat :=
  let feat : BitVec 128 := BitVec.ofNat 128 (field bs 0x70 16)
  let head : Word := BitVec.ofNat 64 (field bs 0x28 8)
  let parent := (s.deviceTranslate c.ctx (BitVec.ofNat 64 (field bs 0 8)) .load).bind fun a => c.chambers.find? (·.rcb == a)
  if rcbCrc bs = false then 1
  else if rcbVersion bs = false then 2
  else if rcbForm bs = false then 3
  else if (feat &&& ~~~c.feat) ≠ 0 then 4
  else if parent.all fun h => h.cst != 1 && h.cst != 2 then 5
  else if (c.chambers.filter (·.isOpen)).length ≥ 4096 then 6
  else if head ≠ 0 ∧ (s.headRecord c.ctx head).all (fun r => !recForm r || recCid r != 0) then 7
  else if head ≠ 0 ∧ s.core.sched.deque.length ≥ 256 then 8
  else 0

/-- The CID of the next chamber (R52): from `nextCid` on, with wrap-around, the first from 2 up that no open chamber has. -/
def Context.freshCid (c : Context) : W32 :=
  (((List.range (c.chambers.length + 3)).map fun i => c.nextCid + BitVec.ofNat 32 i).find? fun i =>
    decide (2 ≤ i.toNat) && (c.chamber i).isNone).getD c.nextCid

/-- Open a chamber whose RCB at `pa` has been accepted (R233 steps 6 and 7). -/
def State.openChamber (s : State) (c : Context) (bs : List Byte) (pa pages : Nat) : State :=
  let cid := c.freshCid
  let parent := (s.deviceTranslate c.ctx (BitVec.ofNat 64 (field bs 0 8)) .load).bind fun a => c.chambers.find? (·.rcb == a)
  let h := chamberOf bs pa cid (parent.elim 1 (·.cid))
  let own := s.cid
  let s := s.modCtx c.ctx fun c => { c with chambers := c.chambers ++ [h], nextCid := cid + 1 }
  let s := (s.modChamber c.ctx cid id).charge c.ctx cid pages
  let s := s.deviceWrite (pa + 0xFC) (toBytes 4 (crc32c (bs.take 0xA0)).toNat)
  match if h.head = 0 then none else s.headRecord c.ctx h.head with
  | some r => s.pushSlot s.cur ⟨recFix (setBits r 160 cid), own, true, false, 0, c.ctx⟩ false
  | none => s

/-- CHOPEN (R233). -/
def execChopen (d a b : Reg) (s : State) : Host.Outcome State Fault Refusal :=
  run .sched s do
    let va ← s.src a
    let n ← s.src b
    s.dst d
    match ← s.readRecord va 256 with
    | .inr t => return t
    | .inl bs =>
      match s.findCtx s.ctx with
      | none => return (s.setG d 0x8000000000000005#64).next 4
      | some c =>
        let why := s.refuseChamber c bs
        if why ≠ 0 then return (s.setG d (0x8000000000000000#64 ||| BitVec.ofNat 64 why)).next 4
        else
          let pa ← s.translate va .load
          let parent := (s.deviceTranslate c.ctx (BitVec.ofNat 64 (field bs 0 8)) .load).bind fun a => c.chambers.find? (·.rcb == a)
          let line := chamberOf bs pa c.freshCid 0 :: parent.elim [] fun h => s.lineOf c.ctx h.cid
          if n ≠ 0 ∧ s.mayCharge c line (pagesOf n.toNat) = false then raise 0x11 0
          s.release
          return ((s.openChamber c bs pa (pagesOf n.toNat)).setG d (c.freshCid.setWidth 64)).next 4

/-- Nothing lives in a chamber or its descendants. -/
def State.lifeless (s : State) (x : BitVec 16) (cid : W32) : Bool :=
  (s.family x cid).all fun i => (s.chamber x i).all fun h => h.live == 0

/-- CHCLOSE (R234); its completion is an acquire (R229). -/
def execChclose (d a : Reg) (s : State) : Host.Outcome State Fault Refusal :=
  run .sched s do
    let x ← s.src a
    s.dst d
    let cid ← s.cidOf x
    check s (!s.isWithin s.ctx s.cid cid)
    match (s.chamber s.ctx cid).filter (·.isOpen) with
    | none => return (s.setG d 2).next 4
    | some h =>
      let s' := if h.cst = 4 ∨ h.cst = 2 ∨ h.cst = 3 then s else s.modChamber s.ctx cid fun h => { h with cst := 2 }
      if h.cst ≠ 4 ∧ (s.lifeless s.ctx cid = false ∨ h.cst = 3) then return s'.setStall .answer
      else
        let t := (s'.closeBelow s.ctx cid).closeChamber s.ctx cid
        let t := t.modCtx s.ctx fun c => { c with chambers := c.chambers.filter fun k => k.cid != cid }
        return ((t.acquire).setG d (ofBool (h.cst == 4))).next 4

/-- CHPRIO (R235). -/
def execChprio (d a b : Reg) (s : State) : Host.Outcome State Fault Refusal :=
  run .sched s do
    let x ← s.src a
    let p ← s.src b
    s.dst d
    let cid ← s.cidOf x
    check s (decide (p.toNat ≤ 15) || p == BitVec.allOnes 64)
    match (s.chamber s.ctx cid).filter fun h => h.isOpen && s.isWithin s.ctx cid s.cid with
    | none => return (s.setG d (BitVec.allOnes 64)).next 4
    | some h =>
      let old := BitVec.ofNat 64 (s.prio s.ctx cid)
      if p = BitVec.allOnes 64 then return (s.setG d old).next 4
      else
        let ovr := setBit h.ovr 4 true
        let t := s.modChamber s.ctx cid fun h => { h with prio := p.toNat, ovr := ovr }
        let t := (t.deviceWrite (h.rcb + 0x0A) (toBytes 2 ovr.toNat)).deviceWrite (h.rcb + 0x0C) [p.setWidth 8]
        let t := t.deviceWrite (h.rcb + 0xFC) (toBytes 4 (crc32c (t.currents h.rcb 0xA0)).toNat)
        return (t.setG d old).next 4

/-- The value that `chbudget` reads (R235). -/
def State.budgetValue (s : State) (h : Chamber) (n : Nat) : Nat :=
  let l := s.lineOf s.ctx h.cid
  let g := s.gov (dieOf s.cur)
  match n with
  | 0 => effCores l
  | 1 => effBasin l
  | 2 => effMsave l
  | 3 => effPower l
  | 4 => effRetry l
  | 5 => h.cuse
  | 6 => h.buse
  | 7 => h.muse
  | 8 => h.reex
  | 9 => h.live
  | 10 => h.weights
  | 11 => g.budget
  | 12 => g.sum
  | 13 => s.core.sched.deque.length
  | _ => s.core.sched.resume.length

/-- CHBUDGET (R235). -/
def execChbudget (d a b : Reg) (s : State) : Host.Outcome State Fault Refusal :=
  run .sched s do
    let x ← s.src a
    let n ← s.src b
    s.dst d
    let cid ← s.cidOf x
    check s (decide (n.toNat ≤ 14))
    match (s.chamber s.ctx cid).filter (·.isOpen) with
    | none => return (s.setG d (BitVec.allOnes 64)).next 4
    | some h => return (s.setG d (BitVec.ofNat 64 (s.budgetValue h n.toNat))).next 4

/-! ## Loop nests (R223, R224, R236, R237) -/

/-- Extent of dimension `i` (R223). -/
def extent (x : Word) (i : Nat) : Nat := (bits x (16 * i) 16).toNat + 1

/-- NEST (R236). -/
def execNest (d a b : Reg) (s : State) : Host.Outcome State Fault Refusal :=
  run .sched s do
    let x ← s.src a
    let y ← s.src b
    s.dst d
    let cid ← s.cidOf y
    match (s.chamber s.ctx cid).filter fun h => h.isOpen && s.isWithin s.ctx cid s.cid with
    | none => return (s.setG d 3).next 4
    | some h =>
      let total := extent x 0 * extent x 1 * extent x 2 * extent x 3
      if h.nest.act ∧ h.nest.next < h.nest.total then return (s.setG d 1).next 4
      else if total = 2 ^ 64 then return (s.setG d 2).next 4
      else
        let t := s.modChamber s.ctx cid fun h => { h with nest := ⟨h.nest.gen + 1, true, x, total, 0⟩ }
        return (t.setG d 0).next 4

/-- Linear iteration `n` unpacked by the extents (R237). -/
def unpack (ext : Word) (n : Nat) : Vector W32 4 :=
  let n1 := n / extent ext 0
  let n2 := n1 / extent ext 1
  let n3 := n2 / extent ext 2
  #v[BitVec.ofNat 32 (n % extent ext 0), BitVec.ofNat 32 (n1 % extent ext 1), BitVec.ofNat 32 (n2 % extent ext 2),
     BitVec.ofNat 32 (n3 % extent ext 3)]

/-- Take the next iteration of the held chunk (R237). -/
def State.iterate (s : State) (f : Fetcher) : State :=
  let s := s.modTask fun t => { t with fetcher := { f with next := f.next + 1 } }
  (s.modCtl fun c => { c with idx := unpack f.ext f.next.toNat }).next 4

/-- The home slice of a chamber's NEST line (R224). -/
def State.nestHome (s : State) (cid : W32) : UnitName := (s.chamber s.ctx cid).elim s.unit fun h => s.home (h.rcb + 0xA0)

/-- NEXTIT (R237). -/
def execNextit (o : BitVec 19) (s : State) : Host.Outcome State Fault Refusal :=
  run .sched s do
    match s.core.ctl.task with
    | none => return s.next 4
    | some t =>
      check s t.team.isNone
      let f := t.fetcher
      if f.next ≠ f.fin then return s.iterate f
      else
        match s.sentAnswer with
        | some w =>
          if w.left ≠ 0 then stall .answer
          else if w.status ≠ 0 then .error (.error w.status s.pc)
          else
            match (assocGet 0 w.got).getD [] with
            | [] => return s.retire.setPc (s.pc + off20 o)
            | bs => return s.iterate ⟨BitVec.ofNat 64 (field bs 0 8), BitVec.ofNat 64 (field bs 8 8), BitVec.ofNat 64 (field bs 16 8),
                BitVec.ofNat 32 (field bs 24 4)⟩
        | none =>
          let u := s.nestHome s.cid
          waitFor (s.canPost s.unit u 1) .space
          return s.ask u 21 s.ctx (.claim s.ctx s.cid) false

end Sys2Proof.Machine
end

