-- ==== Sys2Proof/Machine/Vector.lean ====
section
/-! DEFINITION. The vector unit (R240 to R258): lanes and masks, arithmetic, compares, reductions, conversions, the
exponential and reciprocals, vector loads and stores. -/

namespace Sys2Proof.Machine

/-! ## Lanes and masks (R240, R242) -/

/-- Width of a lane in bits. -/
def laneBits : Lane → Nat
  | .b8 => 8
  | .h16 => 16
  | .w32 => 32

/-- Number of lanes. -/
def laneCount (l : Lane) : Nat := 1024 / laneBits l

/-- The `n` elements of width `w` of a register, element 0 first (R86). -/
def elements (w n : Nat) (x : VWord) : List Nat := (List.range n).map fun i => (x.toNat >>> (w * i)) % 2 ^ w

/-- Elements of width `w` as a number, element 0 first. -/
def packed (w : Nat) : List Nat → Nat
  | [] => 0
  | x :: l => x % 2 ^ w + 2 ^ w * packed w l

/-- A register from its elements. -/
def vectorOf (w : Nat) (l : List Nat) : VWord := BitVec.ofNat 1024 (packed w l)

/-- Mask bit that governs lane `i` (R240). -/
def maskBit (l : Lane) (i : Nat) : Nat :=
  match l with
  | .b8 => i / 2
  | .h16 => i
  | .w32 => 2 * i

/-- Lane `i` is active under the mask (R242). -/
def State.active (s : State) (l : Lane) (m : Option (BitVec 3)) (i : Nat) : Bool :=
  m.all fun p => bit (s.core.vec.p.get p.toFin) (maskBit l i)

/-- Vector register `r`. -/
def State.v (s : State) (r : Reg) : VWord := s.core.vec.v.get r.toFin
/-- Its lanes. -/
def State.lanes (s : State) (l : Lane) (r : Reg) : List Nat := elements (laneBits l) (laneCount l) (s.v r)
/-- Write vector register `r`. -/
def State.setV (s : State) (r : Reg) (x : VWord) : State :=
  { s with core := { s.core with vec := { s.core.vec with v := s.core.vec.v.set r.toNat x r.isLt } } }
/-- Write mask `p`. -/
def State.setP (s : State) (p : BitVec 3) (x : Word) : State :=
  { s with core := { s.core with vec := { s.core.vec with p := s.core.vec.p.set p.toNat x p.isLt } } }

/-- Write the active lanes of `d`; inactive lanes keep their old value (R242). -/
def State.setLanes (s : State) (l : Lane) (m : Option (BitVec 3)) (d : Reg) (f : Nat → Nat) : State :=
  let old := s.lanes l d
  s.setV d (vectorOf (laneBits l) ((List.range (laneCount l)).map fun i => if s.active l m i then f i else (old[i]?).getD 0))

/-- Lane `i` of a list of lanes. -/
def lane (xs : List Nat) (i : Nat) : Nat := (xs[i]?).getD 0

/-- NS in force for the acting sequencer (R79). -/
def State.ns (s : State) : Bool := s.core.ns s.seq

/-! ## Forms -/

/-- A vector instruction: the vector group, from the control stream while no vector stream is open, or from a vector stream. -/
def Form.vec : Form :=
  { len := 4, pfx := false, group := 1, inVector := true, inMatrix := false, inRoutine := false, withVector := false
    withMatrix := true, inPair := true, exchange := false }
/-- One that accepts a prefix (R115). -/
def Form.vecPfx : Form := { Form.vec with pfx := true }

/-- Run a vector instruction that only changes registers. -/
def State.vector (s : State) (f : Form) (body : Try State) : Host.Outcome State Fault Refusal :=
  run f s do return (← body).next 4

/-! ## Floating point (R243, R244) -/

/-- The lane format of a floating instruction (R243). -/
def State.laneFmt (s : State) (l : Lane) : Try Fmt :=
  match l, s.pending.map fun p => fmtOf p.fa with
  | .b8, some (some .m8) => .ok .m8
  | .h16, none => .ok .fp16
  | .h16, some (some .fp16) => .ok .fp16
  | .h16, some (some .bf16) => .ok .bf16
  | .w32, none => .ok .fp32
  | .w32, some (some .fp32) => .ok .fp32
  | _, _ => illegal s

/-- `a` is below `b`, with -0 below +0 (R244). -/
def Num.below (a b : Num) : Bool :=
  match a, b with
  | .zero s, .zero t => s && !t
  | a, b => a.lt b

/-- The smaller, or the larger where `big`; a NaN gives the other operand (R89 rule 5). -/
def Num.pick (big : Bool) (a b : Num) : Num :=
  if a.isNaN then (if b.isNaN then .quiet else b)
  else if b.isNaN then a
  else if (if big then a.below b else b.below a) then b else a

/-- abs(a), canonical for a NaN (R244). -/
def Num.abs (a : Num) : Num :=
  match a with
  | .nan _ _ => .quiet
  | a => if a.neg then a.minus else a

/-- A floating operation on lanes: destination, a, b (R244). -/
def State.floatOp (s : State) (l : Lane) (m : Option (BitVec 3)) (d a b : Reg) (f : Num → Num → Num → Num) :
    Host.Outcome State Fault Refusal :=
  s.vector .vecPfx do
    let fm ← s.laneFmt l
    let x := s.lanes l a
    let y := s.lanes l b
    let z := s.lanes l d
    let dec (v : Nat) : Num := decodeNum fm s.ns v
    return s.setLanes l m d fun i => encodeNum fm s.ns false (f (dec (lane z i)) (dec (lane x i)) (dec (lane y i)))

/-- VFADD (R244). -/
def execVfadd (l : Lane) (p : Option (BitVec 3)) (d a b : Reg) (s : State) : Host.Outcome State Fault Refusal :=
  s.floatOp l p d a b (fun _ x y => x.add y)
/-- VFSUB (R244). -/
def execVfsub (l : Lane) (p : Option (BitVec 3)) (d a b : Reg) (s : State) : Host.Outcome State Fault Refusal :=
  s.floatOp l p d a b (fun _ x y => x.add y.minus)
/-- VFMUL (R244). -/
def execVfmul (l : Lane) (p : Option (BitVec 3)) (d a b : Reg) (s : State) : Host.Outcome State Fault Refusal :=
  s.floatOp l p d a b (fun _ x y => x.mul y)
/-- VFMA (R244). -/
def execVfma (l : Lane) (p : Option (BitVec 3)) (d a b : Reg) (s : State) : Host.Outcome State Fault Refusal :=
  s.floatOp l p d a b (fun z x y => z.add (x.mul y))
/-- VFMS (R244). -/
def execVfms (l : Lane) (p : Option (BitVec 3)) (d a b : Reg) (s : State) : Host.Outcome State Fault Refusal :=
  s.floatOp l p d a b (fun z x y => z.add (x.mul y).minus)
/-- VFMIN (R244). -/
def execVfmin (l : Lane) (p : Option (BitVec 3)) (d a b : Reg) (s : State) : Host.Outcome State Fault Refusal :=
  s.floatOp l p d a b (fun _ x y => Num.pick false x y)
/-- VFMAX (R244). -/
def execVfmax (l : Lane) (p : Option (BitVec 3)) (d a b : Reg) (s : State) : Host.Outcome State Fault Refusal :=
  s.floatOp l p d a b (fun _ x y => Num.pick true x y)
/-- VFABS (R244). -/
def execVfabs (l : Lane) (p : Option (BitVec 3)) (d a : Reg) (s : State) : Host.Outcome State Fault Refusal :=
  s.floatOp l p d a 0 (fun _ x _ => x.abs)

/-! ## Integers (R245, R246) -/

/-- An integer operation on lanes of two registers. -/
def State.intOp (s : State) (l : Lane) (m : Option (BitVec 3)) (d a b : Reg) (f : (n : Nat) → BitVec n → BitVec n → BitVec n) :
    Host.Outcome State Fault Refusal :=
  s.vector .vec do
    let w := laneBits l
    let x := s.lanes l a
    let y := s.lanes l b
    return s.setLanes l m d fun i => (f w (BitVec.ofNat w (lane x i)) (BitVec.ofNat w (lane y i))).toNat

/-- An integer saturated to n bits (R246). -/
def saturate (n : Nat) (x : Int) : BitVec n := BitVec.ofInt n (max (-2 ^ (n - 1)) (min (2 ^ (n - 1) - 1) x))

/-- VADD (R245). -/
def execVadd (l : Lane) (p : Option (BitVec 3)) (d a b : Reg) (s : State) : Host.Outcome State Fault Refusal :=
  s.intOp l p d a b (fun _ x y => x + y)
/-- VSUB (R245). -/
def execVsub (l : Lane) (p : Option (BitVec 3)) (d a b : Reg) (s : State) : Host.Outcome State Fault Refusal :=
  s.intOp l p d a b (fun _ x y => x - y)
/-- VMUL (R245). -/
def execVmul (l : Lane) (p : Option (BitVec 3)) (d a b : Reg) (s : State) : Host.Outcome State Fault Refusal :=
  s.intOp l p d a b (fun _ x y => x * y)
/-- VMIN (R245). -/
def execVmin (l : Lane) (p : Option (BitVec 3)) (d a b : Reg) (s : State) : Host.Outcome State Fault Refusal :=
  s.intOp l p d a b (fun _ x y => if x.slt y then x else y)
/-- VMAX (R245). -/
def execVmax (l : Lane) (p : Option (BitVec 3)) (d a b : Reg) (s : State) : Host.Outcome State Fault Refusal :=
  s.intOp l p d a b (fun _ x y => if x.slt y then y else x)
/-- VAND (R245). -/
def execVand (l : Lane) (p : Option (BitVec 3)) (d a b : Reg) (s : State) : Host.Outcome State Fault Refusal :=
  s.intOp l p d a b (fun _ x y => x &&& y)
/-- VOR (R245). -/
def execVor (l : Lane) (p : Option (BitVec 3)) (d a b : Reg) (s : State) : Host.Outcome State Fault Refusal :=
  s.intOp l p d a b (fun _ x y => x ||| y)
/-- VXOR (R245). -/
def execVxor (l : Lane) (p : Option (BitVec 3)) (d a b : Reg) (s : State) : Host.Outcome State Fault Refusal :=
  s.intOp l p d a b (fun _ x y => x ^^^ y)

/-- A shift of lanes by an immediate; ILL for s >= w (R246). -/
def State.shiftOp (s : State) (l : Lane) (m : Option (BitVec 3)) (d a : Reg) (n : BitVec 5)
    (f : (w : Nat) → BitVec w → Nat → BitVec w) : Host.Outcome State Fault Refusal :=
  s.vector .vec do
    let w := laneBits l
    check s (decide (n.toNat < w))
    let x := s.lanes l a
    return s.setLanes l m d fun i => (f w (BitVec.ofNat w (lane x i)) n.toNat).toNat

/-- VSHL (R246). -/
def execVshl (l : Lane) (p : Option (BitVec 3)) (d a : Reg) (i : BitVec 5) (s : State) : Host.Outcome State Fault Refusal :=
  s.shiftOp l p d a i (fun _ x k => x <<< k)
/-- VSHR (R246). -/
def execVshr (l : Lane) (p : Option (BitVec 3)) (d a : Reg) (i : BitVec 5) (s : State) : Host.Outcome State Fault Refusal :=
  s.shiftOp l p d a i (fun _ x k => x >>> k)
/-- VSAR (R246). -/
def execVsar (l : Lane) (p : Option (BitVec 3)) (d a : Reg) (i : BitVec 5) (s : State) : Host.Outcome State Fault Refusal :=
  s.shiftOp l p d a i (fun _ x k => x.sshiftRight k)
/-- VSADD (R246). -/
def execVsadd (l : Lane) (p : Option (BitVec 3)) (d a b : Reg) (s : State) : Host.Outcome State Fault Refusal :=
  s.intOp l p d a b (fun n x y => saturate n (x.toInt + y.toInt))
/-- VSSUB (R246). -/
def execVssub (l : Lane) (p : Option (BitVec 3)) (d a b : Reg) (s : State) : Host.Outcome State Fault Refusal :=
  s.intOp l p d a b (fun n x y => saturate n (x.toInt - y.toInt))
/-- VABS (R246). -/
def execVabs (l : Lane) (p : Option (BitVec 3)) (d a : Reg) (s : State) : Host.Outcome State Fault Refusal :=
  s.intOp l p d a 0 (fun _ x _ => if x.msb then -x else x)
/-- VNEG (R246). -/
def execVneg (l : Lane) (p : Option (BitVec 3)) (d a : Reg) (s : State) : Host.Outcome State Fault Refusal :=
  s.intOp l p d a 0 (fun _ x _ => -x)

/-! ## Compares and select (R240, R247) -/

/-- The mask that a compare writes: an inactive lane writes 0, and of two byte lanes both must hold (R240). -/
def State.compareMask (s : State) (l : Lane) (m : Option (BitVec 3)) (f : Nat → Bool) : Word :=
  let on (i : Nat) : Bool := s.active l m i && f i
  let set (i : Nat) : Bool :=
    match l with
    | .b8 => on (2 * i) && on (2 * i + 1)
    | .h16 => on i
    | .w32 => on (i / 2)
  BitVec.ofNat 64 (packed 1 ((List.range 64).map fun i => if set i then 1 else 0))

/-- An integer compare of lanes. -/
def State.compareInt (s : State) (l : Lane) (m : Option (BitVec 3)) (d : BitVec 3) (a b : Reg) (f : Int → Int → Bool) :
    Host.Outcome State Fault Refusal :=
  s.vector .vec do
    let w := laneBits l
    let x := s.lanes l a
    let y := s.lanes l b
    return s.setP d (s.compareMask l m fun i => f (BitVec.ofNat w (lane x i)).toInt (BitVec.ofNat w (lane y i)).toInt)

/-- A floating compare of lanes; false with a NaN. -/
def State.compareFloat (s : State) (l : Lane) (m : Option (BitVec 3)) (d : BitVec 3) (a b : Reg) (f : Num → Num → Bool) :
    Host.Outcome State Fault Refusal :=
  s.vector .vecPfx do
    let fm ← s.laneFmt l
    let x := s.lanes l a
    let y := s.lanes l b
    return s.setP d (s.compareMask l m fun i => f (decodeNum fm s.ns (lane x i)) (decodeNum fm s.ns (lane y i)))

/-- VCMPEQ (R247). -/
def execVcmpeq (l : Lane) (p : Option (BitVec 3)) (d : BitVec 3) (a b : Reg) (s : State) : Host.Outcome State Fault Refusal :=
  s.compareInt l p d a b (fun x y => x == y)
/-- VCMPLT (R247). -/
def execVcmplt (l : Lane) (p : Option (BitVec 3)) (d : BitVec 3) (a b : Reg) (s : State) : Host.Outcome State Fault Refusal :=
  s.compareInt l p d a b (fun x y => decide (x < y))
/-- VCMPLE (R247). -/
def execVcmple (l : Lane) (p : Option (BitVec 3)) (d : BitVec 3) (a b : Reg) (s : State) : Host.Outcome State Fault Refusal :=
  s.compareInt l p d a b (fun x y => decide (x ≤ y))
/-- VFCMPEQ (R247). -/
def execVfcmpeq (l : Lane) (p : Option (BitVec 3)) (d : BitVec 3) (a b : Reg) (s : State) : Host.Outcome State Fault Refusal :=
  s.compareFloat l p d a b (fun x y => x.eq y)
/-- VFCMPLT (R247). -/
def execVfcmplt (l : Lane) (p : Option (BitVec 3)) (d : BitVec 3) (a b : Reg) (s : State) : Host.Outcome State Fault Refusal :=
  s.compareFloat l p d a b (fun x y => x.lt y)
/-- VFCMPLE (R247). -/
def execVfcmple (l : Lane) (p : Option (BitVec 3)) (d : BitVec 3) (a b : Reg) (s : State) : Host.Outcome State Fault Refusal :=
  s.compareFloat l p d a b (fun x y => x.lt y || x.eq y)
/-- VSEL (R247). -/
def execVsel (l : Lane) (p : BitVec 3) (d a b : Reg) (s : State) : Host.Outcome State Fault Refusal :=
  s.vector .vec do
    let x := s.lanes l a
    let y := s.lanes l b
    return s.setLanes l none d fun i => if s.active l (some p) i then lane x i else lane y i

/-! ## Reductions and permutes (R248, R249) -/

/-- One level of the tree: neighbours combined. -/
def pairUp (f : Nat → Nat → Nat) : List Nat → List Nat
  | a :: b :: l => f a b :: pairUp f l
  | l => l

/-- The whole tree over 2^n elements. -/
def treeFold (f : Nat → Nat → Nat) : Nat → List Nat → Nat
  | 0, l => lane l 0
  | n + 1, l => treeFold f n (pairUp f l)

/-- A floating reduction (R248): FD is FA or FP32. -/
def State.floatFold (s : State) (l : Lane) (m : Option (BitVec 3)) (d a b : Reg) (ident : Num) (f : Num → Num → Num) :
    Host.Outcome State Fault Refusal :=
  s.vector .vecPfx do
    let fa ← s.laneFmt l
    let fd ← (match s.pending.map fun p => fmtOf p.fd with
      | none => .ok fa
      | some (some x) => if x = fa ∨ x = .fp32 then .ok x else illegal s
      | some none => illegal s)
    let op (x y : Nat) : Nat := encodeNum fd s.ns false (f (decodeNum fd s.ns x) (decodeNum fd s.ns y))
    let x := s.lanes l a
    let e := (List.range (laneCount l)).map fun i =>
      if s.active l m i then encodeNum fd s.ns false (decodeNum fa s.ns (lane x i)) else encodeNum fd s.ns false ident
    return s.setV d (BitVec.ofNat 1024 (op (treeFold op (Nat.log2 (laneCount l)) e) ((s.v b).toNat % 2 ^ fd.width)))

/-- VFREDSUM (R248). -/
def execVfredsum (l : Lane) (p : Option (BitVec 3)) (d a b : Reg) (s : State) : Host.Outcome State Fault Refusal :=
  s.floatFold l p d a b (.zero true) fun x y => x.add y
/-- VFREDMAX (R248). -/
def execVfredmax (l : Lane) (p : Option (BitVec 3)) (d a b : Reg) (s : State) : Host.Outcome State Fault Refusal :=
  s.floatFold l p d a b .quiet fun x y => Num.pick true x y
/-- VFREDMIN (R248). -/
def execVfredmin (l : Lane) (p : Option (BitVec 3)) (d a b : Reg) (s : State) : Host.Outcome State Fault Refusal :=
  s.floatFold l p d a b .quiet fun x y => Num.pick false x y

/-- An integer reduction over 64-bit values (R248). -/
def State.intFold (s : State) (l : Lane) (m : Option (BitVec 3)) (d a b : Reg) (f : Word → Word → Word) :
    Host.Outcome State Fault Refusal :=
  s.vector .vec do
    let w := laneBits l
    let x := s.lanes l a
    let r := (List.range (laneCount l)).foldl
      (fun (acc : Word) i => if s.active l m i then f acc ((BitVec.ofNat w (lane x i)).signExtend 64) else acc) ((s.v b).setWidth 64)
    return s.setV d (r.setWidth 1024)

/-- VREDSUM (R248). -/
def execVredsum (l : Lane) (p : Option (BitVec 3)) (d a b : Reg) (s : State) : Host.Outcome State Fault Refusal :=
  s.intFold l p d a b fun x y => x + y
/-- VREDMAX (R248). -/
def execVredmax (l : Lane) (p : Option (BitVec 3)) (d a b : Reg) (s : State) : Host.Outcome State Fault Refusal :=
  s.intFold l p d a b fun x y => if x.slt y then y else x
/-- VREDMIN (R248). -/
def execVredmin (l : Lane) (p : Option (BitVec 3)) (d a b : Reg) (s : State) : Host.Outcome State Fault Refusal :=
  s.intFold l p d a b fun x y => if x.slt y then x else y
/-- VPERM (R249). -/
def execVperm (l : Lane) (p : Option (BitVec 3)) (d a b : Reg) (s : State) : Host.Outcome State Fault Refusal :=
  s.vector .vec do
    let x := s.lanes l a
    let y := s.lanes l b
    return s.setLanes l p d fun i => lane x (lane y i)
/-- VSLIDE (R249). -/
def execVslide (l : Lane) (p : Option (BitVec 3)) (d a : Reg) (i : BitVec 5) (s : State) : Host.Outcome State Fault Refusal :=
  s.vector .vec do
    let x := s.lanes l a
    return s.setLanes l p d fun j => lane x (j + i.toNat)

/-! ## Between general and vector registers (R250) -/

/-- VBCAST (R250). -/
def execVbcast (l : Lane) (p : Option (BitVec 3)) (d a : Reg) (s : State) : Host.Outcome State Fault Refusal :=
  s.vector .vec do
    let x ← s.src a
    return s.setLanes l p d fun _ => x.toNat % 2 ^ laneBits l
/-- VEXTR (R250). -/
def execVextr (l : Lane) (d a b : Reg) (s : State) : Host.Outcome State Fault Refusal :=
  s.vector .vec do
    let k ← s.src b
    s.dst d
    let x := if k.toNat < laneCount l then lane (s.lanes l a) k.toNat else 0
    return s.setG d ((BitVec.ofNat (laneBits l) x).signExtend 64)

/-! ## Conversions (R251, R252) -/

/-- The formats of `vcvt` (R251). -/
def Fmt.converts : Fmt → Bool
  | .pair => false
  | .int64 => false
  | .e8 => false
  | _ => true

/-- The pair of formats is accepted, with `.rz` where `trunc` (R251). -/
def convertible (fa fd : Fmt) (trunc : Bool) : Bool :=
  fa.converts && fd.converts && !(fa == .m4 && (fd == .m4 || fd.isInt)) && !(trunc && (fd == .m8 || fd == .m4))

/-- One element converted (R88, R251): between integers it is sign-extended or wrapped. -/
def convert (fa fd : Fmt) (ns trunc : Bool) (x : Nat) : Nat :=
  if fa.isInt ∧ fd.isInt then (BitVec.ofInt fd.width (BitVec.ofNat fa.width x).toInt).toNat
  else encodeNum fd ns trunc (decodeNum fa ns x)

/-- Formats FA and FD of the pending prefix, or the defaults; ILL for a reserved code (R77). -/
def State.convFmts (s : State) (fa fd : Fmt) : Try (Fmt × Fmt) :=
  match s.pending.map fun p => (fmtOf p.fa, fmtOf p.fd) with
  | none => .ok (fa, fd)
  | some (some x, some y) => .ok (x, y)
  | some _ => illegal s

/-- VCVT (R251). -/
def execVcvt (l : Lane) (p : Option (BitVec 3)) (d a : Reg) (r : Bool) (t : BitVec 3) (s : State) :
    Host.Outcome State Fault Refusal :=
  s.vector .vecPfx do
    let (fa, fd) ← s.convFmts .fp32 .fp16
    check s (convertible fa fd r)
    let w := Nat.max fa.width fd.width
    let lo := Nat.min fa.width fd.width
    check s (laneBits l == w && decide (t.toNat < w / lo))
    let n := 1024 / w
    let src := elements fa.width (1024 / fa.width) (s.v a)
    let old := elements fd.width (1024 / fd.width) (s.v d)
    let so := if fa.width < w then t.toNat * n else 0
    let dof := if fd.width < w then t.toNat * n else 0
    return s.setV d (vectorOf fd.width ((List.range (1024 / fd.width)).map fun j =>
      if dof ≤ j ∧ j < dof + n ∧ s.active l p (j - dof) then convert fa fd s.ns r (lane src (so + (j - dof))) else lane old j))

/-- The low `n` elements of a register replaced. -/
def replaceLow (w : Nat) (x : VWord) (l : List Nat) : VWord :=
  vectorOf w (l ++ (elements w (1024 / w) x).drop l.length)

/-- A floating format wider than M8. -/
def Fmt.isWide (f : Fmt) : Bool := f == .fp32 || f == .fp16 || f == .bf16

/-- VCVTS (R252): blocks of 32 elements, with their scales in v[b]. -/
def execVcvts (l : Lane) (d a b : Reg) (s : State) : Host.Outcome State Fault Refusal :=
  s.vector .vecPfx do
    check s (b != d)
    let (fa, fd) ← s.convFmts .fp16 .m8
    let narrow (f : Fmt) : Bool := f == .m8 || f == .m4
    if fa.isWide ∧ narrow fd then
      check s (laneBits l == fa.width)
      let n := laneCount l
      let x := (elements fa.width n (s.v a)).map (decodeNum fa false)
      let bs := (List.range (n / 32)).map fun q => encodeBlock (fd == .m4) s.ns ((x.drop (32 * q)).take 32)
      let t := s.setV d (replaceLow fd.width (s.v d) (bs.flatMap (·.2)))
      return t.setV b (replaceLow 8 (s.v b) (bs.map (·.1.toNat)))
    else
      check s (narrow fa && fd.isWide && laneBits l == fd.width)
      let n := laneCount l
      let x := elements fa.width n (s.v a)
      let sc := elements 8 (n / 32) (s.v b)
      return s.setV d (vectorOf fd.width ((List.range n).map fun i =>
        let e := lane sc (i / 32)
        encodeNum fd s.ns false (if e = 255 then .quiet else (decodeNum fa s.ns (lane x i)).scale ((e : Int) - 127))))

/-! ## Exponential, reciprocal, reciprocal square root (R253 to R256) -/

/-- An FP32 value as the exact number it is. -/
def f32 (x : W32) : Num := decodeNum .fp32 false x.toNat

/-- The largest n below 2^k with `ok n`, for a downward-closed `ok`. -/
def bisect (ok : Nat → Bool) : Nat → Nat → Nat
  | 0, acc => acc
  | k + 1, acc => bisect ok k (if ok (acc + 2 ^ k) then acc + 2 ^ k else acc)

/-- T[j] of `vexp2`: rne32(2^(j/32)) (R254). -/
def expTable (j : Nat) : W32 :=
  let f := bisect (fun n => decide (n ^ 32 ≤ 2 ^ (32 * 24 + j))) 25 0
  rne32 (.fin ((f + 1) / 2 : Nat) (-23))

/-- T[j] of `vrcp`: rne32(128 / (129 + 2j)) (R255). -/
def rcpTable (j : Nat) : W32 := rne32 (.ratio 128 (129 + 2 * j) 0)

/-- T[j] of `vrsq`: rne32(1 / sqrt(cn / cd)) (R256). -/
def rsqTable (cn cd : Nat) : W32 :=
  let f := bisect (fun n => decide (n * n * cn ≤ 2 ^ 50 * cd)) 26 0
  rne32 (.fin ((f + 1) / 2 : Nat) (-24))

/-- C1, C2 and C3 of R254. -/
def expC1 : W32 := rne32 (.ratio 6931471805599453 10000000000000000 0)
/-- C2. -/
def expC2 : W32 := rne32 (.ratio 2402265069591007 10000000000000000 0)
/-- C3. -/
def expC3 : W32 := rne32 (.ratio 555041086648216 10000000000000000 0)

/-- 2^x (R253, R254), as an FP32 result. -/
def exp2Of : Num → Num
  | .nan _ _ => .quiet
  | .inf s => if s then .zero false else .inf false
  | .zero _ => .fin 1 0
  | .fin m e =>
    if (Num.fin 128 0).lt (.fin m e) ∨ (Num.fin 128 0).eq (.fin m e) then .inf false
    else if (Num.fin m e).lt (.fin (-150) 0) ∨ (Num.fin (-150) 0).eq (.fin m e) then .zero false
    else
      let k := toInteger false m (e + 5)
      let r := rne32 ((Num.fin m e).add (Num.of (-k) (-5)))
      let j := (k % 32).toNat
      let n := (k - j) / 32
      let p := fmul32 (fadd32 (fmul32 expC3 r) expC2) r
      let p := fmul32 (fadd32 p expC1) r
      let t := expTable j
      f32 (rne32 ((f32 (fadd32 (fmul32 t p) t)).scale n))

/-- -x in FP32. -/
def fneg (x : W32) : W32 := x ^^^ 0x80000000#32

/-- One step of the reciprocal (R255). -/
def rcpStep (m y : W32) : W32 := fadd32 y (fmul32 y (fadd32 0x3F800000#32 (fneg (fmul32 m y))))

/-- 1 / x (R253, R255). -/
def rcpOf : Num → Num
  | .nan _ _ => .quiet
  | .inf s => .zero s
  | .zero s => .inf s
  | .fin m e =>
    let l := floorLog2 m e
    let x : Num := .fin m.natAbs (e - l)
    let j := toInteger true m.natAbs (e - l + 6) - 64
    let w := rne32 x
    let y := rcpStep w (rcpStep w (rcpTable j.toNat))
    let r := f32 (rne32 ((f32 y).scale (-l)))
    if m < 0 then r.minus else r

/-- One step of the reciprocal square root (R256). -/
def rsqStep (m y : W32) : W32 :=
  let b := fmul32 m (fmul32 y y)
  fmul32 y (fadd32 0x3FC00000#32 (fneg (fmul32 0x3F000000#32 b)))

/-- 1 / sqrt x (R253, R256). -/
def rsqOf : Num → Num
  | .nan _ _ => .quiet
  | .inf s => if s then .quiet else .zero false
  | .zero s => .inf s
  | .fin m e =>
    if m < 0 then .quiet
    else
      let l := floorLog2 m e
      let odd := l % 2 == 1
      let l' := if odd then l - 1 else l
      let w := rne32 (.fin m (e - l'))
      let t :=
        if odd then rsqTable (65 + 2 * (toInteger true m (e - l' + 4) - 32).toNat) 32
        else rsqTable (65 + 2 * (toInteger true m (e - l' + 5) - 32).toNat) 64
      let y := rsqStep w (rsqStep w t)
      f32 (rne32 ((f32 y).scale (-(l' / 2))))

/-- A function of R253 on lanes: computed in FP32, rounded once more for FP16 and BF16; `.b` is ILL. -/
def State.unaryFloat (s : State) (l : Lane) (m : Option (BitVec 3)) (d a : Reg) (f : Num → Num) : Host.Outcome State Fault Refusal :=
  s.vector .vecPfx do
    check s (l != .b8)
    let fm ← s.laneFmt l
    let x := s.lanes l a
    return s.setLanes l m d fun i => encodeNum fm false false (f (decodeNum fm false (lane x i)))

/-- VEXP2 (R254). -/
def execVexp2 (l : Lane) (p : Option (BitVec 3)) (d a : Reg) (s : State) : Host.Outcome State Fault Refusal :=
  s.unaryFloat l p d a exp2Of
/-- VRCP (R255). -/
def execVrcp (l : Lane) (p : Option (BitVec 3)) (d a : Reg) (s : State) : Host.Outcome State Fault Refusal :=
  s.unaryFloat l p d a rcpOf
/-- VRSQ (R256). -/
def execVrsq (l : Lane) (p : Option (BitVec 3)) (d a : Reg) (s : State) : Host.Outcome State Fault Refusal :=
  s.unaryFloat l p d a rsqOf

/-! ## Vector loads and stores (R257) -/

/-- Words of physical segments, as pieces. -/
def segPieces (segs : List (Nat × Nat × Nat)) : List (Nat × Nat) :=
  segs.flatMap fun g => (List.range (g.2.2 / 4)).map fun i => (g.2.1 + 4 * i, 4)

/-- VLD (R257); a fault found away from the core leaves v[d] as it was (R199, R258). -/
def execVld (d a : Reg) (o : BitVec 12) (s : State) : Host.Outcome State Fault Refusal :=
  run .vec s do
    let x ← s.src a
    let va := x + imm12 o
    let segs ← s.accessSegs va 128 4 .load
    match s.gatherAs true (segPieces segs) with
    | .wait t => return t
    | .failed st a => return (← s.refused st va a).next 4
    | .got bs => return (s.setV d (BitVec.ofNat 1024 (ofBytes bs))).next 4

/-- VST (R257). -/
def execVst (d a : Reg) (o : BitVec 12) (s : State) : Host.Outcome State Fault Refusal :=
  run .vec s do
    let x ← s.src a
    let va := x + imm12 o
    let segs ← s.accessSegs va 128 4 .store
    let bs := toBytes 128 (s.v d).toNat
    let t ← s.store 4 va (segs.map fun g => (g.2.1, (bs.drop g.1).take g.2.2)) false
    return t.next 4

end Sys2Proof.Machine
end

