-- ==== Sys2Proof/Machine/Messages.lean ====
section
/-! DEFINITION. Active messages (R283 to R302): bindings, dispatch, polled classes, routines, and the instructions that send
and take messages. -/

namespace Sys2Proof.Machine

/-! ## Installs that end (R284) -/

/-- Cores of the partition that holds core `c`, in number. -/
def State.coreCount (s : State) (c : CoreName) : Nat :=
  ((s.partOf (dieOf c)).bind s.part).elim 0 fun p => 256 * (p.dies.filter (· < 16)).length

/-- A routine of an older binding of the class runs or is still to run on some core. -/
def State.oldRoutines (s : State) (b : Bind) : Bool :=
  let old (y : Bind) : Bool := y.ctx == b.ctx && y.cls == b.cls && decide (y.id < b.id)
  s.knownCores.any fun c =>
    let m := (s.getCore c).msg
    m.bank.any (fun k => old k.bind) || m.inbox.any fun i => i.bind.any old

/-- Every core has the install, and every routine of the old binding has ended (R284). -/
def State.installEnded (s : State) (i : Install) : Bool := decide (s.coreCount i.core ≤ i.done.length) && !s.oldRoutines i.bind
/-- What `cbind` or `cunbind` gives (R284, R285). -/
def Install.result (i : Install) : Word := ofBool (!i.remove && i.was)
/-- The install is no more. -/
def State.endInstall (s : State) (i : Install) : State :=
  s.modFab fun f => { f with installs := f.installs.filter fun j => j.bind.id != i.bind.id }

/-- The task is out, at the instruction that waits for the install. -/
def Saved.waitsFor (v : Saved) (i : Install) : Bool := v.awaits.any fun a => a.id == i.bind.id && a.pc == v.thr.pc
/-- The instruction retires while the task is out, with its result (R284). -/
def Saved.endInstall (v : Saved) (i : Install) : Saved :=
  if v.waitsFor i then
    { v with
      thr := { v.thr with g := regSet v.thr.g i.reg i.result, pc := v.thr.pc + 4 }
      k := { v.k with kcnt := v.k.kcnt + 1 }
      awaits := v.awaits.filter (·.id != i.bind.id) }
  else v

/-- Installs that have ended while their tasks are out: g[d] is written into the save frames (R189, R284). -/
def State.settleInstalls (s : State) : State :=
  s.fab.installs.foldl (fun s i =>
    if s.installEnded i && s.allSaved.any (·.waitsFor i) then ((s.modSaved (·.endInstall i)).reframe i.task).endInstall i else s) s

/-! ## Delivery (R286, R288, R292, R297, R299) -/

/-- Complete a class message that a core has accepted: STATUS, and the status word. -/
def State.reply (s : State) (m : Inbound) (status : Byte) (word : Word) : State :=
  s.answer ⟨m.src, m.dst, m.epoch, m.seq, m.cls, m.ctx, m.nw, m.ns, .none, [], [], false, false, none, false⟩ status (.value [word])

/-- `krecv` of a core rises by `n` (R299). -/
def State.received (s : State) (c : CoreName) (n : Nat) : State :=
  s.modCore c fun k => k.modCtl fun x => { x with k := { x.k with krecv := x.k.krecv + BitVec.ofNat 64 n } }

/-- The binding of a class as core `c` holds it (R283). -/
def Core.binding (k : Core) (x : BitVec 16) (cls : BitVec 10) : Option Bind :=
  k.msg.binds.find? fun b => b.ctx == x && b.cls == cls

/-- Write a message into the ring of its polled class (R292). -/
def State.toRing (s : State) (b : Bind) (m : Inbound) : State :=
  let tail := readWord s.mem (b.buf + 8)
  (s.deviceWrite (ringEntrySlot b.buf tail) m.entry).deviceWrite (b.buf + 8) (toBytes 8 (tail + 1).toNat)

/-- A message for a polled class at core `c` (R292). -/
def State.deliverPolled (s : State) (c : CoreName) (b : Bind) (m : Inbound) : State :=
  let k := s.getCore b.core
  let mine := k.msg.fast.filter fun x => x.bind.any fun y => y.ctx == b.ctx && y.cls == b.cls
  let n := s.ringCount b
  if !m.data.isEmpty then (s.received c 1).reply m 0 3
  else if mine.length + n ≥ 63 then (s.received c 1).reply m 0 2
  else if k.ctl.run = .task ∧ k.ctl.task.any (·.id == b.task) ∧ n = 0 ∧
      (k.msg.fast.filter fun x => x.bind.any (·.task == b.task)).length < 16 then
    (s.modCore b.core fun k => k.modMsg fun x => { x with fast := x.fast ++ [{ m with bind := some b }] }).reply m 0 1
  else (s.toRing b m).reply m 0 1

/-- A message under a binding: for a routine to come, or to be polled (R288, R297). -/
def State.deliver (s : State) (c : CoreName) (b : Bind) (m : Inbound) : State :=
  if b.polled then s.deliverPolled c b m
  else (s.modCore c fun k => k.modMsg fun x => { x with inbox := x.inbox ++ [{ m with bind := some b }] }).reply m 0 0

/-- The request leaves the receive queue without its completion. -/
def State.unqueue (s : State) (r : Recv) : State :=
  s.modFab fun f => { f with rxq := f.rxq.filter fun x => !x.same r }

/-- A class message accepted at core `c`: delivered under its binding, or held in the unbound queue (R286). -/
def State.dispatch (s : State) (c : CoreName) (r : Recv) : State :=
  match r.body with
  | .msg args data =>
    let m : Inbound := ⟨r.src, r.dst, r.epoch, r.seq, r.ctx, r.cls, r.nw, r.ns, args, data, none⟩
    match (s.getCore c).binding r.ctx r.cls with
    | some b => s.deliver c b m
    | none =>
      if (s.getCore c).msg.unbound.length < 16 then
        (s.unqueue r).modCore c fun k => k.modMsg fun x => { x with unbound := x.unbound ++ [m] }
      else (s.received c 1).reply m 0x10 0
  | _ => s

/-- The die is halted by the debugger: its dispatchers start no routine (R301, R479). -/
def State.dieHalted (s : State) (die : Nat) : Bool := s.work.parts.any fun p => p.halted.contains die

/-- Dispatch the class messages that waited at a halted die, in the order of their acceptance (R301). -/
def State.dispatchHeld (s : State) (die : Nat) : State :=
  (s.fab.rxq.filter fun r => decide (64 ≤ r.cls.toNat ∧ r.dst.die.toNat = die) && r.left.isEmpty).foldl
    (fun s r => s.dispatch (unitCore r.dst) r) s

/-- UNBOUND_HOLD_EXPIRY (R286): message `k` of core `c`'s unbound queue completes NOCLASS. -/
def execUnboundHoldExpiry (c : CoreName) (k : Nat) (s : State) : Host.Outcome State Fault Refusal :=
  match (s.getCore c).msg.unbound[k]? with
  | some m =>
    let s := s.modCore c fun x => x.modMsg fun y => { y with unbound := dropAt k y.unbound }
    .next ((s.received c 1).reply m 0x10 0)
  | none => .next s

/-! ## Routines (R288, R291) -/

/-- The bank as a routine starts (R288, R300). -/
def Inbound.bank (m : Inbound) (b : Bind) : Bank :=
  let g : Vector Word 32 := Vector.ofFn fun i =>
    if 3 ≤ i.val ∧ i.val < 7 then (m.args[i.val - 3]?).getD 0
    else if i.val = 7 then m.g7
    else if 8 ≤ i.val ∧ i.val < 24 then (m.data[i.val - 8]?).getD 0
    else 0
  let st := setBit (setBits (setBit 0#64 3 true) 4 b.pm) 2 b.ns
  ⟨⟨g, b.entry, st, 0, 0, 0, b.handler &&& ~~~1#64, 0⟩, 0, 0, b, m.g7, [], m.nw && m.ns != b.ns⟩

/-- ROUTINE_START (R288, R289): the oldest accepted message's routine starts, once the bank is free; its start is an acquire (R291). -/
def execRoutineStart (c : CoreName) (s : State) : Host.Outcome State Fault Refusal :=
  let k := s.getCore c
  match k.msg.inbox with
  | m :: rest =>
    match m.bind with
    | some b =>
      if k.msg.bank.isSome ∨ k.ctl.stopped ∨ s.dieHalted (dieOf c) then .next s
      else .next (((s.acquireOn c).modCore c fun k => k.modMsg fun x => Msg.setBank { x with inbox := rest } (some (m.bank b))).received c 1)
    | none => .next s
  | [] => .next s

/-- Forms of the message instructions (R289, R295, R424). -/
def Form.message : Form := { Form.control with exchange := true }

/-- MRET (R298). -/
def execMret (s : State) : Host.Outcome State Fault Refusal :=
  run .shared s do
    check s (decide (s.seq = .routine))
    waitFor (s.oc.ocl == 0 && s.oc.ocs == 0) .counter
    s.release
    if s.tt then return (s.settle.endRoutine.settleInstalls).failChamber s.ctx s.cid s.haltCode (s.who s.cur s.seq)
    else return s.settle.endRoutine.settleInstalls

/-! ## Sending (R296) -/

/-- The core that a destination word names. -/
def wordCore (dw : Word) : CoreName := (bits dw 49 5).setWidth 16 <<< 8 ||| (bits dw 41 8).setWidth 16

/-- The unit that a destination word names. -/
def wordUnit (dw : Word) : UnitName := ⟨bits dw 54 10, bits dw 49 5, bits dw 41 8, false⟩

/-- The word names a core of the acting core's partition, on this package or another (R41). -/
def State.inPartition (s : State) (dw : Word) : Bool :=
  let die := (bits dw 49 5).toNat
  decide (die < 16) && ((s.partOf (dieOf s.cur)).bind s.part).any fun p =>
    if bits dw 54 10 = s.mgmt.domain.pkg then p.dies.contains die else p.remote.contains (bits dw 54 10, die)

/-- The destination cannot be reached: another package, and no scale-up ports (R40). -/
def State.unreachable (s : State) (dw : Word) : Bool := bits dw 54 10 != s.mgmt.domain.pkg && s.mgmt.domain.fused

/-- The checks of a destination word (R296). -/
def State.checkTarget (s : State) (dw : Word) : Try Unit :=
  if s.unreachable dw then .ok ()
  else if s.inPartition dw = false then raise 0x05 dw
  else if isService (wordCore dw) ∧ s.pm = 0 then denied s
  else .ok ()

/-- Inject a class message (R296): `ocs` rises, the register is held; `ksent` rises, where the message is injected and neither held at a
fence nor completed there (R280, R299). -/
def State.sendMessage (s : State) (d : Reg) (dw : Word) (args data : List Word) : State :=
  let id := s.fresh
  let s := { s with fresh := id + 1 }
  let s := (s.hold d).modOc fun o => { o with ocs := o.ocs + 1 }
  let fenced := decide (bits dw 54 10 = s.mgmt.domain.pkg) && mapSt (s.mapEntry (bits dw 49 5).toNat) != 0
  let s := if fenced then s else s.modK fun r => { r with ksent := r.ksent + 1 }
  s.post s.unit (wordUnit dw) (bits dw 0 10).toNat s.ctx (bit dw 10) (bit s.thr.kstatus 2) (.msg args data)
    (.send s.cur s.seq d dw s.taskId id)

/-- Send, or complete at once with status word 4 (R296). -/
def State.sendOr4 (s : State) (d : Reg) (dw : Word) (args data : List Word) : Try State := do
  if s.oc.ocs ≥ 32 then stall .counter
  if s.unreachable dw then return (s.setG d 4).next 4
  if s.canPost s.unit (wordUnit dw) 1 = false then stall .space
  return (s.sendMessage d dw args data).next 4

/-- The form of a destination word, and of the argument registers (R296). -/
def State.checkSend (s : State) (dw : Word) (b : Reg) : Try Unit :=
  check s (decide (b.toNat ≤ 28) && decide (64 ≤ (bits dw 0 10).toNat) && bits dw 11 30 == 0)

/-- The four arguments, from g[b] (R296). -/
def State.arguments (s : State) (b : Reg) : Try (List Word) := do
  let w ← s.src b
  let x ← s.src (b + 1)
  let y ← s.src (b + 2)
  let z ← s.src (b + 3)
  return [w, x, y, z]

/-- SEND (R296). -/
def execSend (d a b : Reg) (s : State) : Host.Outcome State Fault Refusal :=
  run { Form.message with inRoutine := true } s do
    let dw ← s.src a
    s.checkSend dw b
    let args ← s.arguments b
    s.dst d
    s.checkTarget dw
    s.release
    s.sendOr4 d dw args []

/-- SENDD (R296): with 128 bytes of data, read word by word. -/
def execSendd (d a b : Reg) (s : State) : Host.Outcome State Fault Refusal :=
  run { Form.message with inRoutine := true } s do
    let dw ← s.src a
    s.checkSend dw b
    let args ← s.arguments b
    s.dst d
    let va := (args[3]?).getD 0
    let segs ← s.accessSegs va 128 4 .load
    s.checkTarget dw
    s.release
    match s.gather (segPieces segs) with
    | .wait t => return t
    | .failed st a => s.settle.refused st va a
    | .got bs => s.sendOr4 d dw args (packWords 16 bs)

/-- Change the acting registers of a task wherever it is: on core `c` or another that it has resumed on, or in the state saved of it (R64,
R189, R190). -/
def State.forTask (s : State) (c : CoreName) (task : Nat) (f : Core → Core) (g : Saved → Saved) : State :=
  let runs (d : CoreName) : Bool := (s.getCore d).ctl.task.any (·.id == task)
  if runs c then s.modCore c f
  else if let some d := s.knownCores.find? runs then s.modCore d f
  else (s.modSaved fun v => if v.task.id = task then g v else v).reframe task

/-- A register of sequencer `q` of a saved task is written and no longer held (R174, R189). -/
def Saved.finish (v : Saved) (q : Seq) (r : Reg) (x : Option Word) (f : Counters → Counters) : Saved :=
  let put (g : Vector Word 32) : Vector Word 32 := x.elim g fun x => regSet g r x
  { v with
    thr := if q = .control then { v.thr with g := put v.thr.g } else v.thr
    vs := if q = .vector then { v.vs with g := put v.vs.g } else v.vs
    ms := if q = .matrix then { v.ms with g := put v.ms.g } else v.ms
    holds := v.holds.filter fun h => !(h.q == q && h.reg == r)
    oc := f v.oc }

/-- A register of sequencer `q` is written and no longer held. -/
def Core.finish (k : Core) (q : Seq) (r : Reg) (x : Option Word) (f : Counters → Counters) : Core :=
  ((x.elim k fun x => k.setReg q r x).release q r).modOc q f

/-- The status word of an engine operation has come, and nothing has read it. -/
def Hold.arrive (q : Seq) (r : Reg) (h : Hold) : Hold := if h.q = q ∧ h.reg = r then { h with ready := true } else h

/-- The status word of an engine operation of a saved task, into its register, which stays marked until an instruction reads it
(R146, R308). -/
def Saved.arrive (v : Saved) (q : Seq) (r : Reg) (x : Word) (f : Counters → Counters) : Saved :=
  if r = 0 then { v with oc := f v.oc } else { v.finish q r (some x) f with holds := v.holds.map (·.arrive q r) }

/-- The same on a core. -/
def Core.arrive (k : Core) (q : Seq) (r : Reg) (x : Word) (f : Counters → Counters) : Core :=
  if r = 0 then k.modOc q f else ((k.setReg q r x).modCtl fun c => { c with holds := c.holds.map (·.arrive q r) }).modOc q f

/-- The completion of a message comes (R296): the register, the counter, and what failed. -/
def State.sendDone (s : State) (c : CoreName) (q : Seq) (r : Reg) (dw : Word) (task : Nat) (st : Byte) (body : Body) : State :=
  let x : Option Word := if st = 0 then some (match body with
    | .value (w :: _) => w
    | _ => 0) else none
  let less (o : Counters) : Counters := { o with ocs := o.ocs - 1 }
  let s := if q = .routine then s.modCore c fun k => k.finish .routine r x less
    else s.forTask c task (fun k => k.finish q r x less) (fun v => v.finish q r x less)
  s.notify c q task st dw

/-- MESSAGE_COMPLETION (R296). -/
def execMessageCompletion (k : Nat) (s : State) : Host.Outcome State Fault Refusal :=
  match s.fab.outst[k]? with
  | some o =>
    match o.answer, o.purpose with
    | some a, .send c q r dw task _ => .next ((s.forget o).sendDone c q r dw task a.1 a.2)
    | _, _ => .next s
  | none => .next s

/-! ## Bindings (R283 to R285) -/

/-- Read `n` bytes at `va`, aligned to `align`, as plain doubleword loads. -/
def State.readBlock (s : State) (va : Word) (n align : Nat) : Try (List Byte ⊕ State) := do
  let ps ← s.accessDwords va n align .load
  match s.gather ps with
  | .got bs => return .inl bs
  | .wait t => return .inr t
  | .failed st a => return .inr (← s.settle.refused st va a)

/-- The form of a class operand (R284). -/
def State.classOf (s : State) (x : Word) : Try (BitVec 10) := do
  check s (bits x 11 53 == 0 && decide (64 ≤ (bits x 0 10).toNat))
  return bits x 0 10

/-- The global address of a polled binding's ring: none where BUF is no frame of HBM4E or LPDDR-6 (R283). -/
def State.ringFrame (s : State) (buf : Word) : Try (Option Nat) :=
  if buf.toNat % 4096 ≠ 0 then .ok none
  else
    match s.translate buf .store with
    | .ok pa => .ok (if s.place pa = .memory then some pa else none)
    | .error (.trap _) => .ok none
    | .error e => .error e

/-- The ring address that a binding block gives, none where it breaks the rules of R283. -/
def State.blockRing (s : State) (poll : Bool) (bs : List Byte) : Try (Option Nat) :=
  let entry := field bs 0 8
  let buf := field bs 0x10 8
  if field bs 0x18 8 ≠ 0 then .ok none
  else if poll then
    if entry = 0 ∧ field bs 8 8 = 0 then s.ringFrame (BitVec.ofNat 64 buf) else .ok none
  else .ok (if entry % 2 = 0 ∧ entry < 2 ^ 57 ∧ buf = 0 then some 0 else none)

/-- Send an install to every core of the partition and wait; the task may leave meanwhile (R284). The install has the number of the wait. -/
def State.sendInstall (s : State) (d : Reg) (b : Bind) (remove was : Bool) : State :=
  (s.setAwaitAs 1 true true).modFab fun f => { f with
    installs := f.installs ++ [⟨{ b with id := s.fresh }, remove, was, d, s.cur, s.taskId, []⟩] }

/-- The install that the acting instruction waits for. -/
def State.installing (s : State) : Option Install :=
  s.fab.installs.find? fun i => s.pendingAnswer.any fun a => a.id == i.bind.id

/-- Wait for the install to end (R284). -/
def State.finishInstall (s : State) (d : Reg) : Try State :=
  match s.installing with
  | none => stall .answer
  | some i => if s.installEnded i then .ok (((s.endInstall i).setG d i.result).next 4) else stall .answer

/-- CBIND (R284). -/
def execCbind (d a b : Reg) (s : State) : Host.Outcome State Fault Refusal :=
  run .message s do
    let x ← s.src a
    let va ← s.src b
    s.dst d
    let cls ← s.classOf x
    let poll := bit x 10
    if s.sentAnswer.isSome then s.finishInstall d
    else
      match ← s.readBlock va 32 8 with
      | .inr t => return t
      | .inl bs =>
        match ← s.blockRing poll bs with
        | none => return (s.setG d 3).next 4
        | some ring =>
          let e := s.core.binding s.ctx cls
          if e.any fun e => (e.polled && e.task != s.taskId) || (poll && !e.polled) then return (s.setG d 2).next 4
          else
            s.release
            return s.sendInstall d ⟨0, s.ctx, cls, poll, BitVec.ofNat 64 (field bs 0 8), BitVec.ofNat 64 (field bs 8 8), ring, s.cid,
              s.pm, bit s.thr.kstatus 2, s.cur, if poll then s.taskId else 0⟩ false e.isSome

/-- CUNBIND (R285). -/
def execCunbind (d a : Reg) (s : State) : Host.Outcome State Fault Refusal :=
  run .message s do
    let x ← s.src a
    s.dst d
    let cls ← s.classOf x
    if s.sentAnswer.isSome then s.finishInstall d
    else
      match s.core.binding s.ctx cls with
      | none => return (s.setG d 1).next 4
      | some e =>
        if e.polled && e.task != s.taskId then return (s.setG d 2).next 4
        else
          s.release
          return s.sendInstall d e true true

/-- The messages of core `c`'s unbound queue that a new binding takes, in the order of acceptance (R286). -/
def State.bindWaiting (s : State) (c : CoreName) (b : Bind) : State :=
  let mine (m : Inbound) : Bool := m.ctx == b.ctx && m.cls == b.cls
  let ms := (s.getCore c).msg.unbound.filter mine
  let s := s.modCore c fun k => k.modMsg fun x => { x with unbound := x.unbound.filter fun m => !mine m }
  ms.foldl (fun s m => s.deliver c b m) s

/-- The entry of a class at core `c` is emptied: messages that a polled binding held are discarded there and count as received (R285,
R294, R299). -/
def State.unbindAt (s : State) (c : CoreName) (b : Bind) : State :=
  let old (x : Bind) : Bool := x.ctx == b.ctx && x.cls == b.cls
  let lost := (s.getCore c).msg.fast.filter fun m => m.bind.any old
  let rings := (s.getCore c).msg.binds.filter fun x => old x && x.polled && x.core == c
  ((s.received c (lost.length + (rings.map s.ringCount).sum)).emptyRings rings).modCore c fun k => k.modMsg fun x => { x with
    fast := x.fast.filter fun m => !(m.bind.any old), binds := x.binds.filter fun x => !old x }

/-- A class is bound anew: messages accepted before keep the old binding, and where the task polls them are taken first (R284, R302). A polled
binding with the same ring is the same to them. -/
def Msg.rebind (m : Msg) (b : Bind) : Msg :=
  let old (x : Bind) : Bool := x.ctx == b.ctx && x.cls == b.cls
  { m with
    fast := m.fast.map fun x => if x.bind.any fun y => old y && y.buf == b.buf then { x with bind := some b } else x
    binds := b :: m.binds.filter fun x => !(old x && (!x.polled || x.buf == b.buf)) }

/-- Install `i` reaches core `c` (R284, R285): the entry is replaced or removed, and messages that wait for a binding take it. -/
def State.installAt (s : State) (c : CoreName) (i : Install) : State :=
  if i.remove then s.unbindAt c i.bind
  else
    (s.modCore c fun k => k.modMsg (·.rebind i.bind)).bindWaiting c i.bind

/-- An instruction waits for the install. -/
def State.awaitsInstall (s : State) (i : Install) : Bool :=
  (s.knownCores.any fun c => (s.getCore c).ctl.awaits.any (·.id == i.bind.id)) || s.allSaved.any fun v => v.awaits.any (·.id == i.bind.id)

/-- An install that has reached every core, and that nothing waits for, is no more. -/
def State.dropInstalls (s : State) : State :=
  s.modFab fun f => { f with installs := f.installs.filter fun i => s.awaitsInstall i || decide (i.done.length < s.coreCount i.core) }

/-- CLASS_INSTALL (R284): install `k / 4096` reaches core `k mod 4096`. -/
def execClassInstall (k : Nat) (s : State) : Host.Outcome State Fault Refusal :=
  match s.fab.installs[k / 4096]? with
  | none => .next s
  | some i =>
    let c : CoreName := BitVec.ofNat 16 (k % 4096)
    let p := ((s.partOf (dieOf i.core)).bind s.part).any fun p => p.dies.contains (dieOf c)
    if p = false ∨ i.done.contains c then .next s
    else
      let s := s.modFab fun f => { f with installs := setAt (k / 4096) { i with done := c :: i.done } f.installs }
      .next (s.installAt c i).settleInstalls.dropInstalls

/-! ## Taking a polled message (R293) -/

/-- The oldest message under a polled binding: its source, arguments, NW and NS, and the state without it. -/
def State.oldestUnder (s : State) (b : Bind) : Option (Word × List Word × Bool × Bool × State) :=
  match findAt (fun m => m.bind.any (·.id == b.id)) s.core.msg.fast with
  | some i =>
    (s.core.msg.fast[i]?).map fun m =>
      (m.g7, m.args, m.nw, m.ns, { s with core := s.core.modMsg fun x => { x with fast := dropAt i x.fast } })
  | none =>
    let head := readWord s.mem b.buf
    if head = readWord s.mem (b.buf + 8) then none
    else
      let a := ringEntrySlot b.buf head
      let flags := readByte s.mem (a + 40)
      some (readWord s.mem a, (List.range 4).map fun i => readWord s.mem (a + 8 + 8 * i), bit flags 0, bit flags 1,
        s.deviceWrite b.buf (toBytes 8 (head + 1).toNat))

/-- The oldest message of a polled class for this task; those accepted before the class was bound anew go first (R284, R293). -/
def State.oldestMessage (s : State) (b : Bind) : Option (Word × List Word × Bool × Bool × State) :=
  (s.core.msg.binds.filter fun x => x.polled && x.ctx == b.ctx && x.cls == b.cls && x.task == b.task).reverse.findSome? s.oldestUnder

/-- MPOLL (R293). -/
def execMpoll (d a b : Reg) (s : State) : Host.Outcome State Fault Refusal :=
  run .message s do
    let x ← s.src a
    check s (bits x 10 54 == 0 && decide (64 ≤ (bits x 0 10).toNat) && decide (b.toNat ≤ 28))
    s.dst d
    s.dst b
    s.dst (b + 1)
    s.dst (b + 2)
    s.dst (b + 3)
    match (s.core.binding s.ctx (bits x 0 10)).filter fun e => e.polled && e.task == s.taskId with
    | none => return (s.setG d 2).next 4
    | some e =>
      match s.oldestMessage e with
      | none => return (s.setG d 0).next 4
      | some (src, args, nw, ns, t) =>
        if nw && ns != bit s.thr.kstatus 2 then raise 0x06 (src &&& ~~~0x3FF#64)
        let t := (List.range 4).foldl (fun (t : State) i => t.setG (b + BitVec.ofNat 5 i) ((args[i]?).getD 0)) t
        let t := (t.received t.cur 1).setG d (src ||| 1#64)
        return t.acquire.next 4

end Sys2Proof.Machine
end

