-- ==== Sys2Proof/Machine/Pages.lean ====
section
/-! DEFINITION. The page extension (R259 to R266): `kvdec`, `kvscore`, `topk`. -/

namespace Sys2Proof.Machine

/-- Major 0x37: the page group; not in a hinge pair (R422). -/
def Form.page : Form := { Form.vecPfx with group := 4, inPair := false }

/-- Read runs of words of a page at `va`, every check of R257 made for all of them first: the bytes, the state that waits, or the
state in which the instruction has ended with a fault found away from the core (R199). -/
def State.readRuns (s : State) (va : Word) (runs : List (Nat × Nat)) : Try (List Byte ⊕ State) := do
  if s.core.mem.loads.any fun l => l.q == s.seq && l.acq then stall .release
  let segs ← runs.mapM fun r => s.segments (va + BitVec.ofNat 64 r.1) r.2 .load
  if segs.flatten.any fun g => (s.twins g.2.1).any fun a => s.core.locked a g.2.2 then raise 0x04 va
  match s.gatherAs true (segPieces segs.flatten) with
  | .got bs => return .inl bs
  | .wait t => return .inr t
  | .failed st a => return .inr ((← s.refused st va a).next 4)

/-- Bytes 0x00 to 0x13 of a page: its header, and what shares its last word. -/
def headerRun : Nat × Nat := (0, 20)

/-- Byte `i` of a list. -/
def byteAt (bs : List Byte) (i : Nat) : Nat := ((bs[i]?).getD 0).toNat

/-- The header of a page is accepted (R261): VER at 0x00, KIND at 0x02, NTOK at 0x03. -/
def pageOk (bs : List Byte) : Bool :=
  byteAt bs 1 == 1 && decide (1 ≤ byteAt bs 3 ∧ byteAt bs 3 ≤ 224) && decide (byteAt bs 2 ≤ 1)

/-- KVDEC (R263). -/
def execKvdec (p : Option (BitVec 3)) (d a b : Reg) (s : State) : Host.Outcome State Fault Refusal :=
  run .page s do
    let va ← s.src a
    let y ← s.src b
    let t := (bits y 0 8).toNat
    let h := (bits y 8 1).toNat
    check s (bits y 9 55 == 0 && decide (t < 224))
    let fd ← (match s.pending.map fun p => fmtOf p.fd with
      | none => .ok .fp16
      | some (some .fp16) => .ok .fp16
      | some (some .bf16) => .ok .bf16
      | _ => illegal s)
    if va.toNat % 16384 ≠ 0 then raise 0x03 va
    match ← s.readRuns va [headerRun, (0x140 + 4 * t, 4), (0x4C0 + 64 * t + 32 * h, 32)] with
    | .inr t => return t
    | .inl bs =>
      check s (pageOk bs)
      let scales := bs.drop 20
      let vals := bs.drop 24
      return (s.setLanes .h16 p d fun i =>
        if byteAt bs 3 ≤ t then 0
        else
          let e := byteAt scales (2 * h + i / 32)
          let v := byteAt vals (i / 2) / 16 ^ (i % 2) % 16
          encodeNum fd false false (if e = 255 then .quiet else (decodeM4 v).scale ((e : Int) - 127))).next 4

/-- `rpi32`: the least FP32 value not below an exact value (R264). -/
def rpi32 (x : Num) : W32 :=
  let y := BitVec.ofNat 32 (encodeIeee 8 23 true x)
  match x with
  | .fin m _ =>
    if (f32 y).lt x then y + 1
    else if m < 0 ∧ y = 0xFF800000#32 then 0xFF7FFFFF#32
    else y
  | _ => y

/-- The term of one channel (R264). -/
def scoreTerm (q hi lo : Num) : Num :=
  let a := q.mul hi
  let b := q.mul lo
  if a.isNaN ∨ b.isNaN then .quiet else if a.lt b then b else a

/-- The score of a page (R264): q, maxima, minima and SSCALE. -/
def scoreOf (q hi lo : List Num) (ss : Nat) : W32 :=
  if ss = 255 then 0x7FC00000#32
  else
    let sc (x : Num) : Num := x.scale ((ss : Int) - 127)
    let s := (List.range 128).foldl (fun (acc : Num) c =>
      acc.add (scoreTerm ((q[c]?).getD .quiet) (sc ((hi[c]?).getD .quiet)) (sc ((lo[c]?).getD .quiet)))) (.zero false)
    if s.isNaN then 0x7FC00000#32 else rpi32 s

/-- KVSCORE (R264). -/
def execKvscore (d a b : Reg) (s : State) : Host.Outcome State Fault Refusal :=
  run .page s do
    let va ← s.src b
    check s (!bit a 0)
    let fa ← (match s.pending.map fun p => fmtOf p.fa with
      | none => .ok .fp16
      | some (some .fp16) => .ok .fp16
      | some (some .bf16) => .ok .bf16
      | _ => illegal s)
    if va.toNat % 16384 ≠ 0 then raise 0x03 va
    match ← s.readRuns va [headerRun, (0x40, 256)] with
    | .inr t => return t
    | .inl bs =>
      check s (pageOk bs)
      let ns := s.ns
      if (byteAt bs 17 % 2 == 1) ≠ ns then raise 0x06 va
      let q := (elements 16 64 (s.v a) ++ elements 16 64 (s.v (a + 1))).map (decodeNum fa false)
      let sum := (bs.drop 20).map fun x => decodeM8 ns x.toNat
      let score := scoreOf q (sum.take 128) (sum.drop 128) (byteAt bs 16)
      return (s.setV d (BitVec.ofNat 1024 ((s.v d).toNat * 2 ^ 32 + score.toNat))).next 4

/-- A candidate of `topk`: its score, its tag, and where it comes from in the order of R265. -/
structure Ranked where
  score : Num
  bits : Nat
  tag : Nat
  deriving DecidableEq, Repr

/-- `a` ranks before `b`: higher score, then lower tag. -/
def Ranked.before (a b : Ranked) : Bool := b.score.lt a.score || (a.score.eq b.score && decide (a.tag < b.tag))

/-- Insert after every candidate that does not rank below. -/
def rankIn (a : Ranked) : List Ranked → List Ranked
  | [] => [a]
  | b :: l => if a.before b then a :: b :: l else b :: rankIn a l

/-- The candidates in rank order, equals in the order they are given (R265). -/
def rankAll (l : List Ranked) : List Ranked := l.foldl (fun acc a => rankIn a acc) []

/-- TOPK (R265). -/
def execTopk (p : Option (BitVec 3)) (d a b : Reg) (s : State) : Host.Outcome State Fault Refusal :=
  run .page s do
    let y ← s.src b
    let k := (bits y 32 6).toNat
    check s (!bit d 0 && decide (1 ≤ k ∧ k ≤ 32) && bits y 38 26 == 0)
    let of (tag x : Nat) : Ranked := ⟨decodeNum .fp32 false x, x, tag⟩
    let tags := s.lanes .w32 d
    let scores := s.lanes .w32 (d + 1)
    let old := (List.range k).map fun i => of (lane tags i) (lane scores i)
    let x := s.lanes .w32 a
    let new := ((List.range 32).filter (s.active .w32 p)).map fun i => of (((bits y 0 32).toNat + i) % 2 ^ 32) (lane x i)
    let best := (rankAll ((old ++ new).filter fun c => !c.score.isNaN)).take k
    let fillTo (l : List Nat) (e : Nat) : VWord := vectorOf 32 (l ++ List.replicate (32 - l.length) e)
    let t := s.setV d (fillTo (best.map (·.tag)) 0xFFFFFFFF)
    return (t.setV (d + 1) (fillTo (best.map (·.bits)) 0x7FC00000)).next 4

end Sys2Proof.Machine
end

