-- ==== Sys2Proof/Machine/Streamer.lean ====
section
/-! DEFINITION. Streamer operations (R303 to R327): issue, the units' steps, completion, and the instructions of major 0x44. -/

namespace Sys2Proof.Machine

/-! ## Operations in progress -/

/-- Operation `id` of core `c`. -/
def State.findOp (s : State) (c : CoreName) (id : Nat) : Option EngineOp := (s.getCore c).mem.ops.find? (·.id == id)

/-- Change an operation. -/
def State.modOp (s : State) (c : CoreName) (id : Nat) (f : EngineOp → EngineOp) : State :=
  s.modCore c fun k => k.modMem fun m => { m with ops := m.ops.map fun o => if o.id = id then f o else o }

/-- The progress of one piece. -/
def State.setMove (s : State) (c : CoreName) (id i : Nat) (p : Progress) : State :=
  s.modOp c id fun o => { o with moves := (o.moves[i]?).elim o.moves fun m => setAt i { m with st := p } o.moves }

/-- A piece that has ended. -/
def Progress.ended : Progress → Bool
  | .done => true
  | .failed _ => true
  | _ => false

/-- The pieces `is` that have not ended fail with a cause. -/
def State.failMoves (s : State) (c : CoreName) (id : Nat) (is : List Nat) (code : Byte) : State :=
  is.foldl (fun s i => if ((s.findOp c id).bind fun o => o.moves[i]?).any fun m => !m.st.ended then s.setMove c id i (.failed code) else s) s

/-! ## Issue (R312) -/

/-- Wait for a counter, for lock entries and ranges, and as a release (R27, R145, R312): ranges are (ENG, destination, base,
bytes). -/
def State.mayIssue (s : State) (ocx : Bool) (ranges : List (Eng × Bool × Nat × Nat)) : Try Unit := do
  waitFor (decide ((if ocx then s.core.ctl.oc.ocx else s.core.ctl.oc.occ) < 16)) .counter
  waitFor (decide (s.core.mem.locks.length + ranges.length ≤ 16)) .lock
  waitFor (!(ranges.any fun r => (s.twins r.2.2.1).any fun a => s.core.locked a r.2.2.2)) .lock
  s.release

/-- Register an operation: its ranges, its counter, its register (R145, R308). The operation's name is `s.fresh`. -/
def State.issueOp (s : State) (ranges : List (Eng × Bool × Nat × Nat)) (o : EngineOp) : State :=
  let id := s.fresh
  let s := { s with fresh := id + 1 }
  let s := s.modMem fun m => { m with
    ops := m.ops ++ [{ o with id := id, task := s.taskId, q := s.seq }]
    locks := m.locks ++ ranges.map fun r => ⟨r.1, r.2.1, o.ocx, r.2.2.1, r.2.2.2, [id]⟩ }
  (s.hold o.reg).modOc fun x => if o.ocx then { x with ocx := x.ocx + 1 } else { x with occ := x.occ + 1 }

/-- An operation as it issues. -/
def newOp (kind : OpKind) (d : Reg) (fn : BitVec 3) (tile : Option TileNo) (va : Word) (moves : List Move) : EngineOp :=
  ⟨0, 0, .control, kind, d, fn, false, tile, va, moves, 0, 0, 0⟩

/-- Bytes of the page that maps `va`: a scratch page, or the winner's (R126, R399). -/
def State.pageBytes (s : State) (va : Word) : Nat :=
  if (s.scratchOf va).isSome then 4096 else (winner s.core.mem.tlb s.ctx va).elim (2 ^ 14) fun e => 2 ^ e.shift

/-- Translate `n` bytes from `va` page by page (R312). What no entry maps traps PGF; a page of this core's own SRAM is looked at later. -/
def State.translatePages (s : State) (need : Need) : Nat → Word → Nat → Try Unit
  | 0, _, _ => .ok ()
  | k + 1, va, n => do
    if (s.scratchOf va).isNone then let _ ← s.translate va need
    let left := s.pageBytes va - va.toNat % s.pageBytes va
    if n ≤ left then return () else s.translatePages need k (va + BitVec.ofNat 64 left) (n - left)

/-- Page addresses of the `n` bytes at `va`, of 4 KiB. -/
def pagesIn (va : Word) (n : Nat) : List Word :=
  (List.range ((va.toNat % 4096 + n + 4095) / 4096)).map fun i => (va &&& ~~~0xFFF#64) + BitVec.ofNat 64 (4096 * i)

/-- `n` bytes from `va` lie in one page, else ALIGN at the first byte beyond it (R312). -/
def State.spanInPage (s : State) (va : Word) (n : Nat) : Try Unit :=
  let size := s.pageBytes va
  if va.toNat % size + n > size then raise 0x03 (BitVec.ofNat 64 ((va.toNat / size + 1) * size)) else .ok ()

/-- The physical address of a memory side that is translated, in one page, and in no free, scratch or stash page of this core; PGF
otherwise (R312). -/
def State.spanAllowed (s : State) (va : Word) (n : Nat) (need : Need) : Try Nat := do
  if (s.scratchOf va).isSome then raise 0x05 va
  let pa ← s.translate va need
  match (pagesIn va n).find? fun p => (s.scratchOf p).isSome with
  | some p => raise 0x05 p
  | none =>
    let alien (p : Word) : Bool :=
      let a := pa + p.toNat - va.toNat
      s.place a == .sram s.cur && (s.core.mem.pages.get (pageOf a)).role != .tile
    match (pagesIn va n).find? alien with
    | some p => raise 0x05 (if p.toNat < va.toNat then va else p)
    | none => return pa

/-- The memory side of an engine operation, at issue (R312): one run of bytes. -/
def State.engineSpan (s : State) (va : Word) (n : Nat) (need : Need) : Try Nat := do
  s.translatePages need (n / 4096 + 2) va n
  s.spanInPage va n
  s.spanAllowed va n need

/-- Pieces from memory at `pa` to the tile at `ta`. -/
def movesIn (va : Word) (pa ta off n : Nat) : List Move :=
  (linePieces pa n).map fun p => ⟨some (pa + p.1), some (ta + p.1), va + BitVec.ofNat 64 p.1, p.2, off + p.1, [], false, .todo⟩

/-- Pieces of `n` zero bytes that the client writes at `ta`. -/
def zeroPieces (ta off n : Nat) : List Move :=
  (linePieces ta n).map fun p => ⟨none, some (ta + p.1), 0, p.2, off + p.1, List.replicate p.2 0, false, .todo⟩

/-- Pieces of data for memory at `pa`, each poisoned where its bytes of the tile are: `tile` gives the address there of the first
byte, and the tile's bytes for each byte of data (R310). -/
def State.movesOut (s : State) (va : Word) (pa off : Nat) (data : List Byte) (tile : Option (Nat × Nat)) : List Move :=
  (linePieces pa data.length).map fun p =>
    ⟨tile.map fun t => t.1 + t.2 * p.1, some (pa + p.1), va + BitVec.ofNat 64 p.1, p.2, off + p.1, (data.drop p.1).take p.2,
      tile.any fun t => s.poisoned (t.1 + t.2 * p.1) (t.2 * p.2), .todo⟩

/-! ## The client's own part (R303, R304) -/

/-- Set the poison flag of the operation's tile, wherever its task is (R310). -/
def State.poisonTile (s : State) (c : CoreName) (o : EngineOp) : State :=
  match o.tile with
  | none => s
  | some t =>
    s.forTask c o.task (fun k => k.setTile t (setBit (k.tile t) 15 true))
      (fun v => { v with tiles := v.tiles.set t.toNat (setBit (v.tiles.get t.toFin) 15 true) t.isLt })

/-- The memory side of a piece, none where the client alone makes it (R303). -/
def EngineOp.side (o : EngineOp) (m : Move) : Option Nat :=
  match o.kind with
  | .copyIn => m.src
  | .gather => m.src
  | .kvmove => m.src
  | .copyOut => m.dst
  | .scatter => m.dst
  | .fill => m.dst
  | .mst => m.dst
  | _ => none

/-- Where a unit finds the bytes at an address of an operation (R411, R412): with it, at another unit, or, while the line has not moved
to it, nowhere yet. -/
inductive Serving
  | here (pa : Nat)
  | redir (pa : Nat)
  | hold
  deriving DecidableEq, Repr

/-- The address as unit `u` serves it (R411). -/
def State.atUnit (s : State) (u : UnitName) (a : Nat) : Serving :=
  match s.moving a with
  | .wait => .hold
  | .moved b => if s.ownerUnit b = u then .here b else .redir b
  | .serve =>
    if s.ownerUnit a = u then .here a
    else if s.homes.migrations.any fun m => decide (m.old ≤ a ∧ a < m.old + 128 * m.lines) then .hold
    else .redir a

/-- Write a piece's bytes to this core's own pages; it waits for a rebuild, and for room for its deltas (R321, R325). -/
def State.pumpWrite (s : State) (c : CoreName) (id i : Nat) (m : Move) (d : Nat) (bs : List Byte) : State :=
  let u := coreUnit s c
  if s.codedStall d bs.length ∨ s.deltaRoom u d bs.length = false then s
  else
    let t := s.engineWrite u d bs c id
    (if m.poison then t.poisonLine d else t).setMove c id i .done

/-- Push a piece's bytes to the unit that owns `d` (R303). -/
def State.pushPiece (s : State) (c : CoreName) (id i : Nat) (m : Move) (d : Nat) : State :=
  let u := coreUnit s c
  if s.canPost u (s.ownerUnit d) 1 then
    (s.post u (s.ownerUnit d) 10 0 false false (.copyd c id i d m.data m.poison) (.engine c id i)).setMove c id i .sent
  else s

/-- Ask the unit that owns `b` now for a piece whose line has moved away from this core (R412), if it has not been asked. -/
def State.askMoved (s : State) (c : CoreName) (o : EngineOp) (i b : Nat) : State :=
  let u := coreUnit s c
  let v := s.ownerUnit b
  let body : Body := if o.kind = .gather then .gsub c o.id [[i]] else .copyq c o.id
  if (s.fab.outst.any fun x => decide (x.dst = v ∧ x.body = body)) ∨ s.canPost u v 1 = false then s
  else s.post u v (if o.kind = .gather then 11 else 9) 0 false false body (.engine c o.id 0)

/-- Send a line of the tile that a `bseal` copies to the slice (R341). -/
def State.pushFill (s : State) (c : CoreName) (o : EngineOp) (i : Nat) (m : Move) : State :=
  match o.kind, o.tile with
  | .bseal v p q, some t =>
    if s.canPost (coreUnit s c) v 1 then
      (s.post (coreUnit s c) v 22 0 false false (.basin (.fill p q o.task t i m.data m.poison)) (.engine c o.id i)).setMove c o.id i .sent
    else s
  | _, _ => s

/-- Perform or send piece `i` of an operation, where the client can: bytes of its own tile pages at once, data for another unit as
COPYD. A memory side in a page of its own is served as by any unit (R411). -/
def State.pumpMove (s : State) (c : CoreName) (id : Nat) (i : Nat) : State :=
  match (s.findOp c id).bind fun o => (o.moves[i]?).map fun m => (o, m) with
  | none => s
  | some (o, m) =>
    let u := coreUnit s c
    let own (a : Option Nat) : Bool := a.any fun a => s.place a == .sram c
    match m.st, m.dst with
    | .todo, none => s.pushFill c o i m
    | .todo, some d =>
      if m.src.isSome && m.data.isEmpty then
        if own m.src && own m.dst && o.kind != .kvmove then
          match s.atUnit u (m.src.getD 0) with
          | .here a =>
            let t := s.pumpWrite c id i m d (s.readLine a m.bytes)
            if s.unreadable a m.bytes then
              (t.modOp c id fun x => { x with moves := (x.moves[i]?).elim x.moves fun (y : Move) => setAt i { y with poison := true } x.moves }).poisonTile c o
            else t
          | .redir b => s.askMoved c o i b
          | .hold => s
        else s
      else if own m.dst then
        match if o.side m = some d then s.atUnit u d else .here d with
        | .here a => s.pumpWrite c id i m a m.data
        | .redir b => s.pushPiece c id i m b
        | .hold => s
      else if o.kind = .copyOut ∨ o.kind = .mst then s.pushPiece c id i m d
      else s
    | _, _ => s

/-- Perform or send every piece that can go now. -/
def State.pump (s : State) (c : CoreName) (id : Nat) : State :=
  match s.findOp c id with
  | some o => (List.range o.moves.length).foldl (fun s i => s.pumpMove c id i) s
  | none => s

/-- Requests of an operation may go to each unit (R275). -/
def State.roomForUnits (s : State) (us : List UnitName) : Try Unit :=
  waitFor (us.eraseDups.all fun u => s.canPost s.unit u (us.filter (· == u)).length) .space

/-- The pieces with a side that names a hole (R36), by their numbers. -/
def State.holePieces (s : State) (ms : List Move) : List Nat :=
  (List.range ms.length).filter fun i => (ms[i]?).any fun m => m.src.any (fun a => s.place a == .hole) || m.dst.any fun a => s.place a == .hole

/-- Issue an operation whose requests are (unit, class, body of its name). A piece that reaches a hole fails (R36, R309). -/
def State.launchOp (s : State) (ranges : List (Eng × Bool × Nat × Nat)) (o : EngineOp)
    (reqs : List (UnitName × Nat × (Nat → Body))) : Try State := do
  s.mayIssue o.ocx ranges
  s.roomForUnits (reqs.map (·.1))
  let id := s.fresh
  let t := s.issueOp ranges o
  let t := reqs.foldl (fun (t : State) r => t.post t.unit r.1 r.2.1 t.ctx false false (r.2.2 id) (.engine t.cur id 0)) t
  return ((t.next 4).failMoves s.cur id (s.holePieces o.moves) 0x05).pump s.cur id

/-- The COPYQ request of an operation, where its memory side is not this core's own (R303). -/
def State.askUnit (s : State) (pa : Nat) : List (UnitName × Nat × (Nat → Body)) :=
  if s.place pa = .sram s.cur ∨ s.place pa = .hole then [] else [(s.ownerUnit pa, 9, fun id => .copyq s.cur id)]

/-! ## At the unit (R303, R304, R318) -/

/-- What a unit says of an engine access for core `c`: 0 where it performs it (R304, R309). -/
def State.engineStatus (s : State) (c : CoreName) (pa n : Nat) : Byte :=
  match s.place pa with
  | .memory => 0
  | .persist => 0
  | .host => 0
  | .sram x =>
    if ((s.getCore x).mem.pages.get (pageOf pa)).role ≠ .tile then 0x05
    else if x ≠ c ∧ (s.getCore x).locked pa n then 0x04
    else 0
  | _ => 0x05

/-- ST of the map entry of the die whose slice homes an address's line, through which a streamer reads and writes it (R14, R304): 0 where
no slice does. -/
def State.homeSt (s : State) (a : Nat) : Nat :=
  if s.place a = .memory ∧ (s.home a).pkg = s.mgmt.domain.pkg then (mapSt (s.mapEntry (s.home a).die.toNat)).toNat else 0

/-- The pieces of the operation whose memory side unit `u` owned at issue: its sub-operation there (R303). -/
def State.subOperation (s : State) (o : EngineOp) (u : UnitName) : List Nat :=
  (List.range o.moves.length).filter fun i => ((o.moves[i]?).bind o.side).any fun a => s.ownerUnit a == u

/-- The cause for which unit `u` refuses a sub-operation, which it judges whole as it begins it (R304); 0 for none. A request for a part
of one that it has refused is refused too. -/
def State.judge (s : State) (c : CoreName) (o : EngineOp) (u : UnitName) (is : List Nat) : Byte :=
  let piece (i : Nat) : Option Move := o.moves[i]?
  let refused (m : Move) : Option Byte := match m.st with
    | .failed e => if e = 0x04 ∨ e = 0x05 then some e else none
    | _ => none
  let all := s.subOperation o u
  match (is.filterMap piece).findSome? refused with
  | some e => e
  | none =>
    if (all.filterMap piece).any fun m => m.st != .todo then 0
    else ((all.filterMap piece).findSome? fun m => (o.side m).bind fun a =>
      if s.engineStatus c a m.bytes = 0 then none else some (s.engineStatus c a m.bytes)).getD 0

/-- Refuse the request and all of its sub-operation (R304). -/
def State.refuseSub (s : State) (r : Recv) (c : CoreName) (o : EngineOp) (code : Byte) : State :=
  (s.failMoves c o.id (s.subOperation o r.dst) code).answer r code .none

/-- The next piece of a request that has not begun: (number, piece, address on its memory side). -/
def EngineOp.nextPiece (o : EngineOp) (is : List Nat) : Option (Nat × Move × Nat) :=
  is.findSome? fun i => (o.moves[i]?).bind fun m => if m.st = .todo then (o.side m).map fun a => (i, m, a) else none

/-- A unit goes on with a request to read the pieces `is`: it reads the next one and pushes it in a COPYD to the unit that takes
it; the request is complete once every piece has been taken. It is redirected where the line has moved, and ends where the die of the
line's home slice is fenced (R280, R304, R411). -/
def State.serveRead (s : State) (r : Recv) (c : CoreName) (id : Nat) (is : List Nat) : State :=
  match s.findOp c id with
  | none => s.answer r 0 .none
  | some o =>
    let bad := s.judge c o r.dst is
    if bad ≠ 0 then s.refuseSub r c o bad
    else
      match o.nextPiece is with
      | none => if is.all fun i => (o.moves[i]?).all (·.st.ended) then s.answer r 0 .none else s.keep r
      | some (i, m, a) =>
        match s.atUnit r.dst a with
        | .redir b => s.answer r 0 (.redir b)
        | .hold => s.keep r
        | .here b =>
          let d := m.dst.getD 0
          let u := if o.kind = .kvmove then s.ownerUnit d else coreUnit s c
          if s.homeSt b = 2 then s.answer r 0x15 .none
          else if s.homeSt b = 0 ∧ s.canPost r.dst u 1 then
            let p := s.unreadable b m.bytes
            ((s.post r.dst u 10 0 false false (.copyd c id i d (s.readLine b m.bytes) p) (.engine c id i)).modOp c id fun o =>
              { o with moves := setAt i { m with st := .sent, poison := p } o.moves }).keep r
          else s.keep r

/-- Write bytes at a unit for a request of an operation, where no owner holds them and no rebuild is under way; the request waits
otherwise, and ends where the die of the line's home slice is fenced (R280, R304, R325): the state, and whether they are written. -/
def State.writeFor (s : State) (r : Recv) (a : Nat) (bs : List Byte) (poison : Bool) (c : CoreName) (id : Nat) : State × Bool :=
  if s.homeSt a = 2 then (s.answer r 0x15 .none, false)
  else if s.homeSt a = 1 then (s.keep r, false)
  else if s.codedStall a bs.length then (s.keepLost r, false)
  else if s.deltaRoom r.dst a bs.length = false then (s.keep r, false)
  else
    match if s.place a = .memory then s.reclaim (a / 128) (wordMask a bs.length) 0 else none with
    | some t => (t.keep r, false)
    | none =>
      let t := s.engineWrite r.dst a bs c id
      (if poison then t.poisonLine a else t, true)

/-- A unit goes on with a request to write the pieces `is`, in list order (R316, R318). -/
def State.serveWrites (s : State) (r : Recv) (c : CoreName) (id : Nat) (is : List Nat) : State :=
  match s.findOp c id with
  | none => s.answer r 0 .none
  | some o =>
    let bad := s.judge c o r.dst is
    if bad ≠ 0 then s.refuseSub r c o bad
    else
      match o.nextPiece is with
      | none => s.answer r 0 .none
      | some (i, m, a) =>
        match s.atUnit r.dst a with
        | .redir b => s.answer r 0 (.redir b)
        | .hold => s.keep r
        | .here d =>
          let x := s.writeFor r d m.data m.poison c id
          if x.2 then (x.1.setMove c id i .done).keep r else x.1

/-! ## Parity operations at their unit (R323, R324) -/

/-- The next half group of `stripe.upd` or `stripe.rec`: group, and offset in the shard arrays of its 128 bytes. -/
def halfAt (first n : Nat) : Nat := 256 * first + 128 * n

/-- What the owner of a line has returned waits for the rebuild to end (R325). -/
def State.returnedLost (s : State) (e : RegEntry) : Bool :=
  (s.fab.rxq.any fun r => r.stalled && decide (r.cls = 7 ∧ r.src = e.owner) && r.body.line == some e.line) ||
    s.fab.outst.any fun o =>
      match o.purpose, o.answer with
      | .rev l _ u, some (_, .wb _ _ _) => decide (l = e.line ∧ u = e.owner)
      | _, _ => false

/-- The owners of the lines `as` give up their words, which are written whole (R141): none where nobody owns any that have not come
back. -/
def State.reclaimAll (s : State) (as : List Nat) : Option State :=
  as.findSome? fun a =>
    if s.place a = .memory then
      match (s.ownersOf (a / 128) 0xFFFFFFFF#32).filter fun e => !s.returnedLost e with
      | [] => none
      | es => some (es.foldl (fun s e => s.revoke e 0xFFFFFFFF#32 false) s)
    else none

/-- One half group of a parity operation: the shards `outs` are written with what `f` makes of the six bytes; `bad`: the address of a
source that is unreadable. -/
def State.parityStep (s : State) (r : Recv) (c : CoreName) (o : EngineOp) (g : Region) (first count : Nat) (outs : List Nat)
    (f : List Byte → List Byte) (bad : Nat → Option Nat) : State :=
  let n := o.count / (128 * outs.length)
  if 2 * count ≤ n then s.answer r 0 .none
  else
    let off := halfAt first n
    let all := (List.range 6).map fun k => s.homeSt (s.located (g.base k + off))
    if all.contains 2 then s.answer r 0x15 .none
    else if all.contains 1 then s.keep r
    else
      match s.reclaimAll (outs.map fun k => s.located (g.base k + off)) with
      | some t => t.keep r
      | none =>
        let b := bad off
        ((s.writeShards g outs f off b.isSome).modOp c o.id fun x => { x with
          count := x.count + 128 * outs.length
          code := if x.code = 0 ∧ b.isSome then 0x0A else x.code
          addr := if x.code = 0 ∧ b.isSome then BitVec.ofNat 64 (b.getD 0) else x.addr }).keep r

/-- Go on with a parity operation: `stripe.upd` recomputes P and Q from the data as it is served (R323, R325), `stripe.rec` rebuilds the
shards of its mask (R324). -/
def State.serveParity (s : State) (r : Recv) (c : CoreName) (o : EngineOp) : State :=
  match o.kind with
  | .stripeUpd rid first count =>
    match s.region rid with
    | some g =>
      if bit g.lost 4 ∨ bit g.lost 5 then s.keepLost r
      else s.parityStep r c o g first count [4, 5] (fun v => rebuildAll 0x30#6 (rebuildAll g.lost v)) (s.badData g)
    | none => s.answer r 0x05 .none
  | .stripeRec rid first count mask =>
    match s.region rid with
    | some g => s.parityStep r c o g first count ((List.range 6).filter (bit mask ·)) (rebuildAll mask) (s.badGroup g mask)
    | none => s.answer r 0x05 .none
  | _ => s.answer r 0 .none

/-! ## The units' steps -/

/-- The header of a compressed page at `pa` passes R261. -/
def State.headerOk (s : State) (pa : Nat) : Bool := pageOk (s.readLine pa 20)

/-- COPYQ (R303): a unit goes on with a request for its bytes, a fill, a page move or a parity operation. -/
def execCopyq (k : Nat) (s : State) : Host.Outcome State Fault Refusal :=
  match s.request k [9] with
  | some r =>
    match r.body with
    | .copyq c id =>
      match s.findOp c id with
      | none => .next (s.answer r 0 .none)
      | some o =>
        let all := List.range o.moves.length
        match o.kind with
        | .fill => .next (s.serveWrites r c id all)
        | .stripeUpd _ _ _ => .next (s.serveParity r c o)
        | .stripeRec _ _ _ _ => .next (s.serveParity r c o)
        | .kvmove =>
          let src := (o.moves.head?.bind (·.src)).getD 0
          if o.moves.all (·.st == .todo) && s.engineStatus c src 16384 == 0 && !s.headerOk (s.located src) then
            .next (s.answer r 0x01 .none)
          else .next (s.serveRead r c id all)
        | _ => .next (s.serveRead r c id all)
    | _ => .next s
  | none => .next s

/-- GSUB (R318): a unit goes on with a sub-list of a gather. -/
def execGsub (k : Nat) (s : State) : Host.Outcome State Fault Refusal :=
  match s.request k [11] with
  | some r =>
    match r.body with
    | .gsub c id rows => .next (s.serveRead r c id rows.flatten)
    | _ => .next s
  | none => .next s

/-- SSUB (R318): a unit goes on with a sub-list of a scatter, in list order. -/
def execSsub (k : Nat) (s : State) : Host.Outcome State Fault Refusal :=
  match s.request k [12] with
  | some r =>
    match r.body with
    | .ssub c id rows => .next (s.serveWrites r c id rows.flatten)
    | _ => .next s
  | none => .next s

/-- A line reaches the requesting core (R303): an uncorrectable one poisons the operation's tile, or, where none is named, the line written
(R310). A line for a piece that has ended already is not written (R305). -/
def State.takeLine (s : State) (r : Recv) (c : CoreName) (id i d : Nat) (bs : List Byte) (poison : Bool) : State :=
  match (s.findOp c id).bind fun o => (o.moves[i]?).map fun (m : Move) => (o, m) with
  | none => s.answer r 0 .none
  | some (o, m) =>
    if m.st.ended then s.answer r 0 .none
    else if s.codedStall d bs.length then s.keepLost r
    else if s.deltaRoom r.dst d bs.length = false then s.keep r
    else
      let s := (s.engineWrite r.dst d bs c id).setMove c id i .done
      let s := if poison then (if o.tile.isSome then s.poisonTile c o else s.poisonLine d) else s
      s.answer r 0 .none

/-- No piece of an operation has been performed: a unit refuses a sub-operation whole (R304). -/
def EngineOp.unstarted (o : EngineOp) : Bool := o.moves.all fun m => m.st != .done

/-- The cause for which a unit refuses the pieces written to it, 0 for none. -/
def State.refusal (s : State) (c : CoreName) (o : EngineOp) (i d n : Nat) : Byte :=
  match ((o.moves[i]?).map fun (m : Move) => m.st : Option Progress) with
  | some (.failed e) => e
  | _ =>
    if o.unstarted then
      ((o.moves.findSome? fun m => m.dst.bind fun a => if s.engineStatus c a m.bytes = 0 then none else some (s.engineStatus c a m.bytes))).getD 0
    else if s.engineStatus c d n = 0x04 then 0 else s.engineStatus c d n

/-- COPYD (R303, R304, R310): a line is taken by the requesting core, or written by the unit that owns it. -/
def execCopyd (k : Nat) (s : State) : Host.Outcome State Fault Refusal :=
  match s.request k [10] with
  | some r =>
    match r.body with
    | .copyd c id i d bs poison =>
      if r.dst = coreUnit s c ∧ (s.findOp c id).all (fun o => o.kind != .kvmove) then .next (s.takeLine r c id i d bs poison)
      else
        let bad := (s.findOp c id).elim (s.engineStatus c d bs.length) fun o => s.refusal c o i d bs.length
        if bad ≠ 0 then
          let n := (s.findOp c id).elim 0 (·.moves.length)
          .next ((s.failMoves c id (List.range n) bad).answer r bad .none)
        else
          match s.atUnit r.dst d with
          | .hold => .next (s.keep r)
          | .redir a => .next (s.answer r 0 (.redir a))
          | .here a =>
            let x := s.writeFor r a bs poison c id
            .next (if x.2 then (x.1.setMove c id i .done).answer r 0 .none else x.1)
    | _ => .next s
  | none => .next s

/-- STRIPE (R321): the holder of P or Q applies a delta. -/
def execStripe (k : Nat) (s : State) : Host.Outcome State Fault Refusal :=
  match s.request k [25] with
  | some r =>
    match r.body with
    | .stripe pa delta =>
      if s.lostAt pa then .next (s.keepLost r)
      else
        match if s.place pa = .memory then s.reclaim (pa / 128) 0xFFFFFFFF#32 0 else none with
        | some t => .next (t.keep r)
        | none =>
          let bs := (readBytes s.mem pa 128).zipWith (· ^^^ ·) delta
          .next ((s.writeWords pa bs).answer r 0 .none)
    | _ => .next s
  | none => .next s

/-- A completion of a request of an engine operation (R303, R305). -/
def State.engineReturned (s : State) (o : Outst) (st : Byte) : State :=
  let s := s.forget o
  match o.purpose with
  | .engine c id i =>
    match s.findOp c id with
    | none => s
    | some op =>
      let all := List.range op.moves.length
      let s := match o.body with
        | .copyd _ _ _ _ _ _ => if st = 0 then s.setMove c id i .done else s.failMoves c id [i] st
        | .gsub _ _ rows => if st = 0 then s else s.failMoves c id rows.flatten st
        | .ssub _ _ rows => if st = 0 then s else s.failMoves c id rows.flatten st
        | .basin _ => if st = 0 then s.setMove c id i .done else s.failMoves c id [i] st
        | .copyq _ _ =>
          if st = 0 then s
          else (s.failMoves c id all st).modOp c id fun x =>
            if x.moves.isEmpty then { x with count := 0, code := if x.code = 0 then st else x.code, addr := if x.code = 0 then x.va else x.addr } else x
        | _ => s
      s.pump c id
  | _ => s

/-- Clear LOST of a region (R325): what waited goes on. -/
def State.clearLost (s : State) (rid : Nat) : State :=
  { s with stripes := s.stripes.map fun r => if r.rid = rid then r.withLost 0 else r }

/-- LOST_CLEAR (R325): the service processors clear LOST of a region. -/
def execLostClear (rid : Nat) (s : State) : Host.Outcome State Fault Refusal := .next (s.clearLost rid)

/-! ## Completion (R146, R308, R309) -/

/-- The failing piece of lowest destination offset. -/
def lowestFault : List Move → Option Move
  | [] => none
  | m :: l =>
    let bad := m.poison || match m.st with
      | .failed _ => true
      | _ => false
    match lowestFault l with
    | none => if bad then some m else none
    | some n => if bad && decide (m.offset ≤ n.offset) then some m else some n

/-- CODE, and the address of R309, of an operation that has ended. -/
def EngineOp.result (o : EngineOp) : Byte × Word :=
  if o.code ≠ 0 then (o.code, o.addr)
  else
    match lowestFault o.moves with
    | none => (0, 0)
    | some m =>
      match m.st with
      | .failed e => (e, if e = 0x0A then BitVec.ofNat 64 (m.src.getD 0) else m.va &&& ~~~0x7F#64)
      | _ => (0x0A, BitVec.ofNat 64 (m.src.getD 0 / 128 * 128))

/-- COUNT: bytes written, counted over the sub-operations that succeeded, one for each unit that owns a part of the memory side
(R303, R308); what the client makes alone counts (log 159). -/
def State.countOf (s : State) (o : EngineOp) : Nat :=
  let unit (m : Move) : Option UnitName := (o.side m).map s.ownerUnit
  let lost := (o.moves.filter fun m => m.st.ended && m.st != .done).map unit
  (if o.code = 0 ∨ o.code = 0x0A then o.count else 0) +
    ((o.moves.filter fun m => m.st == .done && !lost.contains (unit m)).map (·.bytes)).sum

/-- The status word (R308). -/
def statusWord (code : Byte) (fn : BitVec 3) (count : Nat) : Word :=
  0x8000000000000000#64 ||| (code.setWidth 64 <<< 48) ||| (fn.setWidth 64 <<< 45) ||| BitVec.ofNat 64 (count % 2 ^ 40)

/-- Step 2 of R146: the stash words of core `c` in V that overlap the destination range of operation `id` go to I, and fills on their way
are not put into the page. -/
def State.dropCopies (s : State) (c : CoreName) (id : Nat) : State :=
  let rs := (s.getCore c).mem.locks.filter fun l => l.dst && l.ops.contains id
  let ms := ((s.findOp c id).elim [] (·.moves)).filterMap fun m => m.dst.map fun d => (d, m.bytes)
  let hit (a n : Nat) : Bool := (s.twins a).any fun b =>
    (rs.any fun r => decide (r.base < b + n ∧ b < r.base + r.bytes)) || ms.any fun r => decide (r.1 < b + n ∧ b < r.1 + r.2)
  (s.spoilFills c fun line => hit (128 * line) 128).modCore c fun k => k.modMem fun m => { m with
    stash := m.stash.filter fun e => e.2 != .V || !hit (4 * e.1) 4 }

/-- `kaddr` of an operation that ended: a parity operation has no virtual address, and a basin tile no global one (R329), so where R309
asks for one the value is free (log 141). -/
def State.opAddr (s : State) (o : EngineOp) (code : Byte) (addr : Word) : Word × State :=
  match o.kind with
  | .stripeUpd _ _ _ => if code = 0x0F ∨ code = 0x15 then s.free else (addr, s)
  | .stripeRec _ _ _ _ => if code = 0x0F ∨ code = 0x15 then s.free else (addr, s)
  | .bld => if isDetected code then s.free else (addr, s)
  | .bseal _ _ _ => if code = 0x0F ∨ code = 0x15 then s.free else (addr, s)
  | _ => (addr, s)

/-- Steps 2 to 5 of R146, and the detected error of R309. The register's first reader observes the completion (R146). -/
def State.completeOp (s : State) (c : CoreName) (o : EngineOp) : State :=
  let r := o.result
  let x := statusWord r.1 o.fn (s.countOf o)
  let s := (s.dropCopies c o.id).modCore c fun k => (k.modMem fun m => { m with ops := m.ops.filter (·.id != o.id) }).unlock o.id
  let less (k : Counters) : Counters := if o.ocx then { k with ocx := k.ocx - 1 } else { k with occ := k.occ - 1 }
  let s := s.forTask c o.task (fun k => k.arrive o.q o.reg x less) (fun v => v.arrive o.q o.reg x less)
  if isDetected r.1 then
    let (a, s) := s.opAddr o r.1 r.2
    s.notify c .control o.task r.1 a
  else s

/-- Nothing of the operation is on its way. -/
def State.opQuiet (s : State) (c : CoreName) (id : Nat) : Bool :=
  s.fab.outst.all fun o => match o.purpose with
    | .engine d i _ => !(d == c && i == id)
    | .bld d i => !(d == c && i == id)
    | _ => true

/-! ## Instructions of major 0x44 (R311) -/

/-- Their form. -/
def Form.streamer : Form := { Form.control with inPair := false }

/-- Registers g[u] and the `n - 1` after it, all read at issue (R311). -/
def State.block (s : State) (u : Reg) (n : Nat) : Try (List Word) := do
  check s (decide (u.toNat + n ≤ 32))
  let x ← s.src u
  let y ← s.src (u + 1)
  if n = 2 then return [x, y]
  let z ← s.src (u + 2)
  return [x, y, z]

/-- The fields of a control word (R313): TOFF in bytes, DIR, LEN; ILL where it is malformed. `fixed` is for `copym`. -/
def State.controlWord (s : State) (w : Word) (fixed : Bool) : Try (Nat × Bool × Nat) := do
  let len := (bits w 0 17).toNat
  check s (bits w 41 23 == 0 && bits w 17 14 == 0)
  check s (if fixed then decide (len = 0) else decide (4 ≤ len ∧ len ≤ 65536 ∧ len % 4 = 0))
  return (128 * (bits w 32 9).toNat, bit w 31, len)

/-- COPY (R314). -/
def execCopy (d : Reg) (t : TileNo) (u : Reg) (s : State) : Host.Outcome State Fault Refusal :=
  run .streamer s do
    let g ← s.block u 2
    s.dst d
    let va := (g[0]?).getD 0
    let (off, out, n) ← s.controlWord ((g[1]?).getD 0) false
    let e ← s.readyTile t
    if va.toNat % 4 ≠ 0 then raise 0x03 va
    check s (decide (off + n ≤ tileBytes e))
    let pa ← s.engineSpan va n (if out then .engineWrite else .engineRead)
    let ta := s.tileAddr t + off
    let ranges := [(Eng.copy, !out, ta, n), (Eng.copy, out, pa, n)]
    if out then s.launchOp ranges (newOp .copyOut d 0 (some t) va (s.movesOut va pa 0 (readBytes s.mem ta n) (some (ta, 1)))) []
    else s.launchOp ranges (newOp .copyIn d 0 (some t) va (movesIn va pa ta 0 n)) (s.askUnit pa)

/-! ### Tensor maps (R118) -/

/-- FMT of a map, none where it is reserved. -/
def mapFmt (m : TMap) : Option Fmt := fmtOf (bits m 224 4)
/-- A map that an instruction accepts (R118). BASE[63:57], which must be zero but is none of the cases of ILL, is not looked at: an address
that has such a bit traps PGF where it is translated: DESIGN CHOICE (log 142). -/
def mapOk (m : TMap) : Bool :=
  bit m 255 && bits m 246 9 == 0 && (mapFmt m).isSome && !(mapFmt m == some .m4 && (bits m 64 16).toNat % 2 == 0)
/-- Element width in bits. -/
def mapWidth (m : TMap) : Nat := (mapFmt m).elim 8 Fmt.width
/-- Rows and elements of a tile. -/
def mapRows (m : TMap) : Nat := (bits m 238 8).toNat + 1
/-- Elements of a row. -/
def mapCols (m : TMap) : Nat := (bits m 230 8).toNat + 1
/-- NDIM as the number of the last dimension. -/
def mapDim (m : TMap) : Nat := (bits m 228 2).toNat
/-- Extent of dimension `k` minus one. -/
def mapExt (m : TMap) (k : Nat) : Nat := (bits m (64 + 16 * k) 16).toNat
/-- Stride of dimension `k`, 1 to 3. -/
def mapStride (m : TMap) (k : Nat) : Int := (bits m (96 + 32 * k) 32).toInt
/-- Bytes from one row of a tile to the next: a multiple of 128 (R315). -/
def mapRowBytes (m : TMap) : Nat := (mapCols m * mapWidth m / 8 + 127) / 128 * 128
/-- Virtual address of an element (R118). -/
def mapAddr (m : TMap) (x0 x1 x2 x3 : Nat) : Word :=
  bits m 0 64 + BitVec.ofInt 64 ((x0 * mapWidth m / 8 : Nat) + x1 * mapStride m 1 + x2 * mapStride m 2 + x3 * mapStride m 3)

/-- Coordinate `k` of an origin. -/
def originAt (o : Word) (k : Nat) : Nat := (bits o (16 * k) 16).toNat

/-- Coordinate `k` of row `y` of a tile at an origin (R315): one of a dimension above NDIM is taken as 0 (R118). -/
def coordAt (m : TMap) (o : Word) (y k : Nat) : Nat :=
  if mapDim m < k then 0 else originAt o k + (if k = 1 then y else 0)

/-- The in-bounds part of row `y` of a tile at an origin (R315): its address and bytes, none where it has none. -/
def rowSpan (m : TMap) (o : Word) (y : Nat) : Option (Word × Nat) :=
  let n := Nat.min (mapCols m) (mapExt m 0 + 1 - originAt o 0)
  let x := coordAt m o y
  if x 0 ≤ mapExt m 0 ∧ x 1 ≤ mapExt m 1 ∧ x 2 ≤ mapExt m 2 ∧ x 3 ≤ mapExt m 3 then
    some (mapAddr m (x 0) (x 1) (x 2) (x 3), n * mapWidth m / 8)
  else none

/-- The operand rules of `copym` (R315). -/
def mapTileOk (m : TMap) (o : Word) : Bool :=
  mapOk m && bits m 0 2 == 0 && bits m 128 2 == 0 && bits m 160 2 == 0 && bits m 192 2 == 0 &&
    decide (mapCols m * mapWidth m % 32 = 0 ∧ originAt o 0 * mapWidth m % 32 = 0) &&
    (List.range 4).all fun k => decide (k ≤ mapDim m) || originAt o k == 0

/-- The least and the end of the addresses of some rows. -/
def boundsOf (rows : List (Word × Nat)) : Option (Nat × Nat) :=
  rows.foldl (fun (b : Option (Nat × Nat)) r =>
    some (b.elim (r.1.toNat, r.1.toNat + r.2) fun x => (Nat.min x.1 r.1.toNat, Nat.max x.2 (r.1.toNat + r.2)))) none

/-- COPYM (R315). -/
def execCopym (d : Reg) (t : TileNo) (u : Reg) (m : BitVec 4) (s : State) : Host.Outcome State Fault Refusal :=
  run .streamer s do
    let g ← s.block u 2
    s.dst d
    let o := (g[0]?).getD 0
    let (off, out, _) ← s.controlWord ((g[1]?).getD 0) true
    let e ← s.readyTile t
    let map := s.core.vec.m.get m.toFin
    let rb := mapRowBytes map
    let nr := mapRows map
    check s (mapTileOk map o && decide (off + nr * rb ≤ tileBytes e))
    let rows := (List.range nr).map fun y => (y, rowSpan map o y)
    let ta := s.tileAddr t + off
    let used := rows.filterMap fun r => r.2.map fun x => (BitVec.ofNat 64 (ta + r.1 * rb), x.2)
    let whole := if out then (boundsOf used).elim [] fun b => [(Eng.copy, false, b.1, b.2 - b.1)] else [(Eng.copy, true, ta, nr * rb)]
    match boundsOf (rows.filterMap (·.2)) with
    | none =>
      s.launchOp whole (newOp (if out then .copyOut else .copyIn) d 1 (some t) 0 (if out then [] else zeroPieces ta 0 (nr * rb))) []
    | some (lo, hi) =>
      let va := BitVec.ofNat 64 lo
      let pa ← s.engineSpan va (hi - lo) (if out then .engineWrite else .engineRead)
      let ranges := whole ++ [(Eng.copy, out, pa, hi - lo)]
      let at_ (a : Word) : Nat := pa + (a.toNat - lo)
      if out then
        let moves := rows.flatMap fun r => r.2.elim [] fun x => s.movesOut x.1 (at_ x.1) (x.1.toNat - lo) (readBytes s.mem (ta + r.1 * rb) x.2) (some (ta + r.1 * rb, 1))
        s.launchOp ranges (newOp .copyOut d 1 (some t) va moves) []
      else
        let moves := rows.flatMap fun r =>
          let n := r.2.elim 0 (·.2)
          (r.2.elim [] fun x => movesIn x.1 (at_ x.1) (ta + r.1 * rb) (r.1 * rb) x.2) ++
            zeroPieces (ta + r.1 * rb + n) (r.1 * rb + n) (rb - n)
        s.launchOp ranges (newOp .copyIn d 1 (some t) va moves) (s.askUnit pa)

/-- CFILL (R316). -/
def execCfill (d u : Reg) (s : State) : Host.Outcome State Fault Refusal :=
  run .streamer s do
    let g ← s.block u 3
    s.dst d
    let va := (g[0]?).getD 0
    let (off, out, n) ← s.controlWord ((g[1]?).getD 0) false
    check s (off == 0 && !out)
    if va.toNat % 4 ≠ 0 then raise 0x03 va
    let pa ← s.engineSpan va n .engineWrite
    let pat := toBytes 8 ((g[2]?).getD 0).toNat
    let data := (List.range n).map fun i => (pat[i % 8]?).getD 0
    s.launchOp [(Eng.copy, true, pa, n)] (newOp .fill d 4 none va (s.movesOut va pa 0 data none)) (s.askUnit pa)

/-! ### `gather` and `scatter` (R317, R318) -/

/-- The rows of a gather or scatter: position, index, address, none where the index is out of range. -/
def State.listRows (s : State) (map : TMap) (ti : TileNo) : List (Nat × Option Word) :=
  (List.range (mapRows map)).map fun y =>
    let r := readNat s.mem (s.tileAddr ti + 4 * y) 4
    (y, if r ≤ mapExt map 1 then some (mapAddr map 0 r 0 0) else none)

/-- Translate the rows in range (R312, R317): first every row, then each row lies in one page, else ALIGN at its first byte, then no row
lies in a page of this core that the client does not serve. -/
def State.translateRows (s : State) (n : Nat) (need : Need) (rows : List (Nat × Option Word)) : Try (List (Nat × Option (Word × Nat))) := do
  let vas := rows.filterMap (·.2)
  vas.forM fun va => s.translatePages need (n / 4096 + 2) va n
  vas.forM fun va => (s.spanInPage va n).mapError fun e => match e with
    | .trap c => .trap { c with addr := va }
    | e => e
  rows.mapM fun r => match r.2 with
    | none => .ok (r.1, none)
    | some va => do
      let pa ← s.spanAllowed va n need
      return (r.1, some (va, pa))

/-- Sub-lists of at most 60 rows (R307). -/
def subLists {α : Type} : Nat → List α → List (List α)
  | 0, _ => []
  | n + 1, l => if l.isEmpty then [] else l.take 60 :: subLists n (l.drop 60)

/-- The messages of a gather or scatter whose rows lie `rb` bytes apart in the tile: each unit's rows in list order, by the numbers of
their pieces (R318). -/
def State.listRequests (s : State) (moves : List Move) (rb : Nat) (scatter : Bool) : List (UnitName × Nat × (Nat → Body)) :=
  let addr (m : Move) : Option Nat := if scatter then m.dst else m.src
  let far := (List.range moves.length).filterMap fun i =>
    (moves[i]?).bind fun m => (addr m).bind fun a =>
      if s.place a = .sram s.cur ∨ s.place a = .hole then none else some (i, m.offset / rb, s.ownerUnit a)
  ((far.map (·.2.2)).eraseDups).flatMap fun u =>
    let mine := far.filter (·.2.2 == u)
    let rows := ((mine.map (·.2.1)).eraseDups).map fun y => (mine.filter (·.2.1 == y)).map (·.1)
    (subLists rows.length rows).map fun l =>
      (u, if scatter then 12 else 11, fun id => if scatter then .ssub s.cur id l else .gsub s.cur id l)

/-- Sub-list counters in use on the core (R307, R318). -/
def State.countersInUse (s : State) : Nat :=
  (s.core.mem.ops.map fun o => if o.kind = .gather ∨ o.kind = .scatter then
    ((o.moves.filter fun m => !m.st.ended).filterMap fun m => (if o.kind = .gather then m.src else m.dst).map s.ownerUnit).eraseDups.length else 0).sum

/-- A gather or scatter (R317). The failing rows of a scatter are ordered by their places in the list (log 160). A map of one dimension
still has its rows S1 apart, as the formula says (log 161). -/
def State.listForm (s : State) (scatter : Bool) (d : Reg) (t i : TileNo) (m : BitVec 4) : Host.Outcome State Fault Refusal :=
  run .streamer s do
    s.dst d
    check s (decide (t ≠ i))
    let e ← s.readyTile t
    let ei ← s.readyTile i
    let map := s.core.vec.m.get m.toFin
    let n := mapCols map * mapWidth map / 8
    let rb := mapRowBytes map
    let nr := mapRows map
    check s (mapOk map && decide (mapCols map ≤ mapExt map 0 + 1) && decide (mapCols map * mapWidth map % 32 = 0) &&
      bits map 0 2 == 0 && bits map 128 2 == 0 && decide (4 * nr ≤ tileBytes ei) && decide (nr * rb ≤ tileBytes e))
    let rows ← s.translateRows n (if scatter then .engineWrite else .engineRead) (s.listRows map i)
    let ta := s.tileAddr t
    let moves := rows.flatMap fun r =>
      match r.2 with
      | some (va, pa) =>
        if scatter then s.movesOut va pa (r.1 * rb) (readBytes s.mem (ta + r.1 * rb) n) (some (ta + r.1 * rb, 1)) else movesIn va pa (ta + r.1 * rb) (r.1 * rb) n
      | none => if scatter then [] else zeroPieces (ta + r.1 * rb) (r.1 * rb) n
    let reqs := s.listRequests moves rb scatter
    waitFor (decide (s.countersInUse + (reqs.map (·.1)).eraseDups.length ≤ 64)) .counter
    s.launchOp [(Eng.gather, !scatter, ta, nr * rb)]
      (newOp (if scatter then .scatter else .gather) d (if scatter then 3 else 2) (some t) 0 moves) reqs

/-- GATHER (R317). -/
def execGather (d : Reg) (t i : TileNo) (m : BitVec 4) (s : State) : Host.Outcome State Fault Refusal := s.listForm false d t i m
/-- SCATTER (R317). -/
def execScatter (d : Reg) (t i : TileNo) (m : BitVec 4) (s : State) : Host.Outcome State Fault Refusal := s.listForm true d t i m

/-! ### `kvmove` (R319) -/

/-- The least finite M8 code whose value is not below `x`, or the greatest not above it; 0 is 0x00. -/
def m8Outward (up : Bool) (x : Num) : Nat :=
  let codes := (List.range 256).filter fun c => match decodeM8 false c with
    | .fin _ _ => if up then !(decodeM8 false c).lt x else !x.lt (decodeM8 false c)
    | .zero _ => if up then !(Num.zero false).lt x else !x.lt (.zero false)
    | _ => false
  let better (a b : Nat) : Bool := if up then (decodeM8 false a).lt (decodeM8 false b) else (decodeM8 false b).lt (decodeM8 false a)
  (codes.foldl (fun (m : Option Nat) c => some (m.elim c fun b => if better c b then c else b)) none).getD 0

/-- A page packed from FP16 values (R319): tokens in rows of 256 bytes. -/
def packPage (src : List Byte) (kind ntok head layer pos : Nat) (ns : Bool) : List Byte :=
  let raw (t c : Nat) : Num := if t < ntok then decodeNum .fp16 false (ofBytes ((src.drop (256 * t + 2 * c)).take 2)) else .zero false
  let blocks : List (Byte × List Nat) := (List.range (224 * 4)).map fun i =>
    encodeBlock true false ((List.range 32).map fun j => raw (i / 4) (32 * (i % 4) + j))
  let scaleOf (t b : Nat) : Nat := (blocks[4 * t + b]?).elim 127 (·.1.toNat)
  let code (t c : Nat) : Nat := (blocks[4 * t + c / 32]?).elim 0 fun x => (x.2[c % 32]?).getD 0
  let value (t c : Nat) : Num := (decodeM4 (code t c)).scale ((scaleOf t (c / 32) : Int) - 127)
  let toks (c : Nat) : List Num := ((List.range ntok).filter fun t => scaleOf t (c / 32) != 255).map fun t => value t c
  let most (l : List Num) : Num := l.foldl (fun m x => if m.lt x then x else m) (l.headD (.zero false))
  let least (l : List Num) : Num := l.foldl (fun m x => if x.lt m then x else m) (l.headD (.zero false))
  let hi := (List.range 128).map fun c => most (toks c)
  let lo := (List.range 128).map fun c => least (toks c)
  let ss : Int := ((maxLog (hi ++ lo)).getD 0) + 127
  let bad (c : Nat) : Bool := (List.range ntok).any fun t => scaleOf t (c / 32) == 255
  let sum (up : Bool) (c : Nat) (x : Num) : Byte := if bad c then 0x80 else BitVec.ofNat 8 (m8Outward up (x.scale (127 - ss)))
  let maxs := (List.range 128).map fun c => sum true c ((hi[c]?).getD (.zero false))
  let mins := (List.range 128).map fun c => sum false c ((lo[c]?).getD (.zero false))
  let header := toBytes 2 0x0100 ++ toBytes 1 kind ++ toBytes 1 ntok ++ toBytes 2 head ++ toBytes 2 layer ++ toBytes 8 pos ++
    [BitVec.ofInt 8 ss, if ns then 1 else 0] ++ List.replicate 46 0
  let vals := (List.range 224).flatMap fun t => (List.range 64).map fun j => BitVec.ofNat 8 (code t (2 * j) + 16 * code t (2 * j + 1))
  header ++ maxs ++ mins ++ blocks.map (·.1) ++ vals ++ List.replicate 832 0

/-- The lines of the tile from whose values line `n` of a packed page is encoded (R319): the summary in the first three lines comes from
every token's, a scale or a block of values from that of its token and block. -/
def packSources (ntok n : Nat) : List Nat :=
  if n < 3 then List.range (2 * ntok)
  else
    let block (x : Nat) : Option Nat := if x < 0x4C0 then some (x - 0x140) else if x < 0x3CC0 then some ((x - 0x4C0) / 16) else none
    (((List.range 128).filterMap fun j => block (128 * n + j)).filter fun i => decide (i / 4 < ntok)).map (· / 2)

/-- The address of an uncorrectable line of the tile from which line `n` of a packed page is encoded (R310). -/
def State.packBad (s : State) (t : TileNo) (ntok n : Nat) : Option Nat :=
  ((packSources ntok n).map fun i => s.tileAddr t + 128 * i).find? fun a => s.poisoned a 128

/-- KVMOVE (R319). -/
def execKvmove (d : Reg) (t : TileNo) (u : Reg) (s : State) : Host.Outcome State Fault Refusal :=
  run .streamer s do
    let g ← s.block u 3
    s.dst d
    let va := (g[0]?).getD 0
    let w := (g[1]?).getD 0
    let x := (g[2]?).getD 0
    check s (bits w 9 22 == 0)
    let pack := bit w 31
    if pack then
      let ntok := (bits w 0 8).toNat
      let e ← s.readyTile t
      check s (decide (1 ≤ ntok ∧ ntok ≤ 224) && decide (57344 ≤ tileBytes e))
      if va.toNat % 16384 ≠ 0 then raise 0x03 va
      let pa ← s.engineSpan va 16384 .engineWrite
      let page := packPage (readBytes s.mem (s.tileAddr t) 57344) (bits w 8 1).toNat ntok (bits w 32 16).toNat (bits w 48 16).toNat
        x.toNat s.ns
      s.launchOp [(Eng.copy, false, s.tileAddr t, 57344), (Eng.copy, true, pa, 16384)]
        (newOp .copyOut d 5 (some t) va ((s.movesOut va pa 0 page none).map fun (m : Move) =>
          let bad := s.packBad t ntok (m.offset / 128)
          { m with src := bad, poison := bad.isSome })) []
    else
      check s (t == 0 && bits w 32 32 == 0 && bits w 0 9 == 0)
      if va.toNat % 16384 ≠ 0 then raise 0x03 va
      if x.toNat % 16384 ≠ 0 then raise 0x03 x
      s.translatePages .engineWrite 6 va 16384
      s.translatePages .engineRead 6 x 16384
      s.spanInPage va 16384
      s.spanInPage x 16384
      let pa ← s.spanAllowed va 16384 .engineWrite
      let sa ← s.spanAllowed x 16384 .engineRead
      let moves := (List.range 128).map fun i =>
        (⟨some (sa + 128 * i), some (pa + 128 * i), va + BitVec.ofNat 64 (128 * i), 128, 128 * i, [], false, .todo⟩ : Move)
      s.launchOp [(Eng.copy, false, sa, 16384), (Eng.copy, true, pa, 16384)] (newOp .kvmove d 5 none va moves)
        (if s.place sa = .hole then [] else [(s.ownerUnit sa, 9, fun id => .copyq s.cur id)])

/-! ### `stripe.upd` and `stripe.rec` (R323, R324) -/

/-- The region and groups that a parity operation names; ILL where they are out of range. -/
def State.groupsOf (s : State) (x y : Word) : Try (Region × Nat × Nat) := do
  check s (bits x 40 24 == 0 && decide (1 ≤ y.toNat))
  match s.region (bits x 32 8).toNat with
  | none => illegal s
  | some r =>
    check s (decide ((bits x 0 32).toNat + y.toNat ≤ r.ngrp))
    return (r, (bits x 0 32).toNat, y.toNat)

/-- STRIPE_UPD (R323). -/
def execStripeUpd (d u : Reg) (s : State) : Host.Outcome State Fault Refusal :=
  run .streamer s do
    let g ← s.block u 2
    s.dst d
    let (r, first, n) ← s.groupsOf ((g[0]?).getD 0) ((g[1]?).getD 0)
    if s.pm = 0 ∧ r.ctx ≠ s.ctx then denied s
    s.launchOp [] (newOp (.stripeUpd r.rid first n) d 6 none 0 []) [(s.ownerUnit (r.base 4), 9, fun id => .copyq s.cur id)]

/-- STRIPE_REC (R324). -/
def execStripeRec (d u : Reg) (s : State) : Host.Outcome State Fault Refusal :=
  run .streamer s do
    let g ← s.block u 3
    s.dst d
    if s.pm = 0 then denied s
    let w := (g[2]?).getD 0
    let mask := (List.range 6).filter (bit w ·)
    check s (bits w 6 58 == 0 && decide (1 ≤ mask.length ∧ mask.length ≤ 2))
    let (r, first, n) ← s.groupsOf ((g[0]?).getD 0) ((g[1]?).getD 0)
    s.launchOp [] (newOp (.stripeRec r.rid first n (bits w 0 6)) d 7 none 0 [])
      [(s.ownerUnit (r.base (mask.headD 0)), 9, fun id => .copyq s.cur id)]

end Sys2Proof.Machine
end

