-- ==== Sys2Proof/Machine/Basin.lean ====
section
/-! DEFINITION. The basin's instructions (R336 to R348) and what an L2 slice does with its requests. -/

namespace Sys2Proof.Machine

/-! ## Slices and names (R330) -/

/-- Major 0x48: the basin group; not in a hinge pair (R422). -/
def Form.basin : Form := { Form.control with group := 3, inPair := false }

/-- The slice of cluster `n` of a die. -/
def sliceUnit (pkg : BitVec 10) (die n : Nat) : UnitName :=
  ⟨pkg, BitVec.ofNat 5 die, BitVec.ofNat 8 (64 * (n / 4) + 4 * (n % 4)), true⟩

/-- The slice that a partition's name gives, none where no compute die of the acting core's partition has it. -/
def State.partSlice (s : State) (p : BitVec 23) : Option UnitName :=
  let die := (bits p 8 5).toNat
  if die < 16 && (bits p 13 10 == s.mgmt.domain.pkg || ((s.partOf (dieOf s.cur)).bind s.part).any fun q => q.remote.contains (bits p 13 10, die)) then
    some (sliceUnit (bits p 13 10) (bits p 8 5).toNat (bits p 4 4).toNat)
  else none

/-- A partition's name from its slice, counted over the dies, and its index (R330). -/
def State.partName (s : State) (slice index : Nat) : BitVec 23 :=
  s.mgmt.domain.pkg.setWidth 23 <<< 13 ||| BitVec.ofNat 23 (slice % 512 * 16 + index % 16)

/-- The partition of that name in context `x`. -/
def State.basinOf (s : State) (x : BitVec 16) (p : BitVec 23) : Option BPart := (s.basin p).filter (·.ctx == x)

/-! ## At the slice -/

/-- Create a partition (R338): the answer's word. -/
def State.createBasin (s : State) (u : UnitName) (x : BitVec 16) (cap : Nat) (cid : W32) (limit : Nat) : Word × State :=
  let n := 4 * (u.unit.toNat / 64) + u.unit.toNat % 16 / 4
  let slice := u.die.toNat * 16 + n
  let mine := s.basins.filter fun b => bits b.part 4 19 == bits (s.partName slice 0) 4 19
  match (List.range 16).find? fun i => (s.basin (s.partName slice i)).isNone with
  | none => (0x8000000000000001#64, s)
  | some i =>
    if (mine.map (·.cap)).sum + cap > 512 then (0x8000000000000002#64, s)
    else if cap * 4096 > limit then (0x8000000000000003#64, s)
    else
      let p := s.partName slice i
      (partWord p, { s with basins := s.basins ++ [⟨p, x, cid, cap, 0, 0, Vector.replicate 16 ⟨0, none⟩, [], [], []⟩] })

/-- Accept a read (R342): every overread check comes before the lane changes. One of a sealed tile is served at once, in its order among
the requests (R351); any other waits. -/
def State.acceptRead (s : State) (r : Recv) (debt : Word) (owed room task op : Nat) : State :=
  let p := wordPart debt
  let l := debtLane debt
  let first := wordSeq debt
  let past (q : W32) (s : State) : State := s.answer r 0x07 (.value [if owed = 0 then 0 else setBits debt 0 q])
  match if owed = 0 then none else s.basin p with
  | none => past first s
  | some b =>
    let cur := (b.lane l).cursor
    let c := seqMax cur first
    if !seqBefore c (first + BitVec.ofNat 32 owed) then past c s
    else if seqBefore c b.next ∧ (b.tile c).isNone then past c s
    else
      let s := if seqBefore cur first then s.forfeitRun p l cur (first - cur).toNat else s
      let s := s.modBasin p fun b => b.modLane l fun x => { x with cursor := c + 1 }
      let x : BRead := ⟨unitCore r.src, (r.src, r.epoch, r.seq), debt, c, l, room, task, op⟩
      let s := (s.modBasin p fun b => { b with reads := b.reads ++ [x] }).keep r
      match (s.basin p).bind (·.tile c) with
      | some t => if t.state = .sealed then s.startRead p t x else s
      | none => s

/-- Forfeit up to `n` of a debt's remaining reads (R344): how many. -/
def State.forfeitDebt (s : State) (debt : Word) (owed n : Nat) : Nat × State :=
  match if owed = 0 then none else s.basin (wordPart debt) with
  | none => (0, s)
  | some b =>
    let m := Nat.min n (b.remaining debt owed)
    (m, s.forfeitOn debt b m)

/-- State of a basin tile as `bquery` gives it (R346). -/
def BState.code : BState → Word
  | .opened => 0
  | .sealing => 1
  | .sealed => 2

/-- What `bquery` reads of a partition (R346). -/
def BPart.query (b : BPart) (sel : Nat) (w : Word) (owed : Nat) : Word :=
  match sel with
  | 0 =>
    match b.tile (wordSeq w) with
    | some t => (1#64 <<< 63) ||| (t.state.code <<< 61) ||| (ofBool t.poison <<< 60) ||| (BitVec.ofNat 64 t.reads <<< 8) |||
        BitVec.ofNat 64 (t.pages - 1)
    | none => 0
  | 1 => (1#64 <<< 63) ||| (BitVec.ofNat 64 b.tiles.length <<< 56) ||| (BitVec.ofNat 64 b.used <<< 32) ||| BitVec.ofNat 64 b.cap
  | 2 => (ofBool (b.lane (debtLane w)).pend.isSome <<< 32) ||| (b.lane (debtLane w)).cursor.setWidth 64
  | 3 => BitVec.ofNat 64 (b.remaining w owed)
  | _ => b.next.setWidth 64

/-- The slice goes on with a read that it serves (R342): it sends the lines for which the channel has room. -/
def State.sendLines (s : State) (r : Recv) : State :=
  match r.body with
  | .basin (.serving p q op data sent left) =>
    let room := if s.hasChan r.dst r.src then 64 - s.onChannel r.dst r.src else 0
    let n := Nat.min room (data.length / 128 - sent)
    let s := (List.range n).foldl (fun s j =>
      let i := sent + j
      s.post r.dst r.src 22 r.ctx false false (.basin (.line (unitCore r.src) op i ((data.drop (128 * i)).take 128)))
        (.tileLine r.src r.dst r.epoch r.seq)) s
    s.modFab fun f => { f with
      rxq := f.rxq.map fun x => if x.same r then { x with body := .basin (.serving p q op data (sent + n) left) } else x }
  | _ => s

/-- A line of a read has been accepted; with the last the read completes, and its tile may be free (R342, R343). -/
def State.lineTaken (s : State) (o : Outst) : State :=
  let s := s.forget o
  match o.purpose with
  | .tileLine src dst epoch seq =>
    match s.fab.rxq.find? fun r => decide (r.src = src ∧ r.dst = dst ∧ r.epoch = epoch ∧ r.seq = seq) with
    | some r =>
      match r.body with
      | .basin (.serving p q op data sent left) =>
        if left ≤ 1 then (s.answer r 0 .none).freeIfRead p q
        else s.modFab fun f => { f with
          rxq := f.rxq.map fun x => if x.same r then { x with body := .basin (.serving p q op data sent (left - 1)) } else x }
      | _ => s
    | none => s
  | _ => s

/-- A core takes a line of a basin tile for its `bld` (R342). -/
def State.takeTileLine (s : State) (r : Recv) (c : CoreName) (op i : Nat) (d : List Byte) : State :=
  match (s.findOp c op).bind fun o => (o.moves[i]?).bind (·.dst) with
  | some a => s.takeLine r c op i a d false
  | none => s.answer r 0 .none

/-- The core and operation that a line of a basin tile is for. -/
def Body.tileLine : Body → Option (CoreName × Nat)
  | .basin (.line c op _ _) => some (c, op)
  | _ => Option.none

/-- A core goes on with a line that waits. -/
def State.keptLine (s : State) (r : Recv) : State :=
  match r.body with
  | .basin (.line c op i d) => s.takeTileLine r c op i d
  | _ => s

/-- A unit accepts a basin request (class 22). -/
def State.acceptBasin (s : State) (r : Recv) (q : BasinReq) : State :=
  match q with
  | .create cap cid limit =>
    let x := s.createBasin r.dst r.ctx cap cid limit
    x.2.answer r 0 (.value [x.1])
  | .destroy part cid =>
    match (s.basinOf r.ctx part).filter fun b => s.isWithin r.ctx cid b.cid with
    | some _ => (s.destroyBasin part).answer r 0 (.value [0])
    | none => s.answer r 0 (.value [0x8000000000000004#64])
  | .alloc part pages reads cid task tile =>
    match s.basinOf r.ctx part with
    | none => s.answer r 0 (.value [0x8000000000000001#64])
    | some b =>
      if pages > b.cap then s.answer r 0 (.value [0x8000000000000002#64])
      else (s.modBasin part fun b => { b with
        queue := b.queue ++ [⟨(r.src, r.epoch, r.seq), pages, reads, cid, (task, tile)⟩] }).keep r
  | .read debt owed room task op => s.acceptRead r debt owed room task op
  | .fill part seq task tile i data poison =>
    match ((s.basin part).bind (·.tile seq)).filter fun t => t.state == .sealing && t.holder == (task, tile) with
    | some t => (s.fillTile part t i data poison).answer r 0 .none
    | none => s.answer r 0x05 .none
  | .line c op i data => s.takeTileLine r c op i data
  | .serving _ _ _ _ _ _ => s
  | .forfeit debt owed n =>
    let x := s.forfeitDebt debt owed n
    x.2.answer r 0 (.value [BitVec.ofNat 64 x.1])
  | .query sel w owed =>
    match if sel = 3 then s.basin (wordPart w) else s.basinOf r.ctx (wordPart w) with
    | some b => s.answer r 0 (.value [b.query sel w owed])
    | none => s.answer r 0 (.value [if sel = 3 then 0 else BitVec.allOnes 64])

/-- BASIN_ALLOC_GRANT (R340): the allocation at the head of a partition's queue is granted. -/
def execBasinAllocGrant (slice partition : Nat) (s : State) : Host.Outcome State Fault Refusal :=
  .next (s.grantHead (s.partName slice partition))

/-- The reads that the slice of partition `p` serves. -/
def State.servedReads (s : State) (p : BitVec 23) : List Recv :=
  s.fab.rxq.filter fun r => match r.body with
    | .basin (.serving q _ _ _ _ _) => q == p
    | _ => false

/-- BASIN_READ_SERVE (R342): the slice sends on lines of read `k` of those of a partition that it serves. -/
def execBasinReadServe (slice partition k : Nat) (s : State) : Host.Outcome State Fault Refusal :=
  match (s.servedReads (s.partName slice partition))[k]? with
  | some r => .next (s.sendLines r)
  | none => .next s

/-! ## Instructions -/

/-- Wait until a tile is ready (R337): an empty one is ILL, a poisoned one takes ECCU. -/
def State.basinTile (s : State) (t : TileNo) : Try Word := do
  check s (tileState (s.core.tile t) != 0)
  s.readyTile t

/-- The request is an allocation, which the device withdraws where its task is interrupted (R350). -/
def BasinReq.isAlloc : BasinReq → Bool
  | .alloc _ _ _ _ _ _ => true
  | _ => false

/-- Ask a slice and wait, interruptibly: the first word of the answer, or the state that has sent the request. A task that leaves
meanwhile takes the answer where it resumes (log 134), an allocation apart. -/
def State.askSlice (s : State) (u : UnitName) (q : BasinReq) : Try (Word ⊕ State) :=
  match s.sentAnswer with
  | some w =>
    if w.left ≠ 0 then stall .answer
    else if w.status ≠ 0 then .error (.error w.status s.pc)
    else .ok (.inl (BitVec.ofNat 64 (ofBytes (((assocGet 0 w.got).getD []).take 8))))
  | none =>
    if s.canPost s.unit u 1 = false then stall .space
    else .ok (.inr (s.ask u 22 s.ctx (.basin q) (!q.isAlloc)))

/-- An instruction whose result is the slice's answer, or a word known without asking where no slice has the name. -/
def State.basinAnswer (s : State) (d : Reg) (u : Option UnitName) (q : BasinReq) (other : Word) : Try State := do
  match u with
  | none => return (s.setG d other).next 4
  | some u =>
    match ← s.askSlice u q with
    | .inl w => return (s.setG d w).next 4
    | .inr t => return t

/-- BPART (R338). -/
def execBpart (d u : Reg) (s : State) : Host.Outcome State Fault Refusal :=
  run .basin s do
    let w ← s.src u
    s.dst d
    let cap := (bits w 0 10).toNat
    check s (bits w 60 3 == 0 && bits w 10 27 == 0)
    if bit w 63 then
      check s (cap == 0)
      s.basinAnswer d (s.partSlice (wordPart w)) (.destroy (wordPart w) s.cid) 0x8000000000000004#64
    else
      check s (wordPart w == 0 && decide (1 ≤ cap ∧ cap ≤ 512))
      s.basinAnswer d (some (sliceUnit s.mgmt.domain.pkg (dieOf s.cur) (cluster s.cur)))
        (.create cap s.cid (effBasin (s.lineOf s.ctx s.cid))) 0

/-- A tile-table entry of `n` pages from page `b`, ready (R335). -/
def readyEntry (b n : Nat) : Word := BitVec.ofNat 64 (b * 256 + (n - 1) * 16 + 2)

/-- Clear `n` bytes from `a` to zero, poison markers with them (R310, R339). -/
def State.clearBytes (s : State) (a n : Nat) : State :=
  { s with
    mem := s.mem.filter fun c => !decide (a ≤ c.1 ∧ c.1 < a + n)
    homes := { s.homes with poison := s.homes.poison.filter fun l => !decide (a ≤ 128 * l ∧ 128 * l < a + n) } }

/-- `balloc` in the local form (R339). -/
def State.allocLocal (s : State) (d : Reg) (t : TileNo) (n : Nat) : State :=
  match s.core.freeRun n with
  | none => (s.setG d 0x8000000000000004#64).next 4
  | some b =>
    let k := s.core.claimPages t b n
    let s := { s with core := k.setTile t (readyEntry b n) }
    ((s.clearBytes (s.sramBase s.cur + 4096 * b) (4096 * n)).setG d 0).next 4

/-- Bind a staging tile to its basin tile (R340). -/
def boundEntry (e h : Word) : Word := setBits (setBits (setBit e 34 true) 41 (wordPart h)) 35 (bits h 0 6)

/-- BALLOC (R339, R340). -/
def execBalloc (d : Reg) (t : TileNo) (u : Reg) (s : State) : Host.Outcome State Fault Refusal :=
  run .basin s do
    let w ← s.src u
    s.dst d
    check s (bits w 60 3 == 0 && bits w 16 21 == 0 && bits w 4 4 == 0)
    if bit w 63 then
      check s (wordPart w == 0 && bits w 8 8 == 0)
      check s (tileState (s.core.tile t) == 0)
      return s.allocLocal d t ((bits w 0 4).toNat + 1)
    else
      check s (bits w 8 8 != 0 && bits w 0 4 == 0)
      let e ← s.basinTile t
      check s (!bit e 34)
      let pages := tileBytes e / 4096
      match s.partSlice (wordPart w) with
      | none => return (s.setG d 0x8000000000000001#64).next 4
      | some v =>
        match ← s.askSlice v (.alloc (wordPart w) pages (bits w 8 8).toNat s.cid s.taskId t) with
        | .inr t => return t
        | .inl h =>
          if bit h 63 then return (s.setG d h).next 4
          else return (({ s with core := s.core.setTile t (boundEntry e h) }).setG d h).next 4

/-- Set ST of a tile. -/
def Core.setTileState (k : Core) (t : TileNo) (st : BitVec 2) : Core := k.setTile t (setBits (k.tile t) 0 st)

/-- The pieces of a `bld` into a tile: its lines, which the slice sends. -/
def State.tileIn (s : State) (t : TileNo) (e : Word) : List Move :=
  (linePieces (s.tileAddr t) (tileBytes e)).map fun p => ⟨none, some (s.tileAddr t + p.1), 0, p.2, p.1, [], false, .sent⟩

/-- The pieces of a `bseal` of a tile: its lines, poisoned where a word of them is uncorrectable (R341). -/
def State.tileOut (s : State) (t : TileNo) (e : Word) : List Move :=
  (linePieces (s.tileAddr t) (tileBytes e)).map fun p =>
    ⟨some (s.tileAddr t + p.1), none, 0, p.2, p.1, s.readLine (s.tileAddr t + p.1) p.2, s.poisoned (s.tileAddr t + p.1) p.2, .todo⟩

/-- Issue a basin operation on a whole tile, whose ST becomes `st` (R337). -/
def State.launchBasin (s : State) (o : EngineOp) (dst : Bool) (st : BitVec 2) (t : TileNo) (e : Word) (us : List UnitName) : Try State := do
  let ranges := [(Eng.basin, dst, s.tileAddr t, tileBytes e)]
  s.mayIssue true ranges
  s.roomForUnits us
  let x := (s.issueOp ranges { o with ocx := true }).next 4
  return { x with core := x.core.setTileState t st }

/-- Every piece of an operation fails with a cause, and `kaddr` is to hold `addr`. -/
def State.failOp (s : State) (c : CoreName) (id : Nat) (code : Byte) (addr : Word) : State :=
  (s.failMoves c id (List.range ((s.findOp c id).elim 0 (·.moves.length))) code).modOp c id fun o => { o with code := code, addr := addr }

/-- BSEAL (R341). -/
def execBseal (d : Reg) (t : TileNo) (s : State) : Host.Outcome State Fault Refusal :=
  run .basin s do
    s.dst d
    let e ← s.basinTile t
    check s (bit e 34)
    let p := bits e 41 23
    let id := s.fresh
    match (s.boundTile s.taskId t e).bind fun b => (s.partSlice p).map fun v => (b, v) with
    | some (b, v) =>
      let x ← s.launchBasin (newOp (.bseal v p b.seq) d 1 (some t) 0 (s.tileOut t e)) false 3 t e []
      let x := x.modBasin p fun q => { q with tiles := q.tiles.map fun y => if y.seq = b.seq then { y with state := .sealing } else y }
      return x.pump x.cur id
    | none =>
      let x ← s.launchBasin (newOp (.bseal s.unit p 0) d 1 (some t) 0 (s.tileOut t e)) false 3 t e []
      return x.failOp x.cur id 0x05 0

/-- BLD (R342). -/
def execBld (d : Reg) (t : TileNo) (s : State) : Host.Outcome State Fault Refusal :=
  run .basin s do
    s.dst d
    let e ← s.basinTile t
    check s (!bit e 34)
    match s.core.ctl.task with
    | none => return s.next 4
    | some k =>
      let debt := recArg k.record 3
      let owed := recOwed k.record
      let id := s.fresh
      let u := if owed = 0 then none else s.partSlice (wordPart debt)
      let x ← s.launchBasin (newOp .bld d 2 (some t) 0 (s.tileIn t e)) true 1 t e u.toList
      match u with
      | some u => return x.post x.unit u 22 x.ctx false false (.basin (.read debt owed (tileBytes e / 4096) k.id id)) (.bld x.cur id)
      | none => return x.failOp x.cur id 0x07 (if owed = 0 then 0 else debt)

/-- The answer to a `bld` has come (R342): every line of the basin tile has, and the rest of the tile is zeroed. -/
def State.basinReturned (s : State) (o : Outst) (st : Byte) (body : Body) : State :=
  let s := s.forget o
  match o.purpose with
  | .bld c id =>
    match s.findOp c id with
    | none => s
    | some op =>
      if st ≠ 0 then
        let addr : Word := match st.toNat, body with
          | 0x07, .value (w :: _) => w
          | 0x0A, _ => BitVec.ofNat 64 ((op.moves.head?.bind (·.dst)).getD 0)
          | _, _ => 0
        s.failOp c id st addr
      else
        let zero (m : Move) : Move := if m.st.ended then m else { m with data := List.replicate m.bytes 0, st := .todo }
        (s.modOp c id fun x => { x with moves := x.moves.map zero }).pump c id
  | _ => s

/-- What a completed `bseal` or `bld` leaves of its tile (R341, R342): ready, unbound after `bseal`, poisoned by ECCU of
`bld`. -/
def basinEntry (kind : OpKind) (code : Byte) (e : Word) : Word :=
  let e := setBits e 0 2#2
  match kind with
  | .bseal _ _ _ => setBits (setBit e 34 false) 35 (0 : BitVec 29)
  | .bld => if code = 0x0A then setBit e 15 true else e
  | _ => e

/-- A basin operation. -/
def OpKind.onTile : OpKind → Bool
  | .bseal _ _ _ => true
  | .bld => true
  | _ => false

/-- The tile of a completed basin operation, wherever its task is; one that `bld` has made ready is observed by the first instruction that
names it (R347). -/
def State.settleTile (s : State) (c : CoreName) (o : EngineOp) : State :=
  match o.tile with
  | none => s
  | some t =>
    if o.kind.onTile then
      let s := s.forTask c o.task (fun k => k.setTile t (basinEntry o.kind o.code (k.tile t)))
        (fun v => { v with tiles := v.tiles.set t.toNat (basinEntry o.kind o.code (v.tiles.get t.toFin)) t.isLt })
      if o.kind = .bld then s.modTaskNamed o.task fun k => { k with unseen := t :: k.unseen.filter (· != t) } else s
    else s

/-- BFORFEIT (R344). -/
def execBforfeit (d u : Reg) (s : State) : Host.Outcome State Fault Refusal :=
  run .basin s do
    let n ← s.src u
    s.dst d
    check s (decide (n.toNat ≤ 255))
    match s.core.ctl.task with
    | none => return s.next 4
    | some k =>
      let debt := recArg k.record 3
      let owed := recOwed k.record
      s.basinAnswer d (if owed = 0 then none else s.partSlice (wordPart debt)) (.forfeit debt owed n.toNat) 0

/-- BFORFEIT_T (R345). -/
def execBforfeitT (t : TileNo) (s : State) : Host.Outcome State Fault Refusal :=
  run .basin s do
    let e := s.core.tile t
    check s (tileState e != 0 && !bit e 34)
    waitFor (tileState e == 2 && !s.unseen t) (.tile t)
    waitFor (!s.core.locked (s.tileAddr t) (tileBytes e)) .lock
    let k := (tilePages e).foldl (fun (k : Core) n => k.setPage n ⟨.free, 0, false, false, 0⟩) s.core
    return ({ s with core := k.setTile t 0 }).next 4

/-- BQUERY (R346). -/
def execBquery (d u : Reg) (sel : BitVec 4) (s : State) : Host.Outcome State Fault Refusal :=
  run .basin s do
    check s (decide (sel.toNat ≤ 4))
    check s (sel != 3 || u == 0)
    let w ← s.src u
    s.dst d
    if sel = 3 then
      match s.core.ctl.task with
      | none => return s.next 4
      | some k =>
        let debt := recArg k.record 3
        let owed := recOwed k.record
        s.basinAnswer d (if owed = 0 then none else s.partSlice (wordPart debt)) (.query 3 debt owed) 0
    else s.basinAnswer d (s.partSlice (wordPart w)) (.query sel.toNat w 0) (BitVec.allOnes 64)

end Sys2Proof.Machine
end

