-- ==== Sys2Proof/Machine/Matrix.lean ====
section
/-! DEFINITION. The matrix unit (R352 to R381): slots, banks, products, accumulators, teams and partials; its wake (R31). -/

namespace Sys2Proof.Machine

/-! ## Form and power (R114, R359, R368) -/

/-- Major 0x4C, and `mchk` of 0x4D: in the matrix stream, or in the control stream with none open; `p` says that it takes a
prefix. -/
def Form.matrix (p : Bool) : Form :=
  { Form.base with pfx := p, group := 2, inVector := false, inRoutine := false, withMatrix := false, inPair := false }

/-- Change the acting core's matrix unit. -/
def State.modMat (s : State) (f : Matrix → Matrix) : State := { s with core := { s.core with mat := f s.core.mat } }
/-- Change a core's matrix unit. -/
def State.modMatOf (s : State) (c : CoreName) (f : Matrix → Matrix) : State := s.modCore c fun k => { k with mat := f k.mat }
/-- Change the governor of a logical die. -/
def State.modGov (s : State) (die : Nat) (f : Governor → Governor) : State :=
  if h : die < 16 then { s with govs := s.govs.set die (f s.govs[die]) h } else s

/-- The second and third steps of R368: the power class (R359), and the wake that a sleeping unit needs (R31). -/
def State.powered (s : State) (body : Try State) : Try State := do
  if (bits s.core.ctl.k.kpower 0 2).toNat < 2 then raise 0x11 0
  match s.core.mat.power with
  | .awake => body
  | .asleep =>
    return ((s.modMat fun m => { m with power := .queued }).modGov (dieOf s.cur) fun g => { g with wakes := g.wakes ++ [s.cur] }).setStall .wake
  | _ => stall .wake

/-- WAKE_BEGIN (R31): the oldest wake request of a die is granted. -/
def execWakeBegin (die : Nat) (s : State) : Host.Outcome State Fault Refusal :=
  match (s.gov die).wakes with
  | [] => .next s
  | c :: rest => .next ((s.modGov die fun g => { g with wakes := rest }).modMatOf c fun m => { m with power := .waking })

/-- WAKE_COMPLETE (R31): a wake that has begun ends, whoever asked for it. -/
def execWakeComplete (c : CoreName) (s : State) : Host.Outcome State Fault Refusal :=
  if (s.getCore c).mat.power = .waking then .next (s.modMatOf c fun m => { m with power := .awake }) else .next s

/-- MATRIX_SLEEP (R31): an idle unit goes to sleep where `ocx` is zero, and keeps its contents. -/
def execMatrixSleep (c : CoreName) (s : State) : Host.Outcome State Fault Refusal :=
  let k := s.getCore c
  if k.mat.power = .awake ∧ k.ctl.oc.ocx = 0 then .next (s.modMatOf c fun m => { m with power := .asleep }) else .next s

/-! ## Descriptors (R352, R353, R356, R360) -/

/-- The descriptor is of a slot or bank in use. -/
def descValid (d : Word) : Bool := bit d 63
/-- KIND. -/
def descKind (d : Word) : Nat := (bits d 60 3).toNat
/-- K-rows loaded. -/
def descK (d : Word) : Nat := (bits d 46 7).toNat + 1
/-- N-columns loaded (R352). -/
def descN (d : Word) : Nat := (bits d 40 6).toNat + 1
/-- Rows loaded in a bank (R353). -/
def descM (d : Word) : Nat := (bits d 38 8).toNat + 1
/-- POI. -/
def descPoison (d : Word) : Bool := bit d 59
/-- FMT. -/
def descFmt (d : Word) : BitVec 4 := bits d 53 4

/-- A descriptor with V 1; `low` is the field of columns or rows, in place. -/
def descOf (kind : Nat) (poison scaled work : Bool) (fmt : BitVec 4) (k : Nat) (low : Word) : Word :=
  let x := setBits (setBits (setBits (setBit 0#64 63 true) 60 (BitVec.ofNat 3 kind)) 53 fmt) 46 (BitVec.ofNat 7 (k - 1))
  setBit (setBit (setBit x 59 poison) 58 scaled) 57 work ||| low

/-- NM1 in place. -/
def columnsField (n : Nat) : Word := BitVec.ofNat 64 (n - 1) <<< 40
/-- MM1 in place. -/
def rowsField (m : Nat) : Word := BitVec.ofNat 64 (m - 1) <<< 38

/-- Slot `n`. -/
def Matrix.slot (m : Matrix) (n : Nat) : MSlot := m.slots.get (Fin.ofNat 8 n)
/-- The unit with slot `n` set. -/
def Matrix.setSlot (m : Matrix) (n : Nat) (x : MSlot) : Matrix :=
  { m with slots := m.slots.set (n % 8) x (Nat.mod_lt n (by decide)) }
/-- Bank `n`. -/
def Matrix.bank (m : Matrix) (n : Nat) : MSlot := m.banks.get (Fin.ofNat 2 n)
/-- The unit with bank `n` set. -/
def Matrix.setBank (m : Matrix) (n : Nat) (x : MSlot) : Matrix :=
  { m with banks := m.banks.set (n % 2) x (Nat.mod_lt n (by decide)) }

/-- The other slot of a panel that takes two (R352): of a 16-bit pair, or of the means and log-deviations. -/
def Matrix.partner (m : Matrix) (n : Nat) : Option Nat :=
  let d := (m.slot n).desc
  if descValid d && decide (2 ≤ descKind d) then some ((n + 4) % 8) else none

/-- The unit once slots are to be filled: the other slot of a panel that loses one is emptied (R371). -/
def Matrix.clearSlots (m : Matrix) (l : List Nat) : Matrix :=
  (l ++ l.filterMap m.partner).foldl (fun m n => m.setSlot n .empty) m

/-- The accumulator record of a tile (R356). -/
def Matrix.record (m : Matrix) (t : TileNo) : Option Word := m.accs.find? fun r => bits r 56 6 == t
/-- A new record (R362): NSTEP 1, LSTEP 0, LASTK none. -/
def newRecord (t : TileNo) : Word := 0x80010000FFFFFFFF#64 ||| (t.setWidth 64 <<< 56)
/-- The unit with a record changed. -/
def Matrix.setRecord (m : Matrix) (t : TileNo) (r : Word) : Matrix :=
  { m with accs := m.accs.map fun x => if bits x 56 6 = t then r else x }
/-- The unit with a record for tile `t`; none where 8 others are in use. -/
def Matrix.needRecord (m : Matrix) (t : TileNo) : Option Matrix :=
  if (m.record t).isSome then some m else if m.accs.length < 8 then some { m with accs := m.accs ++ [newRecord t] } else none

/-- The unit is in a team, and whether its mode is arrival (R360). -/
def Matrix.inTeam (m : Matrix) : Bool := bit m.team 63
/-- MODE 1. -/
def Matrix.arrival (m : Matrix) : Bool := bit m.team 62
/-- Members of a team column. -/
def Matrix.teamRows (m : Matrix) : Nat := (bits m.team 56 3).toNat + 1
/-- This member owns its column. -/
def Matrix.owns (m : Matrix) : Bool := bits m.team 59 3 == bits m.team 50 3

/-! ## Conversion and products (R92 to R95) -/

/-- The class of an element. -/
def classOfNum : Num → NumClass
  | .nan _ _ => .nan
  | .inf s => if s then .negInf else .posInf
  | .zero _ => .zero
  | .fin m _ => if m < 0 then .neg else .pos

/-- One block of 32 elements converted (R92); its exponent, none for a NaN block. -/
def fixedBlock (f : Fmt) (xs : List Num) (scale : Option Nat) : List MCell × Option Int :=
  let top : Int := (f.width : Int) - 2
  let (q, e) : (Num → Int) × Int :=
    if f.isInt then (fun (x : Num) => match x with
      | .fin m e => toInteger true m e
      | _ => 0, 0)
    else
      match maxLog xs with
      | none => (fun _ => 0, 0)
      | some l => (fun (x : Num) => match x with
        | .fin m e => toInteger false m (e + top - l)
        | _ => 0, l - top)
  (xs.map fun x => ⟨q x, classOfNum x⟩,
    match scale with
    | none => some e
    | some c => if c = 255 then none else some (e + (c : Int) - 127))

/-- A line of 128 K-elements converted, with its four exponents. -/
def fixedLine (f : Fmt) (x : Nat → Num) (scale : Nat → Option Nat) : List MCell × List (Option Int) :=
  let bs := (List.range 4).map fun b => fixedBlock f ((List.range 32).map fun i => x (32 * b + i)) (scale b)
  (bs.flatMap (·.1), bs.map (·.2))

/-- Element (row, column) of an operand in a tile (R354). -/
def tileElem (bs : List Byte) (f : Fmt) (ns : Bool) (rb r c : Nat) : Num :=
  decodeNum f ns (ofBytes ((bs.drop (r * rb + c * (f.width / 8))).take (f.width / 8)))

/-- The cell of no element. -/
def MCell.none : MCell := ⟨0, .zero⟩

/-- Cell `k` of line `n`. -/
def Panel.cell (p : Panel) (n k : Nat) : MCell := ((p.cells[n]?).bind (·[k]?)).getD .none

/-- The checksum column of a B panel: for each K-row the sum over the columns (R364). -/
def checksums (cells : List (List MCell)) : List Int :=
  (List.range 128).map fun k => (cells.map fun l => ((l[k]?).elim 0 (·.q))).sum

/-- A panel from lines. -/
def panelOf (lines : List (List MCell × List (Option Int))) (sums : Bool) : Panel :=
  ⟨lines.map (·.1), lines.map (·.2), if sums then checksums (lines.map (·.1)) else []⟩

/-- The E8 scale at byte `a` of a tile, where the operand is block-scaled and has the block. -/
def scaleAt (bs : List Byte) (on : Bool) (a : Nat) : Option Nat := if on then some ((bs[a]?).getD 0).toNat else none

/-- A B panel from a tile's bytes (R354, R371): `k` rows of `n` columns. -/
def loadB (bs : List Byte) (f : Fmt) (ns es : Bool) (rb k n : Nat) : Panel :=
  panelOf ((List.range 64).map fun c =>
    fixedLine f (fun r => if r < k ∧ c < n then tileElem bs f ns rb r c else .zero false)
      (fun b => scaleAt bs (es && decide (32 * b < k ∧ c < n)) (k * rb + 64 * b + c))) true

/-- The rows of A from a tile's bytes: `m` rows of `k` elements. -/
def loadA (bs : List Byte) (f : Fmt) (ns es : Bool) (rb m k : Nat) : Panel :=
  panelOf ((List.range m).map fun r =>
    fixedLine f (fun c => if c < k then tileElem bs f ns rb r c else .zero false)
      (fun b => scaleAt bs (es && decide (32 * b < k)) (m * rb + 4 * r + b))) false

/-- Cells of block `b` of a line. -/
def blockOf {α : Type} (l : List α) (b : Nat) : List α := (l.drop (32 * b)).take 32

/-- An element that R94 excludes. -/
def MCell.special (c : MCell) : Bool := c.cls == .nan || c.cls == .posInf || c.cls == .negInf

/-- The exact sum of products of fixed-point values. -/
def dotInt (xs ys : List Int) : Int := (xs.zipWith (· * ·) ys).sum

/-- The block sum of two lines as an exact value (R93). -/
def blockTerm (a b : List MCell) (ea eb : List (Option Int)) (n : Nat) : Num :=
  Num.of (dotInt ((blockOf a n).map (·.q)) ((blockOf b n).map (·.q))) (((ea[n]?).bind id).getD 0 + ((eb[n]?).bind id).getD 0)

/-- The sign of a class: −1, 0 or 1. -/
def NumClass.sign : NumClass → Int
  | .pos => 1
  | .posInf => 1
  | .neg => -1
  | .negInf => -1
  | _ => 0

/-- The product of two elements where one is infinite (R94): −1 or 1 for an infinity, 0 for NaN. -/
def infProduct (a b : MCell) : Int := a.cls.sign * b.cls.sign

/-- One element of a partial with something infinite or NaN (R94). -/
def specialPartial (a b : List MCell) (ea eb : List (Option Int)) : Num :=
  if a.any (·.cls == .nan) || b.any (·.cls == .nan) || ea.any (·.isNone) || eb.any (·.isNone) then .quiet
  else
    let ps := ((a.zip b).filter fun p => p.1.special || p.2.special).map fun p => infProduct p.1 p.2
    if ps.any (· == 0) || (ps.any (· == 1) && ps.any (· == -1)) then .quiet else .inf (ps.any (· == -1))

/-- One element of a panel partial (R93, R94). -/
def partialAt (a b : List MCell) (ea eb : List (Option Int)) : W32 :=
  if a.any (·.special) || b.any (·.special) || ea.any (·.isNone) || eb.any (·.isNone) then rne32 (specialPartial a b ea eb)
  else rne32 ((List.range 4).foldl (fun x n => x.add (blockTerm a b ea eb n)) (.zero false))

/-- Line `n` of a panel with its exponents. -/
def Panel.line (p : Panel) (n : Nat) : List MCell × List (Option Int) := ((p.cells[n]?).getD [], (p.exps[n]?).getD [])

/-- The panel partial (R93): `m` rows of `n` columns. -/
def partialSum (a b : Panel) (m n : Nat) : List (List W32) :=
  (List.range m).map fun i => (List.range n).map fun j =>
    partialAt (a.line i).1 (b.line j).1 (a.line i).2 (b.line j).2

/-- Block `n` of a line has an element that is excluded from the check (R364). -/
def lineExcluded (l : List MCell × List (Option Int)) (n : Nat) : Bool :=
  (blockOf l.1 n).any (·.special) || ((l.2[n]?).bind id).isNone

/-- The check of row `m`, block `n` (R364): none where it is excluded, else whether it agrees. -/
def checkBlock (a b : Panel) (m n : Nat) : Option Bool :=
  let bl := (List.range 64).map b.line
  if lineExcluded (a.line m) n || bl.any (lineExcluded · n) then none
  else
    let qa := (blockOf (a.line m).1 n).map (·.q)
    some (decide ((bl.map fun l => dotInt qa ((blockOf l.1 n).map (·.q))).sum = dotInt qa (blockOf b.cs n)))

/-- Every check of a product: `m` rows, the blocks of `k` K-rows. -/
def checkAll (a b : Panel) (m k : Nat) : List (Option Bool) :=
  (List.range m).flatMap fun i => (List.range ((k + 31) / 32)).map fun n => checkBlock a b i n

/-- `kchk` after a product (R365). -/
def countChecks (x : Word) (l : List (Option Bool)) : Word :=
  let out := (bits x 32 32).toNat + (l.filter (·.isNone)).length
  let did := (bits x 0 32).toNat + (l.filter (·.isSome)).length
  BitVec.ofNat 64 (Nat.min out 0xFFFFFFFF * 2 ^ 32 + did % 2 ^ 32)

/-- Add the rows of a partial into the `bytes` bytes of an accumulator at `a` (R95, R356). -/
def addRows (mem : List Host.Cell) (a bytes : Nat) (rows : List (List W32)) : List Host.Cell :=
  (List.range rows.length).foldl (fun mem m =>
    if 256 * m + 256 ≤ bytes then
      let row := (rows[m]?).getD []
      (List.range row.length).foldl (fun mem n =>
        let x := a + 256 * m + 4 * n
        writeNat mem x 4 (fadd32 (BitVec.ofNat 32 (readNat mem x 4)) ((row[n]?).getD 0)).toNat) mem
    else mem) mem

/-! ## The owner (R356, R362, R363, R366) -/

/-- Address of the first byte of tile `t` of core `c`. -/
def State.tileAddrOf (s : State) (c : CoreName) (t : TileNo) : Nat := s.sramBase c + 4096 * tileBase ((s.getCore c).tile t)

/-- Poison the accumulator tile `t` of core `c`, and its record; the unit writes an event with LSTEP (R366, R463). -/
def State.poisonAcc (s : State) (c : CoreName) (t : TileNo) : State :=
  let k := s.getCore c
  let last : W32 := (k.mat.record t).elim 0 fun r => (bits r 40 8).setWidth 32
  let s := s.event (dieOf c) ⟨10, 0x0A, c, bits k.ctl.k.kctx 16 16, bits k.ctl.k.kctx 32 32, BitVec.ofNat 64 (s.tileAddrOf c t), last⟩
  let s := s.modCore c fun k => k.setTile t (setBit (k.tile t) 15 true)
  s.modMatOf c fun m => (m.record t).elim m fun r => m.setRecord t (setBit r 62 true)

/-- Complete the PSUMs of a partial (R362, R363); an owner's own partial fails its `mmat` instead. -/
def State.ackPartial (s : State) (c : CoreName) (p : Partial) (st : Byte) : State :=
  let mine (r : Recv) : Bool := match r.body with
    | .psum q => q.op == p.op
    | _ => false
  match s.fab.rxq.filter mine with
  | r :: l => (r :: l).foldl (fun s r => s.answer r st .none) s
  | [] => if st ≠ 0 ∧ p.src = c then s.modOp c p.op fun o => { o with code := st } else s

/-- Add one partial of an open step (R362, R363). -/
def State.addPartial (s : State) (c : CoreName) (p : Partial) : State :=
  let spoiled := ((s.getCore c).mat.record p.tile).any (bit · 62)
  let s :=
    if spoiled then s
    else if p.poison then s.poisonAcc c p.tile
    else { s with mem := addRows s.mem (s.tileAddrOf c p.tile) (tileBytes ((s.getCore c).tile p.tile)) p.data }
  s.ackPartial c p 0

/-- The operation is this core's `mmat`, as owner, of step `n` on tile `t`, not complete. -/
def EngineOp.opens (o : EngineOp) (task : Nat) (t : TileNo) (n : Nat) : Bool :=
  match o.kind with
  | .mmat p own _ => own && o.task == task && p.tile == t && p.step == n && !(o.moves.all (·.st.ended))
  | _ => false

/-- Steps of tile `t` that are open at core `c`, oldest first. -/
def State.openSteps (s : State) (c : CoreName) (t : TileNo) : List Nat :=
  let k := s.getCore c
  let task := k.ctl.task.elim 0 (·.id)
  (k.mem.ops.filterMap fun o => match o.kind with
    | .mmat p _ _ => if o.opens task t p.step then some p.step else none
    | _ => none).eraseDups

/-- A step has been added: the owner's `mmat` is done, LSTEP names the step unless the record is poisoned (R362, R366). -/
def State.closeStep (s : State) (c : CoreName) (t : TileNo) (n : Nat) : State :=
  let k := s.getCore c
  let task := k.ctl.task.elim 0 (·.id)
  let s := (k.mem.ops.find? (·.opens task t n)).elim s fun o => s.setMove c o.id 0 .done
  s.modMatOf c fun m =>
    let m := { m with reorder := m.reorder.filter fun p => !(p.tile == t && p.step == n) }
    (m.record t).elim m fun r => if bit r 62 then m else m.setRecord t (setBits r 40 (BitVec.ofNat 8 n))

/-- Insert by rising key. -/
def insertUp {α : Type} (f : α → Nat) (a : α) : List α → List α
  | [] => [a]
  | b :: l => if f a < f b then a :: b :: l else b :: insertUp f a l
/-- The list in rising order of the key, equal keys in their order. -/
def sortUp {α : Type} (f : α → Nat) (l : List α) : List α := l.foldl (fun acc a => insertUp f a acc) []

/-- KBASE is not above LASTK (R363). -/
def Partial.stale (p : Partial) (r : Word) : Bool := bits r 0 32 != 0xFFFFFFFF#32 && decide (p.kbase.toNat ≤ (bits r 0 32).toNat)

/-- The partials of a step at an owner. -/
def Matrix.ofStep (m : Matrix) (t : TileNo) (n : Nat) : List Partial := m.reorder.filter fun p => p.tile == t && p.step == n

/-- Ordered mode (R362): step NSTEP, once open with every partial, is added in ascending KBASE. -/
def State.orderedStep (s : State) (c : CoreName) (t : TileNo) : Option State :=
  let m := (s.getCore c).mat
  (m.record t).bind fun r =>
    let n := (bits r 48 8).toNat
    let ps := m.ofStep t n
    if (s.openSteps c t).contains n && decide (m.teamRows ≤ ps.length) then
      let ps := sortUp (fun p => p.kbase.toNat * 64 + p.row * 8 + p.col) ps
      let good := ps.filter fun p => !p.stale r
      let s := ps.foldl (fun (s : State) p => if p.stale r then s.ackPartial c p 0x01 else s.addPartial c p) s
      let s := s.modMatOf c fun m => (m.record t).elim m fun r =>
        m.setRecord t (setBits (setBits r 48 (BitVec.ofNat 8 (n % 255 + 1))) 0 (good.foldl (fun (_ : W32) p => p.kbase) (bits r 0 32)))
      some (s.closeStep c t n)
    else none

/-- Arrival mode (R362): partials of open steps, those that wait in ascending (ROW, COL). -/
def State.arrivalStep (s : State) (c : CoreName) (t : TileNo) (n : Nat) : State :=
  let ps := sortUp (fun p => p.row * 8 + p.col) (((s.getCore c).mat.ofStep t n).filter (!·.added))
  let s := ps.foldl (fun (s : State) p => s.addPartial c p) s
  let s := s.modMatOf c fun m => { m with reorder := m.reorder.map fun p => if p.tile = t ∧ p.step = n then { p with added := true } else p }
  let m := (s.getCore c).mat
  if m.teamRows ≤ (m.ofStep t n).length then s.closeStep c t n else s

/-- Add the steps of a tile that ordered mode can add, one after another. -/
def orderedSteps (c : CoreName) (t : TileNo) : Nat → State → State
  | 0, s => s
  | n + 1, s => (s.orderedStep c t).elim s (orderedSteps c t n)

/-- Add what can be added to a tile (R362). -/
def State.advance (s : State) (c : CoreName) (t : TileNo) : State :=
  let m := (s.getCore c).mat
  if !m.inTeam then s
  else if m.arrival then (s.openSteps c t).foldl (fun s n => s.arrivalStep c t n) s
  else orderedSteps c t 255 s

/-- Step `n` precedes NSTEP of a record, in ordered mode (R362). -/
def precedes (n : Nat) (r : Word) : Bool :=
  let d := ((bits r 48 8).toNat + 255 - n) % 255
  decide (1 ≤ d ∧ d ≤ 127)

/-- A partial reaches the owner `c` (R362, R363): it waits or is added, or is refused. -/
def State.takePartial (s : State) (c : CoreName) (p : Partial) : State :=
  let k := s.getCore c
  let m := k.mat
  let member := m.inTeam && k.ctl.task.any fun t => p.src == c || t.team.any (·.gang == p.gang)
  match if member then m.needRecord p.tile else none with
  | none => s.ackPartial c p 0x01
  | some m =>
    let r := (m.record p.tile).getD 0
    let twice := (m.ofStep p.tile p.step).any fun q => q.row == p.row && q.col == p.col
    if (!m.arrival && precedes p.step r) || twice then
      let s := (s.modMatOf c fun _ => m).ackPartial c p 0x01
      if p.src = c then s.setMove c p.op 0 (.failed 0x01) else s
    else (s.modMatOf c fun _ => { m with reorder := m.reorder ++ [p] }).advance c p.tile

/-- The messages of a partial that have come to a unit. -/
def State.psumsOf (s : State) (u : UnitName) (x : Psum) : List Psum :=
  s.fab.rxq.filterMap fun r => match r.body with
    | .psum y => if r.dst = u ∧ r.left.isEmpty ∧ y.src = x.src ∧ y.op = x.op then some y else none
    | _ => none

/-- A partial from its messages, once each has come (R361). -/
def gathered (xs : List Psum) (x : Psum) : Option Partial :=
  if xs.length < (bits x.arg2 0 16).toNat then none
  else
    let groups := xs.foldl (fun n y => Nat.max n ((bits y.arg1 8 2).toNat + 1)) 1
    let row (m : Nat) : List W32 := (List.range groups).flatMap fun q =>
      (xs.find? fun y => decide ((bits y.arg1 0 8).toNat = m ∧ (bits y.arg1 8 2).toNat = q)).elim (List.replicate 32 0) fun y =>
        (List.range 32).map fun i => BitVec.ofNat 32 (field y.data (4 * i) 4)
    some ⟨x.src, x.op, x.gang, bits x.arg0 40 6, (bits x.arg0 32 8).toNat, bits x.arg0 0 32, (bits x.arg1 24 8).toNat, (bits x.arg1 16 8).toNat,
      bit x.arg0 47, false, (List.range (xs.length / groups)).map row⟩

/-- PSUM (R361, R362): an owner takes a partial once the last of its messages has come; their completions go once it is added, discarded or
refused. -/
def execPsum (k : Nat) (s : State) : Host.Outcome State Fault Refusal :=
  match s.request k [17] with
  | some r =>
    match r.body with
    | .psum p =>
      let c := unitCore r.dst
      let t :=
        if (s.findOp p.src p.op).isNone then s.answer r 0 .none
        else if (s.getCore c).mat.reorder.any (·.op == p.op) then s.advance c (bits p.arg0 40 6)
        else (gathered (s.psumsOf r.dst p) p).elim s fun x => s.takePartial c x
      .next (t.keep r)
    | _ => .next s
  | none => .next s

/-- The completion of a partial's PSUM has come to its sender (R362). -/
def State.psumReturned (s : State) (o : Outst) (st : Byte) : State :=
  let s := s.forget o
  match o.purpose with
  | .psum c id i => s.setMove c id i (if st = 0 then .done else .failed st)
  | _ => s

/-! ## Teams (R360, R369, R370) -/

/-- The core that holds member (row, column) of the acting task's team: mesh rows with y mod 4 = 3 are passed over (R49). -/
def memberCore (c : CoreName) (row orow : Nat) : CoreName :=
  let y := coreY c
  let e := y / 4 * 3 + y % 4 + orow - row
  coreName (dieOf c) (16 * (e / 3 * 4 + e % 3) + coreX c)

/-- The owner of the acting core's team column. -/
def State.ownerCore (s : State) : CoreName :=
  memberCore s.cur (bits s.core.mat.team 50 3).toNat (bits s.core.mat.team 59 3).toNat

/-- The team descriptor (R360). -/
def teamWord (w : Word) (rows cols row col : Nat) : Word :=
  let x := setBits (setBits (setBit (setBit 0#64 63 true) 62 (bit w 0)) 59 (bits w 1 3)) 56 (BitVec.ofNat 3 (rows - 1))
  setBits (setBits (setBits x 53 (BitVec.ofNat 3 (cols - 1))) 50 (BitVec.ofNat 3 row)) 47 (BitVec.ofNat 3 col)

/-- MTEAM_JOIN (R369): a team of one forms at once; otherwise the member waits for the others. -/
def execMteamJoin (d u : Reg) (s : State) : Host.Outcome State Fault Refusal :=
  run (.matrix false) s <| s.powered do
    let w ← s.src u
    s.dst d
    check s (!s.core.mat.inTeam)
    match s.core.ctl.task with
    | none => return s.next 4
    | some t =>
      let shape := recTeam t.record
      check s (bits w 4 60 == 0 && decide ((bits w 1 3).toNat < shape.1))
      match t.team with
      | none => return ((s.modMat fun m => { m with team := teamWord w 1 1 0 0 }).setG d 0).next 4
      | some _ => return (s.modMat fun m => { m with join := some ⟨w, d, s.seq⟩ }).setStall .answer

/-- The join of one member ends (R369): `g[d]` is 0 with the descriptor set, or 1. -/
def State.endJoin (s : State) (c : CoreName) (equal : Bool) : State :=
  let k := s.getCore c
  match k.mat.join, k.ctl.task with
  | some j, some t =>
    let shape := recTeam t.record
    let s := s.modMatOf c fun m => { m with
      join := none
      team := if equal then t.team.elim 0 fun x => teamWord j.word shape.1 shape.2 x.row x.col else m.team }
    s.within c j.q fun s => (s.setG j.reg (if equal then 0 else 1)).next 4
  | _, _ => s

/-- MTEAM_JOIN_COMPLETE (R369): every member of core `c`'s team has issued `mteam.join`. -/
def execMteamJoinComplete (c : CoreName) (s : State) : Host.Outcome State Fault Refusal :=
  match (s.getCore c).ctl.task.bind fun t => t.team.map fun m => (m.gang, recSize t.record) with
  | none => .next s
  | some (gang, n) =>
    let cs := s.teamCores gang
    let words := cs.filterMap fun d => (s.getCore d).mat.join.map (·.word)
    if words.length = n ∧ cs.all fun d => !(s.getCore d).ctl.stopped && (s.getCore d).ctl.run == .task then
      let equal := words.all (some · == words.head?)
      .next (cs.foldl (fun s d => s.endJoin d equal) s)
    else .next s

/-- An `mmat` of the acting core's task is outstanding; `t`: on that tile. -/
def State.mmatOn (s : State) (t : Option TileNo) : Bool :=
  s.core.mem.ops.any fun o => match o.kind with
    | .mmat p _ _ => o.task == s.taskId && t.all (· == p.tile)
    | _ => false

/-- MTEAM_LEAVE (R370). -/
def execMteamLeave (d : Reg) (s : State) : Host.Outcome State Fault Refusal :=
  run (.matrix false) s <| s.powered do
    s.dst d
    if !s.core.mat.inTeam then return (s.setG d 1).next 4
    waitFor (!s.mmatOn none) .answer
    return ((s.modMat fun m => { m with team := 0, accs := [], reorder := [] }).setG d 0).next 4

/-! ## Loads (R354, R355, R371, R386) -/

/-- The format of an operand: the prefix's, M8 without one; ILL outside the accepted set (R355). -/
def State.operandFmt (s : State) (f : Prefix → BitVec 4) (pairs : Bool) : Try Fmt :=
  match s.pending with
  | none => .ok .m8
  | some p =>
    match fmtOf (f p) with
    | some .pair => if pairs then .ok .pair else illegal s
    | some x => if x ∈ [Fmt.m8, .int8, .fp16, .bf16, .int16] then .ok x else illegal s
    | none => illegal s

/-- The code of a format (R77). -/
def Fmt.code : Fmt → BitVec 4
  | .fp32 => 0
  | .fp16 => 1
  | .bf16 => 2
  | .m8 => 3
  | .m4 => 4
  | .pair => 5
  | .int8 => 6
  | .int16 => 7
  | .int32 => 8
  | .int64 => 9
  | .e8 => 10

/-- An operation of the unit that loads `n` bytes of tile `t`, its pieces read (R366, R371). -/
def State.loadOp (s : State) (kind : OpKind) (u : Reg) (fn : BitVec 3) (t : TileNo) (n : Nat) : EngineOp :=
  let a := s.tileAddr t
  let moves := (linePieces a n).map fun p =>
    (⟨some (a + p.1), none, 0, p.2, p.1, [], s.poisoned (a + p.1) p.2, .done⟩ : Move)
  { newOp kind u fn (some t) 0 moves with ocx := true }

/-- Cells as they are stored, 128 by 64, of one byte of each element of a PAIR panel (R386). -/
def pairCells (bs : List Byte) (rb k n off : Nat) : Panel :=
  ⟨(List.range 64).map fun c => (List.range 128).map fun r =>
    ⟨if r < k ∧ c < n then (((bs[r * rb + 2 * c + off]?).getD 0).toNat : Int) else 0, .zero⟩, [], []⟩

/-- The slots after `mldb` (R371, R386): the panel of `k` by `n` elements of format `f` in slot `d`. -/
def Matrix.fillSlots (m : Matrix) (d : Nat) (f : Fmt) (bs : List Byte) (ns es bad : Bool) (rb k n : Nat) : Matrix :=
  let desc (kind : Nat) : Word := descOf kind bad es false f.code k (columnsField n)
  if f = .pair then
    let w := d ^^^ 1
    let m := m.clearSlots [d, d + 4, w, w + 4]
    (m.setSlot d ⟨desc 4, pairCells bs rb k n 1, false⟩).setSlot (d + 4) ⟨desc 5, pairCells bs rb k n 0, false⟩
  else
    let p := loadB bs f ns es rb k n
    if f.width = 16 then
      ((m.clearSlots [d, d + 4]).setSlot d ⟨desc 2, p, false⟩).setSlot (d + 4) ⟨desc 3, ⟨[], [], []⟩, false⟩
    else (m.clearSlots [d]).setSlot d ⟨desc 1, p, false⟩

/-- MLDB (R371, R386). -/
def execMldb (t : TileNo) (u : Reg) (m : BitVec 4) (d : BitVec 5) (s : State) : Host.Outcome State Fault Refusal :=
  run (.matrix true) s do
    check s (decide (d.toNat ≤ 7))
    let f ← s.operandFmt (·.fb) true
    let es := s.pending.any (·.esB)
    check s ((f.width == 8 || decide (d.toNat ≤ 3)) && (f != .pair || !es))
    s.powered do
      let e ← s.readyTile t
      let map := s.core.vec.m.get m.toFin
      let k := mapRows map
      let n := mapCols map
      let rb := mapRowBytes map
      let bytes := k * rb + if es then 64 * ((k + 31) / 32) else 0
      check s (mapOk map && mapFmt map == some f && decide (k ≤ 128 ∧ n ≤ 64 ∧ bytes ≤ tileBytes e))
      s.dst u
      let ranges := [(Eng.matrix, false, s.tileAddr t, bytes)]
      s.mayIssue true ranges
      let a := s.tileAddr t
      let slots := if f.width = 16 then [d.toNat, d.toNat + 4] else [d.toNat]
      let x := s.issueOp ranges (s.loadOp (.mldb slots) u 2 t bytes)
      return (x.modMat fun q => q.fillSlots d.toNat f (readBytes s.mem a bytes) (s.core.ns s.seq) es (s.poisoned a bytes) rb k n).next 4

/-- MLDA (R371). -/
def execMlda (t : TileNo) (u : Reg) (m : BitVec 4) (d : BitVec 5) (s : State) : Host.Outcome State Fault Refusal :=
  run (.matrix true) s do
    check s (decide (d.toNat ≤ 1))
    let f ← s.operandFmt (·.fa) false
    let es := s.pending.any (·.esA)
    s.powered do
      let e ← s.readyTile t
      let map := s.core.vec.m.get m.toFin
      let rows := mapRows map
      let k := mapCols map
      let rb := mapRowBytes map
      let bytes := rows * rb + if es then 4 * rows else 0
      check s (mapOk map && mapFmt map == some f && decide (rows ≤ 256 ∧ k ≤ 128 ∧ bytes ≤ tileBytes e))
      s.dst u
      let ranges := [(Eng.matrix, false, s.tileAddr t, bytes)]
      s.mayIssue true ranges
      let a := s.tileAddr t
      let x := s.issueOp ranges (s.loadOp (.mlda d.toNat) u 3 t bytes)
      let desc := descOf 1 (s.poisoned a bytes) es false f.code k (rowsField rows)
      return (x.modMat fun q => q.setBank d.toNat ⟨desc, loadA (readBytes s.mem a bytes) f (s.core.ns s.seq) es rb rows k, false⟩).next 4

/-! ## Products (R364, R366, R372) -/

/-- Loads of the acting core that fill one of the slots, or the bank, have completed. -/
def State.loadsDone (s : State) (slots : List Nat) (bank : Option Nat) : Bool :=
  s.core.mem.ops.all fun o => match o.kind with
    | .mldb l => !(l.any slots.contains)
    | .mlda b => !(bank == some b)
    | _ => true

/-- The slots of the panel in slot `d`. -/
def Matrix.panelSlots (m : Matrix) (d : Nat) : List Nat := d :: (m.partner d).toList

/-- The operand rules that `mma` and `mmat` share (R355, R356, R372). -/
def productOk (e a b : Word) : Bool :=
  descValid a && descValid b && decide (descKind b = 1 ∨ descKind b = 2) && descK a == descK b &&
    decide (256 * descM a ≤ tileBytes e)

/-- The prefix of a product names the formats of its bank and slot (R355). -/
def State.productFmt (s : State) (bank slot : Nat) : Bool :=
  s.pending.all fun p => p.fa == descFmt (s.core.mat.bank bank).desc && p.fb == descFmt (s.core.mat.slot slot).desc

/-- What a product gives: its rows, and the cause it raises, ECCU before CHKSUM (R366, R381). -/
def State.product (s : State) (bank slot : Nat) : List (List W32) × Byte × List (Option Bool) :=
  let a := s.core.mat.bank bank
  let b := s.core.mat.slot slot
  let l := checkAll a.panel b.panel (descM a.desc) (descK a.desc)
  let spoilt (x : MSlot) : Bool := descPoison x.desc || x.bad
  let low := (s.core.mat.partner slot).elim false fun n => spoilt (s.core.mat.slot n)
  (partialSum a.panel b.panel (descM a.desc) (descN b.desc),
    if spoilt a || spoilt b || low then 0x0A else if l.any (· == some false) then 0x14 else 0, l)

/-- The event of a checksum mismatch that core `c` found for the tile at `a` (R364, R463). -/
def State.noteChecksum (s : State) (c : CoreName) (cause : Byte) (a : Nat) : State :=
  let x := (s.getCore c).ctl.k.kctx
  if cause = 0x14 then s.event (dieOf c) ⟨6, 0x14, c, bits x 16 16, bits x 32 32, BitVec.ofNat 64 a, 0⟩ else s

/-- MMA (R372). -/
def execMma (t : TileNo) (u : Reg) (d : BitVec 5) (s : State) : Host.Outcome State Fault Refusal :=
  run (.matrix true) s do
    check s (decide (d.toNat ≤ 7))
    let w ← s.src u
    let bank := (bits w 40 1).toNat
    check s (s.productFmt bank d.toNat)
    s.powered do
      let e ← s.readyTile t
      check s (bits w 56 8 == 0 && bits w 41 15 == 0 && bits w 32 8 == 0 &&
        productOk e (s.core.mat.bank bank).desc (s.core.mat.slot d.toNat).desc)
      waitFor (!s.mmatOn (some t)) .lock
      waitFor (s.loadsDone (s.core.mat.panelSlots d.toNat) (some bank)) .lock
      waitFor (!s.core.locked (s.tileAddr t) (tileBytes e)) .lock
      let (rows, cause, l) := s.product bank d.toNat
      let x := s.modK fun k => { k with kchk := countChecks k.kchk l }
      if cause ≠ 0 then return ((x.noteChecksum x.cur cause (s.tileAddr t)).poisonAcc x.cur t).meetError cause (BitVec.ofNat 64 (s.tileAddr t)) true
      return { x with mem := addRows x.mem (s.tileAddr t) (tileBytes e) rows }.next 4

/-- Issue an `mmat` with the lock of its tile, which earlier ones share (R372). -/
def State.issueMmat (s : State) (o : EngineOp) (own : Bool) (t : TileNo) (bytes : Nat) : Try State := do
  let mine (l : Lock) : Bool := s.core.mem.ops.any fun (x : EngineOp) => match x.kind with
    | .mmat p true _ => x.task == s.taskId && p.tile == t && l.ops.contains x.id
    | _ => false
  let shared := s.core.mem.locks.any mine
  let ranges := if own && !shared then [(Eng.matrix, true, s.tileAddr t, bytes)] else []
  s.mayIssue true ranges
  let id := s.fresh
  let x := s.issueOp ranges o
  if own && shared then
    return x.modMem fun m => { m with locks := m.locks.map fun (l : Lock) => if mine l then { l with ops := l.ops ++ [id] } else l }
  return x

/-- Rows in groups of 32 columns, zero beyond N (R361). -/
def padRows (rows : List (List W32)) : List (List W32) := rows.map fun l => l ++ List.replicate ((32 - l.length % 32) % 32) 0

/-- Groups of 32 columns in a row. -/
def Partial.groups (p : Partial) : Nat := (p.data.head?.elim 0 List.length) / 32

/-- The pieces by which an `mmat` gives up its partial: its messages, or, at the owner, the partial (R361). -/
def Partial.sends (p : Partial) (own : Bool) : List Move :=
  List.replicate (if own then 1 else p.data.length * p.groups) ⟨none, none, 0, 0, 0, [], false, .todo⟩

/-- Message `i` of a partial (R361): row i / groups, group i mod groups. -/
def Partial.message (p : Partial) (i : Nat) : Psum :=
  let m := i / p.groups
  let q := i % p.groups
  ⟨p.src, p.op, p.gang,
    p.kbase.setWidth 64 ||| BitVec.ofNat 64 (p.step * 2 ^ 32) ||| (p.tile.setWidth 64 <<< 40) ||| (ofBool p.poison <<< 47),
    BitVec.ofNat 64 (m + q * 2 ^ 8 + (p.row * 2 ^ 8 + p.col) * 2 ^ 16), BitVec.ofNat 64 (p.data.length * p.groups),
    ((((p.data[m]?).getD []).drop (32 * q)).take 32).flatMap fun x => toBytes 4 x.toNat⟩

/-- The partial of an `mmat` goes to its owner (R361): to this core's own accumulator port, or as PSUM messages, as many as the channel has room
for. -/
def State.sendPartial (s : State) (c : CoreName) (o : EngineOp) (p : Partial) (own : Bool) : State :=
  if own then
    if (s.getCore c).ctl.task.any (·.id == o.task) then (s.setMove c o.id 0 .sent).takePartial c p else s
  else
    let team := (s.getCore c).mat.team
    let v := coreUnit s (memberCore c (bits team 50 3).toNat (bits team 59 3).toNat)
    (List.range o.moves.length).foldl (fun s i =>
      if ((s.findOp c o.id).bind (·.moves[i]?)).any (·.st == .todo) && s.canPost (coreUnit s c) v 1 then
        (s.post (coreUnit s c) v 17 0 false false (.psum (p.message i)) (.psum c o.id i)).setMove c o.id i .sent
      else s) s

/-- MMAT (R372). -/
def execMmat (t : TileNo) (u : Reg) (d : BitVec 5) (s : State) : Host.Outcome State Fault Refusal :=
  run (.matrix true) s do
    check s (decide (d.toNat ≤ 7))
    let w ← s.src u
    let bank := (bits w 40 1).toNat
    check s (s.productFmt bank d.toNat)
    s.powered do
      let e ← s.readyTile t
      let m := s.core.mat
      let step := (bits w 56 8).toNat
      check s (step != 0 && bits w 41 15 == 0 && bits w 32 8 == 0 && m.inTeam &&
        productOk e (m.bank bank).desc (m.slot d.toNat).desc)
      let own := m.owns
      let m' ← (match if own then m.needRecord t else some m with
        | some x => (.ok x : Try Matrix)
        | none => illegal s)
      let (rows, cause, l) := s.product bank d.toNat
      let p : Partial := ⟨s.cur, s.fresh, s.core.ctl.task.elim 0 fun k => k.team.elim 0 (·.gang), t, step, bits w 0 32,
        (bits m.team 50 3).toNat, (bits m.team 47 3).toNat, cause != 0, false, padRows rows⟩
      let o : EngineOp := { newOp (.mmat p own cause) 0 5 (some t) s.pc (p.sends own) with ocx := true }
      let x ← s.issueMmat o own t (256 * rows.length)
      let x := (x.modMat fun _ => m').modK fun k => { k with kchk := countChecks k.kchk l }
      return ((x.noteChecksum x.cur cause (s.tileAddrOf (if own then s.cur else s.ownerCore) t)).advance x.cur t).next 4

/-! ## `mzero`, `mst`, `mchk` (R373 to R375) -/

/-- MZERO (R373). -/
def execMzero (t : TileNo) (s : State) : Host.Outcome State Fault Refusal :=
  run (.matrix false) s <| s.powered do
    let e ← s.readyTile t
    waitFor (!s.mmatOn (some t)) .lock
    waitFor (!s.core.locked (s.tileAddr t) (tileBytes e)) .lock
    let a := s.tileAddr t
    let x : State := { s with mem := s.mem.filter fun c => !decide (a ≤ c.1 ∧ c.1 < a + tileBytes e) }
    return (x.modMat fun m =>
      if m.reorder.any fun p => p.tile == t then m.setRecord t (newRecord t)
      else { m with accs := m.accs.filter fun r => bits r 56 6 != t }).next 4

/-- An accumulator element written out (R97, R374). -/
def writeOut (f : Fmt) (ns : Bool) (ts acc : W32) : Nat :=
  encodeNum f ns false (decodeNum .fp32 false (fmul32 acc ts).toNat)

/-- MST (R374). -/
def execMst (d : Reg) (t : TileNo) (u : Reg) (m : BitVec 4) (s : State) : Host.Outcome State Fault Refusal :=
  run (.matrix true) s do
    let f ← (match s.pending.map fun p => fmtOf p.fd with
      | none => (.ok Fmt.fp32 : Try Fmt)
      | some (some x) => if x ∈ [Fmt.fp32, .fp16, .bf16, .m8] then .ok x else illegal s
      | some none => illegal s)
    s.powered do
      let o ← s.src u
      s.dst d
      let sa := s.pending.elim 0 (·.sa)
      let sb := s.pending.elim 0 (·.sb)
      let _ ← s.src sa
      let _ ← s.src sb
      let e ← s.readyTile t
      let map := s.core.vec.m.get m.toFin
      let nr := mapRows map
      check s (mapTileOk map o && mapFmt map == some f && decide (mapCols map ≤ 64 ∧ 256 * nr ≤ tileBytes e))
      let ts := fmul32 (s.scale sa) (s.scale sb)
      let ta := s.tileAddr t
      let w := f.width / 8
      let rows := (List.range nr).filterMap fun y => (rowSpan map o y).map fun r => (y, r)
      let out (y n : Nat) : List Byte := (List.range (n / w)).flatMap fun x =>
        toBytes w (writeOut f (s.core.ns s.seq) ts (BitVec.ofNat 32 (readNat s.mem (ta + 256 * y + 4 * x) 4)))
      let source := (Eng.matrix, false, ta, tileBytes e)
      match boundsOf (rows.map (·.2)) with
      | none => s.launchOp [source] { newOp .mst d 7 (some t) 0 [] with ocx := true } []
      | some (lo, hi) =>
        let va := BitVec.ofNat 64 lo
        let pa ← s.engineSpan va (hi - lo) .engineWrite
        let moves := rows.flatMap fun r =>
          s.movesOut r.2.1 (pa + (r.2.1.toNat - lo)) (r.2.1.toNat - lo) (out r.1 r.2.2) (some (ta + 256 * r.1, 4 / w))
        s.launchOp [source, (Eng.matrix, true, pa, hi - lo)] { newOp .mst d 7 (some t) va moves with ocx := true } []

/-- What a scrub of slot `n` finds (R375). -/
def State.scrub (s : State) (n : Nat) : Word :=
  let m := s.core.mat
  let d := (m.slot n).desc
  if !descValid d then 2
  else if descKind d = 4 ∨ descKind d = 5 then 4
  else if s.pending.any fun p => p.fb != descFmt d then 3
  else
    let p := (m.slot (if descKind d = 3 then (n + 4) % 8 else n)).panel
    if checksums p.cells = p.cs then 0 else 1

/-- MCHK (R375). -/
def execMchk (d u : Reg) (sel : BitVec 4) (s : State) : Host.Outcome State Fault Refusal :=
  run (.matrix true) s do
    check s (decide (sel.toNat ≤ 3))
    check s (sel != 0 || s.pending.all fun p => (fmtOf p.fb).isSome)
    s.powered do
      let w ← s.src u
      s.dst d
      let n := w.toNat
      let m := s.core.mat
      match sel.toNat with
      | 0 =>
        check s (decide (n ≤ 7))
        waitFor (s.loadsDone (m.panelSlots n) none) .lock
        let r := s.scrub n
        let x := if r = 1 then s.modMat fun m => m.setSlot n { m.slot n with desc := setBit (m.slot n).desc 59 true } else s
        return (x.setG d r).next 4
      | 1 =>
        check s (decide (n ≤ 63))
        return (s.setG d ((m.record (BitVec.ofNat 6 n)).getD 0)).next 4
      | 2 =>
        check s (decide (n ≤ 9))
        waitFor (if n < 8 then s.loadsDone [n] none else s.loadsDone [] (some (n - 8))) .lock
        return (s.setG d (if n < 8 then (m.slot n).desc else (m.bank (n - 8)).desc)).next 4
      | _ =>
        check s (n == 0)
        return (s.setG d m.team).next 4

/-! ## Completion (R146) and interruption (R378) -/

/-- An `mmat` that has ended (R362 to R364, R366): its locks and counter go, and its cause becomes due. -/
def State.completeMmat (s : State) (c : CoreName) (o : EngineOp) (p : Partial) (own : Bool) (cause : Byte) : State :=
  let oc := if own then c else
    let team := (s.getCore c).mat.team
    memberCore c (bits team 50 3).toNat (bits team 59 3).toNat
  let tile := BitVec.ofNat 64 (s.tileAddrOf oc p.tile)
  let failed := (o.moves.findSome? fun m => match m.st with
    | .failed e => some e
    | _ => none).getD o.code
  let s := s.completeOp c { o with code := 0, moves := [] }
  if cause ≠ 0 then s.notify c .control o.task cause tile
  else if failed = 0x01 then s.notify c .control o.task 0x01 o.va
  else if failed ≠ 0 then
    let (a, s) := s.free
    s.notify c .control o.task failed a
  else s

/-- The task that issued an operation of core `c` has ended. -/
def State.taskEnded (s : State) (c : CoreName) (o : EngineOp) : Bool :=
  let k := s.getCore c
  !(k.ctl.task.any (·.id == o.task)) && !(k.sched.resume.any fun r => r.saved.task.id == o.task)

/-- ENGINE_COMPLETE (R146): operation `k` of core `c` goes on with what it can send, and completes once every piece has ended. -/
def execEngineComplete (c : CoreName) (k : Nat) (s : State) : Host.Outcome State Fault Refusal :=
  match (s.getCore c).mem.ops[k]? with
  | none => .next s
  | some o =>
    match o.kind with
    | .mmat p own cause =>
      if s.taskEnded c o then .next (s.completeOp c { o with code := 0, moves := [] })
      else if o.moves.any (·.st == .todo) then .next (s.sendPartial c o p own)
      else if o.moves.all (·.st.ended) then .next (s.completeMmat c o p own cause)
      else .next s
    | _ =>
      match s.fab.rxq.find? fun r => r.held && r.body.tileLine == some (c, o.id) with
      | some r => .next (s.keptLine r)
      | none =>
      if o.moves.any (·.st == .todo) then .next (s.pump c o.id)
      else if o.moves.all (·.st.ended) ∧ s.opQuiet c o.id then
        let s := (s.settleTile c o).completeOp c o
        .next (if o.kind = .bld ∧ o.result.1 = 0x07 then s.notify c .control o.task 0x07 o.result.2 else s)
      else .next s

/-- Abandon the outstanding `mmat` of core `c` (R378): their tiles are poisoned, and the member takes ECCU. -/
def State.abandonMmat (s : State) (c : CoreName) : State :=
  let out := (s.getCore c).mem.ops.filterMap fun o => match o.kind with
    | .mmat p own _ => some (o, p, own)
    | _ => none
  let team := (s.getCore c).mat.team
  let owner := memberCore c (bits team 50 3).toNat (bits team 59 3).toNat
  let s := out.foldl (fun (s : State) x => (s.poisonAcc (if x.2.2 then c else owner) x.2.1.tile).completeOp c { x.1 with code := 0, moves := [] }) s
  let s := s.modMatOf c fun m => { m with reorder := m.reorder.filter fun p => !(out.any fun x => x.1.id == p.op) }
  match out with
  | [] => s
  | x :: _ => s.notify c .control x.1.task 0x0A (BitVec.ofNat 64 (s.tileAddrOf (if x.2.2 then c else owner) x.2.1.tile))

/-- TEAM_PREEMPT_TIMEOUT (R378): a request deferred for the bound is taken at once. -/
def execTeamPreemptTimeout (c : CoreName) (s : State) : Host.Outcome State Fault Refusal :=
  let l := s.leavers c
  let due := l.any fun d => (s.getCore d).ctl.due.preempt || (s.getCore d).ctl.due.brk || (s.getCore d).ctl.run == .leaving ||
    (s.getCore d).ctl.leave.isSome
  if s.deferred c ∧ due then .next (l.foldl State.abandonMmat s) else .next s

end Sys2Proof.Machine
end

