-- ==== Sys2Proof/Machine/Routing.lean ====
section
/-! DEFINITION. The fabric's own steps (R267 to R282, R497): routing, hold notices, retransmission, channel entries, links. -/

namespace Sys2Proof.Machine

/-! ## Rank (R272) -/

/-- SRC as a number: package, die, unit. -/
def UnitName.number (u : UnitName) : Nat := (u.pkg.toNat * 32 + u.die.toNat) * 256 + u.unit.toNat

/-- Stamp `a` is older than `b` (R272). -/
def olderStamp (a b : BitVec 21) : Bool := decide (1 ≤ (b - a).toNat ∧ (b - a).toNat < 2 ^ 20)

/-- Flit `a` ranks before `b` (R272). -/
def Flit.before (a b : Flit) : Bool :=
  if a.age ≠ b.age then decide (b.age.toNat < a.age.toNat)
  else if a.src.number ≠ b.src.number then decide (a.src.number < b.src.number)
  else olderStamp a.inj b.inj || (!olderStamp b.inj a.inj && decide (a.inPort < b.inPort))

/-- Insert a flit by rank. -/
def insertFlit (a : Flit) : List Flit → List Flit
  | [] => [a]
  | b :: l => if b.before a then b :: insertFlit a l else a :: b :: l

/-- Flits in order of rank. -/
def rankFlits (l : List Flit) : List Flit := l.foldr insertFlit []

/-! ## One router -/

/-- A physical die's router map and generation (R14, R15). -/
def State.routerMap (s : State) (die n : Nat) : W32 := ((s.dies.toList[die]?).bind fun d => d.map.toList[n]?).getD 0
/-- Generation of the routers of a physical die. -/
def State.routerGen (s : State) (die : Nat) : Byte := (s.dies.toList[die]?).elim 0 (·.gen)

/-- The router that a flit at physical die `die` heads for, by that die's map (R16, R17, R271); a flit for another package
heads for the gateway that carries its plane (R281). -/
def State.heading (s : State) (die : Nat) (f : Flit) : Router :=
  let e := s.routerMap die f.dst.die.toNat
  if f.dst.pkg = s.mgmt.domain.pkg ∧ bits e 5 10 = s.mgmt.domain.pkg then s.routerOf f.dst
  else
    let g : BitVec 5 := if f.plane.toNat < 4 then 20 else 21
    s.routerOf ⟨s.mgmt.domain.pkg, g, 0, false⟩

/-- The flit's destination is on this package. -/
def State.local (s : State) (die : Nat) (f : Flit) : Bool :=
  f.dst.pkg == s.mgmt.domain.pkg && bits (s.routerMap die f.dst.die.toNat) 5 10 == s.mgmt.domain.pkg

/-- What the generation rule makes of a flit at a router (R15). -/
inductive Ruling
  | pass
  | returned
  | early
  deriving DecidableEq, Repr

/-- The generation rule (R15): a flit of an older generation goes on, but is returned where the entry of its destination was rewritten
since; one of a newer generation waits for the map. The map is that of this package, which says nothing of another one's dies. -/
def State.ruling (s : State) (f : Flit) : Ruling :=
  let g := s.routerGen f.at_.die
  let behindBy := (g - f.gen).toNat
  let w := (bits (s.routerMap f.at_.die f.dst.die.toNat) 21 8 - f.gen).toNat
  if f.gen = g then .pass
  else if 128 ≤ behindBy then .early
  else if f.dst.pkg = s.mgmt.domain.pkg ∧ 1 ≤ w ∧ w ≤ behindBy then .returned
  else .pass

/-- The flit stands at its destination's router, under a map that holds for it (R15). -/
def State.arrived (s : State) (f : Flit) : Bool :=
  f.at_.pkg == s.mgmt.domain.pkg && s.local f.at_.die f && decide (s.heading f.at_.die f = f.at_) && s.ruling f == .pass

/-- Output `o` of a router can be taken: not yet in this cycle, and its link has not failed (R497). -/
def State.outputFree (s : State) (r : Router) (used : List Nat) (o : Nat) : Bool :=
  !used.contains o && !s.fab.failed.contains (Config.neighbour r.die r.site o).2.2.2

/-- The flit leaves by output `o`. Where the link has changed it, its check no longer holds, and the link's own check code may catch it:
the flit is then dropped there (R269). -/
def Flit.hop (f : Flit) (o : Nat) : Option Flit :=
  let n := Config.neighbour f.at_.die f.at_.site o
  let change := Config.upset f.inj.toNat f.src.number n.2.2.2 f.age.toNat
  if change ≠ 0 ∧ Config.linkCatches f.inj.toNat f.src.number n.2.2.2 f.age.toNat then none
  else some { f with
    at_ := ⟨f.at_.pkg, n.1, n.2.1⟩, inPort := n.2.2.1, via := some n.2.2.2
    ecrc := f.ecrc ^^^ change }

/-- The flit has not left its source: it is injected once an output is free (R271). -/
def Flit.fresh (f : Flit) : Bool := f.via.isNone && f.age == 0

/-- Deflect a flit (R272): its AGE rises and it takes any free output; at AGE 255 it is discarded. With none free it tries again when the
router acts next (log 17). -/
def State.deflect (s : State) (used : List Nat) (f : Flit) : List Nat × Option Flit :=
  if f.age = 255 then (used, none)
  else
    match (Config.outputs f.at_.die f.at_.site).find? (s.outputFree f.at_ used) with
    | some o => (o :: used, Flit.hop { f with age := f.age + 1 } o)
    | none => (used, some { f with age := f.age + 1 })

/-- A flit for a logical die that was rewritten after its translation goes back to its source as a completion of QUIESCE (R15). -/
def Flit.bounced (f : Flit) : Flit :=
  { completionFlit f.src f.dst f.epoch f.seq f.cls 0x15 .none with
    plane := f.plane, gen := f.gen, inj := f.inj, at_ := f.at_, inPort := f.inPort, via := f.via }.seal

/-- The flit goes on by the router's map (R15, R272): towards its destination, or deflected, or out of the package. One that has arrived
and was not ejected is deflected too: a router holds no flit. One that its source holds waits for a free output (R271). -/
def State.forward (s : State) (used : List Nat) (f : Flit) : List Nat × Option Flit :=
  let r := s.heading f.at_.die f
  if r = f.at_ then
    if s.local f.at_.die f then (if f.fresh then (used, some f) else s.deflect used f)
    else (used, some { f with at_ := ⟨if f.dst.pkg = s.mgmt.domain.pkg then bits (s.routerMap f.at_.die f.dst.die.toNat) 5 10 else f.dst.pkg, 0, 0⟩, via := none })
  else
    match (Config.productive f.at_.die f.at_.site r.die r.site).find? (s.outputFree f.at_ used) with
    | some o => (o :: used, f.hop o)
    | none =>
      if f.fresh ∧ (Config.outputs f.at_.die f.at_.site).all (fun o => !s.outputFree f.at_ used o) then (used, some f)
      else s.deflect used f

/-- One flit at a router: the generation rule (R15), then its output. -/
def State.routeOne (s : State) (used : List Nat) (f : Flit) : List Nat × Option Flit :=
  let f' := { f with gen := s.routerGen f.at_.die }
  match s.ruling f with
  | .pass => s.forward used f'
  | .returned => (used, some f'.bounced)
  | .early => s.deflect used f

/-- Every flit of a router in turn. -/
def State.routeAll (s : State) : List Nat → List Flit → List Flit
  | _, [] => []
  | used, f :: l =>
    let r := s.routeOne used f
    r.2.toList ++ s.routeAll r.1 l

/-- The flits that sources inject at a router in one cycle (R271, R272): of each source the one that has waited longest. -/
def injected (l : List Flit) : List Flit := l.filter fun f => l.all fun g => g.src != f.src || !olderStamp g.inj f.inj

/-- The flits of a router after one cycle (R271, R272): those that came from other routers go first, in order of rank; a source injects where
an output is left. -/
def State.routed (s : State) (l : List Flit) : List Flit :=
  let waiting := rankFlits (l.filter Flit.fresh)
  let go := injected waiting
  s.routeAll [] (rankFlits (l.filter fun f => !f.fresh) ++ go) ++ waiting.filter fun f => !go.contains f

/-- The flow of a flit to another package (R282): destination package and die. -/
def Flit.flow (f : Flit) : Nat := f.dst.pkg.toNat * 32 + f.dst.die.toNat

/-- The queue is that of the flit's flow at the flit's gateway egress port, which is its scale-up plane (R281, R282). -/
def Aside.holds (a : Aside) (f : Flit) : Bool := decide (a.port = f.plane.toNat ∧ a.flow = f.flow)

/-- A flit leaves the package by a gateway: a flow that is set aside there goes into its queue (R282). -/
def State.depart (s : State) (f : Flit) : State :=
  if s.fab.asides.any (·.holds f) then
    s.modFab fun b => { b with asides := b.asides.map fun a => if a.holds f then { a with flits := a.flits ++ [f] } else a }
  else s.modFab fun b => { b with flits := b.flits ++ [f] }

/-- The gateways pass on one flit of each set-aside queue, the oldest (R282). -/
def State.serveAsides (s : State) : State :=
  s.modFab fun b => { b with
    flits := b.flits ++ b.asides.flatMap fun a => a.flits.take 1
    asides := b.asides.map fun a => { a with flits := a.flits.drop 1 } }

/-- ROUTE_FLIT (R271, R272): the router with number `router mod 512` on physical die `router / 512` passes on the flits of one
plane. -/
def execRouteFlit (router plane : Nat) (s : State) : Host.Outcome State Fault Refusal :=
  let here : Router := ⟨s.mgmt.domain.pkg, router / 512, router % 512⟩
  let mine (f : Flit) : Bool := decide (f.at_ = here ∧ f.plane.toNat % 4 = plane)
  let moved := s.routed (s.fab.flits.filter mine)
  let left (f : Flit) : Bool := f.at_.pkg != s.mgmt.domain.pkg
  let s := s.modFab fun f => { f with flits := f.flits.filter (fun x => !mine x) ++ moved.filter fun x => !left x }
  .next ((moved.filter left).foldl State.depart s.serveAsides)

/-! ## Hold notices and retransmission (R277, R278) -/

/-- The hold notice of a request. -/
def holdFlit (src dst : UnitName) (epoch : Byte) (seq : BitVec 16) (cls : BitVec 10) : Flit :=
  { completionFlit src dst epoch seq cls 0 .none with kind := .hold }

/-- Send a hold notice from the destination `dst` of a request to its source. -/
def State.sendHold (s : State) (src dst : UnitName) (epoch : Byte) (seq : BitVec 16) (cls : BitVec 10) : State :=
  let (p, s) := s.takePlane dst src false
  s.inject (holdFlit src dst epoch seq cls) p

/-- Every message in an unbound queue. -/
def State.allUnbound (s : State) : List Inbound := s.knownCores.flatMap fun c => (s.getCore c).msg.unbound

/-- HOLD_NOTICE (R277): for accepted request `k` of the receive queues, or past them of the unbound queues. -/
def execHoldNotice (k : Nat) (s : State) : Host.Outcome State Fault Refusal :=
  match s.fab.rxq[k]? with
  | some r =>
    if !r.left.isEmpty ∨ r.notified then .next s
    else
      let s := s.modFab fun f => { f with rxq := f.rxq.map fun x => if x.same r then { x with notified := true } else x }
      .next (s.sendHold r.src r.dst r.epoch r.seq r.cls)
  | none =>
    match s.allUnbound[k - s.fab.rxq.length]? with
    | some m => .next (s.sendHold m.src m.dst m.epoch m.seq m.cls)
    | none => .next s

/-- The flit answers the outstanding request. -/
def Outst.matches (o : Outst) (f : Flit) : Bool :=
  decide (o.src = f.dst ∧ o.dst = f.src ∧ o.epoch = f.epoch ∧ o.seq = f.seq) && o.answer.isNone

/-- HOLD_NOTICE_RECEIVED (R277): flit `k`, at its destination; the source stops retransmitting the request. -/
def execHoldNoticeReceived (k : Nat) (s : State) : Host.Outcome State Fault Refusal :=
  match (s.fab.flits[k]?).filter fun f => decide (f.kind = .hold) && s.arrived f with
  | some f =>
    .next (s.modFab fun b => { b with
      flits := dropAt k b.flits
      outst := b.outst.map fun o => if o.matches f && f.sound then { o with noticed := true } else o })
  | none => .next s

/-- Flits of the request are still in the package's fabric. There they live for less than the 64 µs after which it goes again (R272, R278). -/
def State.travels (s : State) (o : Outst) : Bool :=
  let mine (f : Flit) : Bool := decide (f.src = o.src ∧ f.dst = o.dst ∧ f.epoch = o.epoch ∧ f.seq = o.seq ∧ (f.kind = .request ∨ f.kind = .continuation))
  s.fab.flits.any fun f => f.at_.pkg == s.mgmt.domain.pkg && mine f

/-- RETRANSMIT (R278): outstanding request `k`, with neither completion nor hold notice, goes again on the next plane. -/
def execRetransmit (k : Nat) (s : State) : Host.Outcome State Fault Refusal :=
  match (s.fab.outst[k]?).filter fun o => o.answer.isNone && !o.noticed && !o.fence && !s.travels o with
  | some o =>
    let next := o.plane.toNat + 1
    let p : BitVec 3 := BitVec.ofNat 3 (if o.dst.pkg = s.mgmt.domain.pkg then next % 4 else s.livePlane next)
    let s := s.modFab fun f => { f with outst := setAt k { o with plane := p } f.outst }
    .next (s.injectMessage (o.flit true) p)
  | none => .next s

/-! ## Channel entries (R279) -/

/-- CHANNEL_FREE (R279): source entry `k`, with nothing outstanding. -/
def execChannelFree (k : Nat) (s : State) : Host.Outcome State Fault Refusal :=
  match s.fab.srcCh[k]? with
  | some c =>
    if s.onChannel c.src c.dst = 0 then .next (s.modFab fun f => { f with srcCh := setAt k { c with opened := false } f.srcCh })
    else .next s
  | none => .next s

/-- CHANNEL_EVICT (R279): destination entry `k`, with no request held and none outstanding, whose source has freed its own entry
long before. -/
def execChannelEvict (k : Nat) (s : State) : Host.Outcome State Fault Refusal :=
  match s.fab.dstCh[k]? with
  | some c =>
    let kept := s.fab.rxq.any fun r => decide (r.src = c.src ∧ r.dst = c.dst)
    let waits := s.allUnbound.any fun m => decide (m.src = c.src ∧ m.dst = c.dst)
    let open_ := s.fab.srcCh.any fun x => decide (x.src = c.src ∧ x.dst = c.dst) && x.opened
    if kept ∨ waits ∨ open_ ∨ s.onChannel c.src c.dst ≠ 0 then .next s
    else .next (s.modFab fun f => { f with dstCh := dropAt k f.dstCh })
  | none => .next s

/-! ## Links (R281, R282, R489, R497) -/

/-- LINK_FAIL (R497): the routers at the two ends of the link remove it from their choices, with an event in the black box of each die that
they are on (R463; log 155), and the flits that have just crossed it are lost. -/
def execLinkFail (link : Nat) (s : State) : Host.Outcome State Fault Refusal :=
  if s.fab.failed.contains link then .next s
  else
    let s := s.modFab fun f => { f with failed := link :: f.failed, flits := f.flits.filter fun x => x.via != some link }
    let e := Config.linkEnds link
    .next ([e.1 % 24, e.2 % 24].eraseDups.foldl (fun s p => s.eventAt p ⟨9, 0, 0xFFFF, 0, 0, 0, BitVec.ofNat 32 link⟩) s)

/-- The logical network gateway whose ports carry plane `p` (R281, R489). -/
def planeDie (p : Nat) : Nat := if p < 4 then 20 else 21

/-- SCALEUP_LINK_DEAD (R281): plane `link` of the scale-up ports carries no more; flits on it are lost. The black box of its network
gateway says so (R463; log 113). -/
def execScaleupLinkDead (link : Nat) (s : State) : Host.Outcome State Fault Refusal :=
  if s.fab.dead.contains link then .next s
  else
    let s := s.modFab fun f => { f with
      dead := link :: f.dead
      flits := f.flits.filter fun x => x.at_.pkg == s.mgmt.domain.pkg || x.plane.toNat != link }
    .next (s.event (planeDie link) ⟨9, 0, 0xFFFF, 0, 0, 0, BitVec.ofNat 32 link⟩)

/-- The set-aside queue that an event names (R282): its egress port above bit 15, its flow below. -/
def asideOf (n : Nat) : Aside := ⟨n / 32768, n % 32768, []⟩

/-- SET_ASIDE (R282): a gateway's egress port, or a notice from a switch beyond it, moves a flow's flits into one of the port's 32 set-aside
queues; with none free the flow stays in the shared queue. Upstream of the gateway there is no switch that a notice could go to. -/
def execSetAside (flow : Nat) (s : State) : Host.Outcome State Fault Refusal :=
  let q := asideOf flow
  if s.fab.asides.any (fun a => a.port == q.port && a.flow == q.flow) ∨ (s.fab.asides.filter (·.port == q.port)).length ≥ 32 then .next s
  else
    let mine (f : Flit) : Bool := f.at_.pkg != s.mgmt.domain.pkg && q.holds f
    .next (s.modFab fun f => { f with
      flits := f.flits.filter fun x => !mine x, asides := f.asides ++ [{ q with flits := f.flits.filter mine }] })

/-- SET_ASIDE_RELEASE (R282): the flow returns to the port's shared queue, its flits in their order. -/
def execSetAsideRelease (flow : Nat) (s : State) : Host.Outcome State Fault Refusal :=
  let q := asideOf flow
  let this (a : Aside) : Bool := a.port == q.port && a.flow == q.flow
  .next (s.modFab fun f => { f with
    flits := f.flits ++ (f.asides.filter this).flatMap (·.flits), asides := f.asides.filter fun a => !this a })

/-! ## Quiesce notices (R14, R280) -/

/-- A router map with ST of one entry set. -/
def setEntrySt (n : Nat) (st : BitVec 2) (m : Vector W32 32) : Vector W32 32 :=
  if h : n < 32 then m.set n (setBits m[n] 29 st) h else m

/-- Set ST of a logical die's entry in every router of the package (R14). -/
def State.setSt (s : State) (n : Nat) (st : BitVec 2) : State :=
  { s with dies := s.dies.map fun d => { d with map := setEntrySt n st d.map } }

/-- A live logical die is marked quiescing in every router. -/
def State.quiesce (s : State) (die : Nat) : State :=
  let e := s.mapEntry die
  if bit e 31 ∧ mapSt e = 0 then s.setSt die 1 else s

/-- QSCE (R280): a notice from another package marks a logical die quiescing here. -/
def execQsce (die : Nat) (s : State) : Host.Outcome State Fault Refusal := .next (s.quiesce die)

/-- A gang stop in a message of class 23 stops the core that it comes to (R66, R270). -/
def State.stopBy (s : State) (c : CoreName) (table : Nat) : State := if (s.getCore c).ctl.stopped then s else s.stopCore table c

end Sys2Proof.Machine
end

