-- ==== Sys2Proof/Machine/Select.lean ====
section
/-! DEFINITION. The scheduler's own steps: selection (R217, R218), stealing (R219, R220), gangs (R222), pushes, claims and
restarts (R62, R224, R225, R231). -/

namespace Sys2Proof.Machine

/-! ## Startable candidates (R30, R54, R60, R217) -/

/-- The governor of a die admits `w` more weight for work of priority `p` (R30, R218). -/
def State.admits (s : State) (die w p : Nat) : Bool :=
  let g := s.gov die
  decide (g.sum + w ≤ g.budget) && g.head.all fun h => decide (s.prio h.1.ctx (recCid h.1.record) < p)

/-- Effective PRIO of a record. -/
def State.slotPrio (s : State) (d : Slot) : Nat := s.prio d.ctx (recCid d.record)

/-- Core `c` lists the features of a context (R60). -/
def State.lists (s : State) (x : BitVec 16) (c : CoreName) : Bool :=
  (((s.findCtx x).elim 0 (·.feat)) &&& ~~~((coreGroups c).setWidth 128)) == 0

/-- R54 and R60 allow core `c` to run the record. -/
def State.slotRuns (s : State) (c : CoreName) (d : Slot) : Bool :=
  s.mayRun d.ctx (recCid d.record) (recSize d.record) (recWeight d.record) && s.lists d.ctx c

/-- The governor of core `c`'s die admits the record. -/
def State.slotAdmitted (s : State) (c : CoreName) (d : Slot) : Bool := s.admits (dieOf c) (recWeight d.record) (s.slotPrio d)

/-- The cores of a team's rectangle with its origin at column `x`, row `y` of a die (R49): row by row; none where it does not
fit. -/
def rectangleAt (die x y rows cols : Nat) : Option (List CoreName) :=
  let ys := ((List.range 16).filter fun r => decide (y ≤ r) && r % 4 != 3).take rows
  if x + cols ≤ 16 ∧ ys.length = rows ∧ y % 4 ≠ 3 then
    some (ys.flatMap fun r => (List.range cols).map fun i => coreName die (16 * r + x + i))
  else none

/-- Core `c` may join a rectangle for work of priority `p` of context `x` (R222). -/
def State.joins (s : State) (x : BitVec 16) (p : Nat) (c : CoreName) : Bool :=
  let k := s.getCore c
  isWorker c && s.lists x c && k.sched.reserved.isNone && !k.ctl.stopped && (k.ctl.run == .idle || s.yields c p)

/-- The first rectangle for a team, core `c`'s own die first (R222). -/
def State.rectangle (s : State) (c : CoreName) (x : BitVec 16) (p : Nat) (shape : Nat × Nat) : Option (List CoreName) :=
  let dies := ((s.findCtx x).bind fun k => s.part k.part).elim [] fun q => sortDown (fun d => 31 - d) (q.dies.filter (· < 16))
  (dieOf c :: dies.filter (· != dieOf c)).findSome? fun die =>
    (List.range 256).findSome? fun o => (rectangleAt die (o % 16) (o / 16) shape.1 shape.2).filter fun cs => cs.all (s.joins x p)

/-- A record that core `c` may start now: a team needs a rectangle (R217, R222). -/
def State.slotStartable (s : State) (c : CoreName) (d : Slot) : Bool :=
  s.slotRuns c d && s.slotAdmitted c d &&
    (!recIsTeam d.record || (s.rectangle c d.ctx (s.slotPrio d) (recTeam d.record)).isSome)

/-- Every member of a team that has left its core, with the core it left. -/
def State.teamOut (s : State) (gang : Nat) : List (CoreName × Resume) :=
  s.knownCores.flatMap fun c => ((s.getCore c).sched.resume.filter fun r => r.saved.task.team.any (·.gang == gang)).map fun r => (c, r)

/-- A task that resumes with its whole team (R50): a member whose team has none running. -/
def State.resumesAsTeam (s : State) (r : Resume) : Bool :=
  r.saved.task.team.any fun m => (s.teamCores m.gang).isEmpty && decide (recSize r.saved.task.record > 1)

/-- Cores and weight that a resume entry takes, and its PRIO. -/
def State.entryUnits (s : State) (r : Resume) : Nat :=
  if s.resumesAsTeam r then (r.saved.task.team.elim 1 fun m => (s.teamOut m.gang).length) else 1
/-- PRIO of a resume entry. -/
def State.entryPrio (s : State) (r : Resume) : Nat := s.prio r.saved.task.ctx r.saved.task.cid

/-- A resume entry that may resume now (R217). -/
def State.entryStartable (s : State) (c : CoreName) (r : Resume) : Bool :=
  !r.placing &&
  let t := r.saved.task
  let n := s.entryUnits r
  let w := n * weight (recPcls t.record)
  s.mayRun t.ctx t.cid n w && s.admits (dieOf c) w (s.entryPrio r) &&
    (!s.resumesAsTeam r || (s.rectangle c t.ctx (s.entryPrio r) (recTeam t.record)).isSome)

/-! ## Records taken -/

/-- A record that fails R45 is discarded with RECCRC, reported, and charged to the chamber that pushed it (R45). -/
def State.rejectRecord (s : State) (c : CoreName) (d : Slot) : State :=
  let s := s.event (dieOf c) ⟨5, 0x09, c, d.ctx, d.pcid, 0, 0⟩
  let s := s.modChamber d.ctx (recCid d.record) fun h => { h with live := h.live - 1 }
  let w := s.who c .control
  let s := s.report d.ctx d.pcid 0x09 0 4 c w.kepc w.kaddr w.kcnt
  s.rung3 d.ctx d.pcid 0x09 w

/-- Reserve a rectangle: core `c` itself at once, the others by RSV messages (R222). The team's members, if it resumes, are marked in
their lists; without a rectangle the record returns to its deque. -/
def State.placeGang (s : State) (c : CoreName) (d : Slot) (resume : List (CoreName × Nat)) : State :=
  let t := recTeam d.record
  match s.rectangle c d.ctx (s.slotPrio d) t with
  | none => if resume.isEmpty then s.giveBack c d else s
  | some cores =>
    let id := s.fresh
    let s := (({ s with fresh := id + 1 } : State).markPlacing resume true)
    let s := s.modWork fun w => { w with gangs := w.gangs ++ [⟨id, c, d, cores, t.2, resume, s.slotPrio d⟩] }
    cores.foldl (fun s x =>
      if x = c then s.modCore c fun k => k.modSched fun h => { h with reserved := some (.gang id) }
      else s.post (coreUnit s c) (coreUnit s x) 28 d.ctx false false (.rsv id) .none) s

/-- A record taken from a deque is checked, then starts, or starts gang placement (R45, R46, R222). -/
def State.takeRecord (s : State) (c : CoreName) (d : Slot) : State :=
  if s.recOk d.ctx d.record = false then s.rejectRecord c d
  else if recIsTeam d.record then s.placeGang c d []
  else s.startOn c d none

/-! ## Selection (R217, R218) -/

/-- The die's power head returns to its deque when R54 no longer lets its chamber run (R218). -/
def State.checkHead (s : State) (die : Nat) : State :=
  match (s.gov die).head with
  | some (d, c) =>
    if s.mayRun d.ctx (recCid d.record) (recSize d.record) (recWeight d.record) then s
    else
      let s := if h : die < 16 then { s with govs := s.govs.set die { s.govs[die] with head := none } h } else s
      s.giveBack c d
  | none => s

/-- The governor of core `c`'s die has no room for the record's weight (R30). -/
def State.overWeight (s : State) (c : CoreName) (d : Slot) : Bool :=
  decide ((s.gov (dieOf c)).budget < (s.gov (dieOf c)).sum + recWeight d.record)

/-- What a selection chooses. -/
inductive Choice
  | head (d : Slot)
  | entry (i : Nat)
  | record (i : Nat)
  deriving DecidableEq, Repr

/-- A chamber by context and CID. -/
abbrev ChamberName := BitVec 16 × W32

/-- Ascending CID; chambers of one CID, of several contexts, in ascending CTX (R217). -/
def ChamberName.before (a b : ChamberName) : Bool := decide (a.2.toNat < b.2.toNat ∨ (a.2 = b.2 ∧ a.1.toNat < b.1.toNat))

/-- The chamber to serve at a priority: the next after the one last served, in ascending CID with wrap-around (R55, R217). -/
def nextChamber (last : Option ChamberName) (l : List ChamberName) : Option ChamberName :=
  let least (l : List ChamberName) : Option ChamberName := l.foldl (fun m x => some (m.elim x fun y => if x.before y then x else y)) none
  match last with
  | none => least l
  | some z => (least (l.filter fun x => z.before x)).orElse fun _ => least l

/-- The chamber of a record. -/
def Slot.chamber (d : Slot) : ChamberName := (d.ctx, recCid d.record)

/-- Record `d`, at place `j` of core `c`'s deque, ranks before what the core's selection takes (R217): it has the higher PRIO, or the
same and comes before a yielded entry, or before a record by its chamber's turn or its place. -/
def State.outranks (s : State) (c : CoreName) (d : Slot) (j : Nat) : Option Choice → Bool
  | none => true
  | some (.head _) => false
  | some (.entry i) =>
    ((s.getCore c).sched.resume[i]?).all fun r =>
      decide (s.entryPrio r < s.slotPrio d) || (s.entryPrio r == s.slotPrio d && r.skip)
  | some (.record i) =>
    ((s.getCore c).sched.deque[i]?).all fun r =>
      let p := s.slotPrio d
      decide (s.slotPrio r < p) || (s.slotPrio r == p &&
        (if r.chamber = d.chamber then decide (j < i)
         else nextChamber (assocGet p (s.getCore c).sched.served) [r.chamber, d.chamber] == some d.chamber))

/-- Record `d` is passed over only for its weight (R218): all else lets it start, and it ranks before what is taken. A die's power
head bars the records that do not outrank it. -/
def State.passedOver (s : State) (c : CoreName) (t : Option Choice) (d : Slot) (j : Nat) : Bool :=
  s.slotRuns c d && s.overWeight c d && s.outranks c d j t &&
    ((s.gov (dieOf c)).head.all fun h => decide (s.slotPrio h.1 < s.slotPrio d)) &&
    (!recIsTeam d.record || (s.rectangle c d.ctx (s.slotPrio d) (recTeam d.record)).isSome)

/-- Count the records that this selection passes over only for their weight (R218). -/
def State.countPasses (s : State) (c : CoreName) (t : Option Choice) : State :=
  let q := (s.getCore c).sched.deque
  let count (j : Nat) : Option Slot := (q[j]?).map fun d => if s.passedOver c t d j then { d with passes := d.passes + 1 } else d
  s.modCore c fun k => k.modSched fun h => { h with deque := (List.range q.length).filterMap count }

/-- A record that has been passed over 64 times becomes the die's power head, if it has none (R218). -/
def State.raiseHead (s : State) (c : CoreName) : State :=
  let q := (s.getCore c).sched.deque
  match (s.gov (dieOf c)).head, findAt (fun d => decide (64 ≤ d.passes)) q with
  | none, some i =>
    match q[i]? with
    | some d =>
      let s := s.modCore c fun k => k.modSched fun h => { h with deque := dropAt i q }
      if h : dieOf c < 16 then { s with govs := s.govs.set (dieOf c) { s.govs[dieOf c] with head := some (d, c) } h } else s
    | none => s
  | _, _ => s

/-- The largest of some numbers. -/
def greatest (l : List Nat) : Option Nat := l.foldl (fun m x => some (m.elim x (Nat.max x))) none

/-- The candidate that core `c` chooses (R217). A pinned power head goes to the core whose deque held it, and a team that is the head
waits for a rectangle (R44, R222; log 135). -/
def State.choose (s : State) (c : CoreName) : Option Choice :=
  let h := (s.getCore c).sched
  let entries := (List.range h.resume.length).filter fun i => (h.resume[i]?).any (s.entryStartable c)
  let records := (List.range h.deque.length).filter fun i => (h.deque[i]?).any (s.slotStartable c)
  let pe (i : Nat) : Nat := (h.resume[i]?).elim 0 s.entryPrio
  let pr (i : Nat) : Nat := (h.deque[i]?).elim 0 s.slotPrio
  let head := (s.gov (dieOf c)).head.filter fun x =>
    s.slotRuns c x.1 && !s.overWeight c x.1 && (!recPin x.1.record || x.2 == c) &&
      (!recIsTeam x.1.record || (s.rectangle c x.1.ctx (s.slotPrio x.1) (recTeam x.1.record)).isSome)
  match head with
  | some x => some (.head x.1)
  | none =>
    (greatest (entries.map pe ++ records.map pr)).bind fun p =>
      let es := entries.filter fun i => pe i == p
      let rs := records.filter fun i => pr i == p
      match es.find? fun i => !(h.resume[i]?).any (·.skip) with
      | some i => some (.entry i)
      | none =>
        let names := rs.filterMap fun i => (h.deque[i]?).map Slot.chamber
        match nextChamber (assocGet p h.served) names with
        | some z => (rs.find? fun i => (h.deque[i]?).any fun d => d.chamber == z).map .record
        | none => es.head?.map .entry

/-! ## Stealing (R219, R220) -/

/-- The members of a circle of core `c` (R219): core names, and for circle 3 the other logical dies of its partition, each as
32 × package + die. -/
def State.circle (s : State) (c : CoreName) (n : Nat) : List Nat :=
  match n with
  | 1 => ((coresOf (dieOf c)).filter fun d => isWorker d && cluster d == cluster c && d != c).map (·.toNat)
  | 2 => ((coresOf (dieOf c)).filter fun d => isWorker d && cluster d != cluster c).map (·.toNat)
  | _ =>
    let own := s.mgmt.domain.pkg
    ((s.partOf (dieOf c)).bind s.part).elim [] fun p =>
      ((p.all own).filter fun d => d != (own, dieOf c)).map fun d => d.1.toNat * 32 + d.2

/-- The deque of a core is not empty. -/
def State.hasRecords (s : State) (c : CoreName) : Bool := !(s.getCore c).sched.deque.isEmpty

/-- The first worker with a non-empty deque of a member `m` of circle 3, from core number `n` on; a die with no worker and, in the
model of one package, a die of another one answer empty (R219). -/
def State.victimOn (s : State) (m n : Nat) : Option CoreName :=
  if m / 32 = s.mgmt.domain.pkg.toNat then
    ((List.range 256).map fun i => coreName (m % 32) ((n + i) % 256)).find? fun d => isWorker d && s.hasRecords d
  else none

/-- Change the steal attempt and the generator of core `c`. -/
def State.setSteal (s : State) (c : CoreName) (t : Option Steal) (gen : W32) : State :=
  s.modCore c fun k => k.modSched fun h => { h with steal := t, gen := gen }

/-- Send a steal request. -/
def State.sendSteal (s : State) (c v : CoreName) : State :=
  s.post (coreUnit s c) (coreUnit s v) 13 0 false false (.steal c (coreGroups c)) (.steal c)

/-- Go on with a steal attempt: to the next victim, the next circle, or the pause (R219, R220). A core whose deque is full sends no
request. -/
def stealOn (c : CoreName) : Nat → State → State
  | 0, s => s
  | n + 1, s =>
    let h := (s.getCore c).sched
    match h.steal with
    | none => s
    | some t =>
      if h.deque.length ≥ 256 then s.setSteal c none h.gen
      else
      let ms := s.circle c t.circle
      if ms.length ≤ t.visited then
        if t.circle ≥ 3 then s.setSteal c (some { t with waiting := false, paused := true }) h.gen
        else
          let x := xorshift h.gen
          let len := (s.circle c (t.circle + 1)).length
          stealOn c n (s.setSteal c (some ⟨t.circle + 1, x.toNat % Nat.max len 1, 0, false, false⟩) x)
      else
        let m := (ms[(t.start + t.visited) % ms.length]?).getD 0
        let t' := { t with visited := t.visited + 1 }
        if t.circle ≤ 2 then
          let v : CoreName := BitVec.ofNat 16 m
          if s.hasRecords v then (s.setSteal c (some { t' with waiting := true }) h.gen).sendSteal c v
          else stealOn c n (s.setSteal c (some t') h.gen)
        else
          let x := xorshift h.gen
          match s.victimOn m (x.toNat % 256) with
          | some v => (s.setSteal c (some { t' with waiting := true }) x).sendSteal c v
          | none => stealOn c n (s.setSteal c (some t') x)

/-- Steps that one steal attempt can take: the members of the three circles, and their beginnings. -/
def stealSteps : Nat := 1000

/-- Begin a steal attempt at circle 1 (R219, R220); a core whose deque is full sends none. -/
def State.beginSteal (s : State) (c : CoreName) : State :=
  let h := (s.getCore c).sched
  if h.deque.length ≥ 256 ∨ isWorker c = false then s
  else
    let x := xorshift h.gen
    stealOn c stealSteps (s.setSteal c (some ⟨1, x.toNat % Nat.max (s.circle c 1).length 1, 0, false, false⟩) x)

/-- A core's partition is stopped, or its die halted (R191, R479). -/
def State.dieStops (s : State) (die : Nat) : Bool :=
  ((s.partOf die).bind s.part).any fun p => p.stopped || p.halted.contains die

/-- Core `c` may select: idle, not reserved, not stopped (R217, R222). -/
def State.selects (s : State) (c : CoreName) : Bool :=
  let k := s.getCore c
  isCore c && decide (k.ctl.run = .idle) && !k.ctl.stopped && !s.dieStops (dieOf c) && k.sched.reserved.isNone

/-- Resume entry `i` of core `c`: its task alone, or its team as a gang (R50, R190). -/
def State.takeEntry (s : State) (c : CoreName) (i : Nat) : State :=
  match (s.getCore c).sched.resume[i]? with
  | none => s
  | some r =>
    if s.resumesAsTeam r then
      let gang := r.saved.task.team.elim 0 (·.gang)
      s.placeGang c ⟨r.saved.task.record, r.saved.task.cid, false, false, 0, r.saved.task.ctx⟩
        ((s.teamOut gang).map fun m => (m.1, m.2.saved.task.id))
    else
      (s.modCore c fun k => k.modSched fun h => { h with resume := dropAt i h.resume }).resumeOn c r.saved

/-- Note which chamber was served at a priority, and that a selection has been made since each `yield` (R217). A resume entry that is
taken serves no chamber (log 158). -/
def State.noteChoice (s : State) (c : CoreName) (d : Option Slot) : State :=
  s.modCore c fun k => k.modSched fun h => { h with
    resume := h.resume.map fun r => { r with skip := false }
    served := d.elim h.served fun d => assocSet (s.slotPrio d) d.chamber h.served }

/-- SELECT (R217): core `c` chooses its next candidate, or begins to steal. -/
def execSelect (c : CoreName) (s : State) : Host.Outcome State Fault Refusal :=
  if s.selects c = false then .next s
  else
    let s := s.checkHead (dieOf c)
    match s.choose c with
    | some (.head d) =>
      let s := if h : dieOf c < 16 then { s with govs := s.govs.set (dieOf c) { s.govs[dieOf c] with head := none } h } else s
      .next ((s.noteChoice c (some d)).takeRecord c d)
    | some (.entry i) =>
      let s := (s.countPasses c (some (.entry i))).raiseHead c
      .next ((s.takeEntry c i).noteChoice c none)
    | some (.record i) =>
      match (s.getCore c).sched.deque[i]? with
      | some d =>
        let s := s.countPasses c (some (.record i))
        let s := s.modCore c fun k => k.modSched fun h => { h with deque := dropAt i h.deque }
        .next (((s.raiseHead c).noteChoice c (some d)).takeRecord c d)
      | none => .next s
    | none =>
      let s := ((s.countPasses c none).raiseHead c).noteChoice c none
      .next (if (s.getCore c).sched.steal.isNone then s.beginSteal c else s)

/-! ## Stealing -/

/-- The record that a victim gives a thief (R220): nearest the top among those of the highest effective PRIO that the thief may
run and that are not pinned. An offline core answers empty (R467). -/
def State.stealable (s : State) (v : CoreName) (groups : BitVec 6) : Option Nat :=
  let q := if (s.getCore v).ctl.run = .off then [] else (s.getCore v).sched.deque
  let ok (d : Slot) : Bool := !recPin d.record &&
    s.mayRun d.ctx (recCid d.record) (recSize d.record) (recWeight d.record) &&
    (((s.findCtx d.ctx).elim 0 (·.feat)) &&& ~~~(groups.setWidth 128)) == 0
  let is := ((List.range q.length).filter fun i => (q[i]?).any ok).reverse
  let pr (i : Nat) : Nat := (q[i]?).elim 0 s.slotPrio
  (greatest (is.map pr)).bind fun p => is.find? fun i => pr i == p

/-- STEAL (R220): the victim answers from its deque port. -/
def execSteal (k : Nat) (s : State) : Host.Outcome State Fault Refusal :=
  match s.request k [13] with
  | some r =>
    match r.body with
    | .steal _ groups =>
      let v := unitCore r.dst
      match s.stealable v groups with
      | some i =>
        match (s.getCore v).sched.deque[i]? with
        | some d =>
          let reex := (s.chamber d.ctx (recCid d.record)).elim 0 (·.reex)
          let s := s.modCore v fun k => k.modSched fun h => { h with deque := dropAt i h.deque }
          .next (s.answer r 0 (.stolen { d with passes := 0 } reex))
        | none => .next (s.answer r 0 .none)
      | none => .next (s.answer r 0 .none)
    | _ => .next s
  | none => .next s

/-- A stolen record reaches its thief (R45, R220). -/
def State.receiveStolen (s : State) (c : CoreName) (d : Slot) (reex : Nat) : State :=
  let s := s.setSteal c none (s.getCore c).sched.gen
  let gone := (s.chamber d.ctx (recCid d.record)).any fun h => decide (h.reex ≠ reex ∨ (h.cst ≠ 1 ∧ h.cst ≠ 2))
  if recForm d.record ∧ (gone ∨ (s.chamber d.ctx (recCid d.record)).isNone) then s
  else if s.recOk d.ctx d.record = false then s.rejectRecord c d
  else if s.selects c ∧ s.slotStartable c d then (s.noteChoice c (some d)).takeRecord c d
  else s.giveBack c d

/-- STEAL_REPLY (R220): the thief checks and takes or drops the record, or goes on to the next victim. -/
def execStealReply (k : Nat) (s : State) : Host.Outcome State Fault Refusal :=
  match s.returned k [13] with
  | some (o, _, body) =>
    let s := s.forget o
    match o.purpose, body with
    | .steal c, .stolen d reex => .next (s.receiveStolen c d reex)
    | .steal c, _ =>
      if s.selects c then .next (stealOn c stealSteps s)
      else .next (s.setSteal c none (s.getCore c).sched.gen)
    | _, _ => .next s
  | none => .next s

/-- STEAL_PAUSE_EXPIRY (R220): a core whose attempt found nothing starts again at circle 1. -/
def execStealPauseExpiry (c : CoreName) (s : State) : Host.Outcome State Fault Refusal :=
  if (s.getCore c).sched.steal.any (·.paused) then
    let s := s.setSteal c none (s.getCore c).sched.gen
    .next (if s.selects c then s.beginSteal c else s)
  else .next s

/-! ## Gangs (R49, R50, R222) -/

/-- RSV (R222): the message reserves a core for a gang, and pre-empts its task; a change of priority since the selection does not undo
it (R238). -/
def execRsv (k : Nat) (s : State) : Host.Outcome State Fault Refusal :=
  match s.request k [28] with
  | some r =>
    match r.body with
    | .rsv id =>
      let c := unitCore r.dst
      match s.work.gangs.find? (·.id == id) with
      | none => .next (s.answer r 0 (.value [1]))
      | some g =>
        if s.joins g.slot.ctx g.prio c then
          let busy := (s.getCore c).ctl.run != .idle
          let s := s.modCore c fun k => k.modSched fun h => { h with reserved := some (.gang id) }
          .next ((if busy then s.askPreempt c else s).answer r 0 (.value [0]))
        else .next (s.answer r 0 (.value [1]))
    | _ => .next s
  | none => .next s

/-- A reservation was refused, or could not be made: the gang releases the others (R222). -/
def State.rsvReturned (s : State) (o : Outst) (st : Byte) (body : Body) : State :=
  let s := s.forget o
  match o.body with
  | .rsv id =>
    if st = 0 ∧ body = .value [0] then s
    else (s.work.gangs.find? (·.id == id)).elim s s.releaseGang
  | _ => s

/-- The core of a rectangle that a member's team coordinate names. -/
def Gang.coreOf (g : Gang) (m : Member) : CoreName := (g.cores[m.row * g.cols + m.col]?).getD 0

/-- The entry of a core's resume list for a task, with the task's place in its team. -/
def State.memberOf (s : State) (x : CoreName × Nat) : Option (Saved × Member) :=
  ((s.getCore x.1).sched.resume.find? (·.saved.task.id == x.2)).bind fun r => r.saved.task.team.map fun m => (r.saved, m)

/-- A team member that resumes can go to its new core: there its tiles fit, and no operation of it is under way where it was
(R379). -/
def State.memberFits (s : State) (g : Gang) (x : CoreName × Nat) : Bool :=
  match s.memberOf x with
  | some (v, m) =>
    let c := g.coreOf m
    decide (c = x.1) || ((s.getCore c).holdsTiles (s.tileContents x.1 v) &&
      (s.getCore x.1).mem.ops.all fun o => o.task != v.task.id)
  | none => true

/-- Bind one member of a team that resumes, its tiles moving with it (R379); its entry is free. -/
def State.bindMember (s : State) (g : Gang) (x : CoreName × Nat) : State :=
  match s.memberOf x with
  | some (v, m) =>
    let c := g.coreOf m
    let s := s.modCore x.1 fun k => k.modSched fun h => { h with resume := h.resume.filter fun r => r.saved.task.id != x.2 }
    if c = x.1 then s.resumeOn c v
    else
      let ts := s.tileContents x.1 v
      let s := s.modCore x.1 fun k => k.freeTiles v.tiles
      let p := ts.foldl (State.placeTile s c) (s, v)
      p.1.resumeOn c p.2
  | none => s

/-- The highest priority of the records that wait in the deques of a die. -/
def State.waitingPrio (s : State) (die : Nat) : Nat :=
  ((s.knownCores.filter fun c => dieOf c == die).flatMap fun c => (s.getCore c).sched.deque.map s.slotPrio).foldl Nat.max 0

/-- Bind every member in one step (R49, R222). -/
def State.bindGang (s : State) (g : Gang) : State :=
  let s := g.cores.foldl (fun s c => s.modCore c fun k => k.modSched fun h => { h with reserved := none }) s
  let s := s.modWork fun w => { w with gangs := w.gangs.filter (·.id != g.id) }
  if g.resume.isEmpty then
    (List.range g.cores.length).foldl (fun s i => (g.cores[i]?).elim s fun c => s.startOn c g.slot (some ⟨i / g.cols, i % g.cols, g.id⟩)) s
  else g.resume.foldl (fun s x => s.bindMember g x) s

/-- GANG_BIND (R222): with every core reserved and free, the gang binds, or releases where the governor cannot take it; work of
higher priority that has come may then pre-empt the team (R238). -/
def execGangBind (k : Nat) (s : State) : Host.Outcome State Fault Refusal :=
  match s.work.gangs[k]? with
  | none => .next s
  | some g =>
    if s.gangReady g = false ∨ (g.resume.all (s.memberFits g)) = false then .next s
    else
      let die := g.cores.head?.elim 0 dieOf
      let n := if g.resume.isEmpty then g.cores.length else g.resume.length
      let w := n * weight (recPcls g.slot.record)
      if s.admits die w g.prio ∧ s.mayRun g.slot.ctx (recCid g.slot.record) n w then
        let s := s.bindGang g
        .next (s.pushPreempts die (s.waitingPrio die))
      else .next (s.releaseGang g)

/-- GANG_RESERVE_TIMEOUT (R222). -/
def execGangReserveTimeout (k : Nat) (s : State) : Host.Outcome State Fault Refusal :=
  match s.work.gangs[k]? with
  | some g => .next (s.releaseGang g)
  | none => .next s

/-! ## Pushes, claims, restarts -/

/-- PUSH (R231): the target's deque accepts a record and acknowledges with the status. -/
def execPush (k : Nat) (s : State) : Host.Outcome State Fault Refusal :=
  match s.request k [20] with
  | some r =>
    match r.body with
    | .push d need =>
      let c := unitCore r.dst
      if (need &&& ~~~coreGroups c) ≠ 0 ∨ isWorker c = false then .next (s.answer r 0 (.value [3]))
      else if ((s.chamber d.ctx (recCid d.record)).any fun h => h.cst == 1 || h.cst == 2) = false then .next (s.answer r 0 (.value [2]))
      else if (s.getCore c).sched.deque.length ≥ 256 then .next (s.answer r 0 (.value [1]))
      else .next ((s.pushSlot c d false).answer r 0 (.value [0]))
    | _ => .next s
  | none => .next s

/-- CLAIM (R224): served indivisibly at the NEST line's home; no words mean exhausted. -/
def execClaim (k : Nat) (s : State) : Host.Outcome State Fault Refusal :=
  match s.request k [21] with
  | some r =>
    match r.body with
    | .claim x cid =>
      match (s.chamber x cid).filter fun h => h.nest.act && decide (h.nest.next ≠ h.nest.total) with
      | none => .next (s.answer r 0 (.value []))
      | some h =>
        let p := Nat.max h.cuse 1
        let n := (h.nest.total - h.nest.next + 2 * p - 1) / (2 * p)
        let s' := s.modChamber x cid fun h => { h with nest := { h.nest with next := h.nest.next + n } }
        .next (s'.answer r 0 (.value [BitVec.ofNat 64 h.nest.next, BitVec.ofNat 64 (h.nest.next + n), h.nest.ext, h.nest.gen.setWidth 64]))
    | _ => .next s
  | none => .next s

/-- RESTART (R225): the kept record goes to the first worker of the two circles that lists the features and has room. -/
def execRestart (k : Nat) (s : State) : Host.Outcome State Fault Refusal :=
  match s.work.restarts[k]? with
  | none => .next s
  | some r =>
    let turn (l : List Nat) (x : W32) : List Nat := (List.range l.length).filterMap fun i => l[(x.toNat + i) % l.length]?
    let order := turn (s.circle r.core 1) r.draw1 ++ turn (s.circle r.core 2) r.draw2
    let fit (n : Nat) : Bool :=
      let c : CoreName := BitVec.ofNat 16 n
      (r.feat &&& ~~~((coreGroups c).setWidth 128)) == 0 && decide ((s.getCore c).sched.deque.length < 256)
    match order.find? fit with
    | some n => .next ((s.modWork fun w => { w with restarts := dropAt k w.restarts }).pushBottom (BitVec.ofNat 16 n) r.slot)
    | none => .next s

/-- A re-execution goes on: step 6 if nothing more waits, and then the errors that waited (R71, R73). -/
def State.endPush (s : State) (x : BitVec 16) (cid : W32) : State :=
  if s.pushing x cid then s
  else
    let n := (s.chamber x cid).elim 0 (·.waiting.length)
    (s.finishReexecution x cid).takeWaiting x cid n

/-- DEFERRED_PUSH (R62, R71): a push that found its deque full proceeds, in order for each core; the last of a re-execution ends
it. After the pushes come the re-executions whose HEAD had no translation. -/
def execDeferredPush (k : Nat) (s : State) : Host.Outcome State Fault Refusal :=
  match s.work.pushes[k]? with
  | none =>
    let i := k - s.work.pushes.length
    match s.work.heads[i]? with
    | some (x, cid, c) =>
      .next (((s.modWork fun w => { w with heads := dropAt i w.heads }).pushHead x cid c).endPush x cid)
    | none => .next s
  | some p =>
    let first := (s.work.pushes.take k).all fun q => q.core != p.core
    if first = false ∨ (s.getCore p.core).sched.deque.length ≥ 256 then .next s
    else
      let s := s.modWork fun w => { w with pushes := dropAt k w.pushes }
      if p.counted then .next (s.giveBack p.core p.slot)
      else
        let s := s.pushAt p.core p.slot p.reexec p.last
        .next (if p.reexec then s.endPush p.slot.ctx p.cid else s)

end Sys2Proof.Machine
end

