-- ==== Sys2Proof/Machine/Ejection.lean ====
section
/-! DEFINITION. Ejection at a destination (R273, R276 to R278), and the end of requests to a fenced die (R280). -/

namespace Sys2Proof.Machine

/-! ## Completions -/

/-- The outstanding request has an answer and no step of its own that takes it: it ends here. -/
def State.finish (s : State) (o : Outst) : State :=
  match o.answer with
  | none => s
  | some (_, .redir _) => s
  | some (st, body) =>
    match o.purpose with
    | .await c _ id slot =>
      if [1, 2, 3, 4, 7].contains o.cls.toNat then s else (s.forget o).awaited c id slot st body.bytes
    | .awaitOf task id slot => (s.forget o).awaitedOf task id slot st body.bytes
    | .fwd _ _ _ _ => s.forwardedReturn o st body
    | .engine _ _ _ => s.engineReturned o st
    | .bld _ _ => s.basinReturned o st body
    | .tileLine _ _ _ _ => s.lineTaken o
    | .psum _ _ _ => s.psumReturned o st
    | .load _ _ _ => s
    | .store _ _ => s
    | .reg _ _ _ _ => s
    | .merge _ _ _ _ => s
    | .rev _ _ _ => s
    | .send _ _ _ _ _ _ => s
    | .steal _ => s
    | .miss _ _ => s.forget o
    | .none =>
      match o.body with
      | .rsv _ => s.rsvReturned o st body
      | _ => s.forget o

/-- The two requests are one. -/
def Outst.same (a b : Outst) : Bool := decide (a.src = b.src ∧ a.dst = b.dst ∧ a.epoch = b.epoch ∧ a.seq = b.seq)

/-- The completion of an outstanding request comes to its source (R275). -/
def State.complete (s : State) (o : Outst) (st : Byte) (body : Body) : State :=
  let o' := { o with answer := some (st, body) }
  (s.modFab fun f => { f with outst := f.outst.map fun x => if x.same o then o' else x }).finish o'

/-- A completion whose line data comes in a continuation (R268). -/
def Body.lacksLine : Body → Bool
  | .wb _ m d => m != 0 && d.isEmpty
  | _ => false

/-- The completion is whole once its line data, of the same words, has come (R268). -/
def Outst.whole (o : Outst) : Option (Byte × Body) :=
  match o.first, o.line with
  | some (st, .wb l m _), some (.wb k n d) => if l = k ∧ m = n then some (st, .wb l m d) else none
  | _, _ => none

/-- Part of a completion has come. -/
def State.take (s : State) (o : Outst) : State :=
  let s := s.modFab fun f => { f with outst := f.outst.map fun x => if x.same o then o else x }
  match o.whole with
  | some a => s.complete o a.1 a.2
  | none => s

/-- A completion is ejected: the first for its request is taken, any other is dropped (R278). -/
def State.ejectCompletion (s : State) (f : Flit) : State :=
  match s.fab.outst.find? (·.matches f) with
  | some o => if f.body.lacksLine then s.take { o with first := some (f.status, f.body) } else s.complete o f.status f.body
  | none => s

/-- The line data of a completion is ejected. -/
def State.ejectLine (s : State) (f : Flit) (b : Body) : State :=
  match s.fab.outst.find? (·.matches f) with
  | some o => s.take { o with line := some b }
  | none => s

/-! ## Requests -/

/-- The request of a flit, as a receive queue keeps it. -/
def Flit.recv (f : Flit) : Recv :=
  ⟨f.src, f.dst, f.epoch, f.seq, f.cls, f.ctx, f.nw, f.ns, f.body, (List.range f.ncont.toNat).map fun i => BitVec.ofNat 2 (i + 1), [], false, false, none, false⟩

/-- The destination's entry of a channel. -/
def State.entryOf (s : State) (src dst : UnitName) : Option DstChan :=
  s.fab.dstCh.find? fun c => decide (c.src = src ∧ c.dst = dst)

/-- Open the entry of a channel anew (R276). -/
def State.openEntry (s : State) (src dst : UnitName) (epoch : Byte) : State :=
  s.modFab fun f => { f with dstCh := ⟨src, dst, epoch, 0, []⟩ :: f.dstCh.filter fun c => !decide (c.src = src ∧ c.dst = dst) }

/-- The request has been accepted: the next SEQ is expected. Classes served at once are served; the others wait for their own
steps (R270, R276). -/
def State.accept (s : State) (r : Recv) : State :=
  let s := s.modFab fun f => { f with dstCh := f.dstCh.map fun c =>
    if c.src = r.src ∧ c.dst = r.dst ∧ c.epoch = r.epoch then { c with expect := r.seq + 1 } else c }
  let n := r.cls.toNat
  if n = 0 ∨ (30 ≤ n ∧ n < 64) then s.answer r 0x10 .none
  else if 64 ≤ n then
    if s.dieHalted r.dst.die.toNat then s else s.dispatch (unitCore r.dst) r
  else
    match r.body with
    | .basin q => s.acceptBasin r q
    | .qsce die => ((s.quiesce die).answer r 0 .none)
    | .gang table => (s.stopBy (unitCore r.dst) table).answer r 0 .none
    | _ => if [18, 23, 24, 29].contains n then s.answer r 0 .none else s

/-- The entries of a core's receive queue in use: requests that wait there, messages that wait for their routine, and the fast path (R273,
R289, R292). -/
def State.queued (s : State) (u : UnitName) : Nat :=
  let m := (s.getCore (unitCore u)).msg
  (s.fab.rxq.filter fun r => decide (r.dst = u)).length + m.inbox.length + m.fast.length

/-- The receive queue of a core has room: 64 entries (R273, R274). -/
def State.queueRoom (s : State) (u : UnitName) : Bool := u.slice || decide (16 ≤ u.die.toNat) || decide (s.queued u < 64)

/-- A destination unit has an entry for the channel, or one of its 256 is free (R274). -/
def State.dstRoom (s : State) (src dst : UnitName) : Bool :=
  (s.entryOf src dst).isSome || decide ((s.fab.dstCh.filter fun c => decide (c.dst = dst)).length < 256)

/-- Refuse a flit: it is deflected, or discarded at AGE 255 (R273). -/
def State.refuse (s : State) (f : Flit) : State :=
  s.modFab fun b => { b with flits := b.flits ++ (s.deflect [] f).2.toList }

/-- A request next in sequence: it enters the queue, and is accepted when it is whole (R276). -/
def State.takeRequest (s : State) (f : Flit) : State :=
  if s.queueRoom f.dst = false ∧ f.age ≠ 255 then s.refuse f
  else if s.fab.rxq.any (·.same f.recv) then s
  else
    let s := s.modFab fun b => { b with rxq := b.rxq ++ [f.recv] }
    if f.ncont = 0 then s.accept f.recv else s

/-- A request whose SEQ lies before the expected one (R278). -/
def State.takeDuplicate (s : State) (c : DstChan) (f : Flit) : State :=
  match c.cache.find? (·.seq == f.seq) with
  | some e =>
    s.sendCompletion f.src f.dst f.epoch f.seq e.cls e.status e.body
  | none =>
    let held := s.fab.rxq.any (·.same f.recv) ||
      s.allUnbound.any fun m => decide (m.src = f.src ∧ m.dst = f.dst ∧ m.epoch = f.epoch ∧ m.seq = f.seq)
    if held then s.sendHold f.src f.dst f.epoch f.seq f.cls
    else if f.cls = 1 ∨ f.cls = 8 then s.modFab fun b => { b with rxq := b.rxq ++ [f.recv] }
    else s

/-- A request flit is ejected (R276, R278). A first request resets the entry, of the same EPOCH too, as a spare's does; a retransmission
of it does not. -/
def State.ejectRequest (s : State) (f : Flit) : State :=
  let fresh := f.opening && !(f.rtx && (s.entryOf f.src f.dst).any (·.epoch == f.epoch)) && s.dstRoom f.src f.dst
  let s := if fresh then s.openEntry f.src f.dst f.epoch else s
  match s.entryOf f.src f.dst with
  | none => s.refuse f
  | some c =>
    if f.epoch = c.epoch then
      let ahead := (f.seq - c.expect).toNat
      if ahead = 0 then s.takeRequest f
      else if ahead < 2 ^ 15 then s.refuse f
      else s.takeDuplicate c f
    else if f.epoch = c.epoch + 1 then s.refuse f
    else s

/-- A continuation has come into its request's entry; with the last the message is whole (R276). -/
def Recv.join (r : Recv) (i : BitVec 2) (b : Body) : Recv :=
  let pieces := r.pieces ++ [(i, b)]
  let left := r.left.erase i
  if left.isEmpty then
    { r with left := [], pieces := [], body := [1#2, 2#2, 3#2].foldl (fun x i => ((pieces.find? (·.1 == i)).elim x fun p => x.extend p.2)) r.body }
  else { r with left := left, pieces := pieces }

/-- A continuation is ejected: into its request's entry, or refused while the request has not come (R276). -/
def State.ejectContinuation (s : State) (f : Flit) (b : Body) : State :=
  match s.fab.rxq.find? fun r => r.same f.recv && r.left.contains f.ncont with
  | some r =>
    let r' := r.join f.ncont b
    let s := s.modFab fun b => { b with rxq := b.rxq.map fun x => if x.same r then r' else x }
    if r'.left.isEmpty then s.accept r' else s
  | none =>
    match s.entryOf f.src f.dst with
    | some c =>
      if f.epoch = c.epoch then
        if (f.seq - c.expect).toNat < 2 ^ 15 ∧ !(s.fab.rxq.any (·.same f.recv)) then s.refuse f else s
      else if f.epoch = c.epoch + 1 then s.refuse f
      else s
    | none => s.refuse f

/-- EJECT_FLIT (R273, R276 to R278): flit `k`, at its destination. One that fails its check, or has another header version, is
discarded (R269, R491). -/
def execEjectFlit (k : Nat) (s : State) : Host.Outcome State Fault Refusal :=
  match (s.fab.flits[k]?).filter fun f => s.arrived f && decide (f.kind ≠ .hold) with
  | none => .next s
  | some f =>
    let s := s.modFab fun b => { b with flits := dropAt k b.flits }
    if f.sound = false ∨ f.ver ≠ 1 then .next s
    else
      match f.kind, f.body with
      | .completion, _ => .next (s.ejectCompletion f)
      | .request, _ => .next (s.ejectRequest f)
      | .continuation, .lineData b => .next (s.ejectLine f b)
      | .continuation, .part b => .next (s.ejectContinuation f b)
      | .continuation, _ => .next s
      | .hold, _ => .next s

/-! ## Fences (R280) -/

/-- The request of a copy, gather or move reads; that of a fill or of a parity operation writes (R305). -/
def OpKind.readsOnly : OpKind → Bool
  | .fill => false
  | .stripeUpd _ _ _ => false
  | .stripeRec _ _ _ _ => false
  | _ => true

/-- The request only reads (R280, R305). -/
def State.onlyReads (s : State) (o : Outst) : Bool :=
  match o.body, o.purpose with
  | .ld _ _ _, _ => true
  | .fwd _ _, _ => true
  | .gsub _ _ _, _ => true
  | .copyq _ _, .engine c id _ => ((s.findOp c id).any fun x => x.kind.readsOnly)
  | _, _ => false

/-- How an outstanding request to a fenced die ends (R280). -/
def State.fenceStatus (s : State) (o : Outst) : Byte := if o.fence || s.onlyReads o then 0x15 else 0x0F

/-- Source `u` completes its requests to logical die `n` of this package by the table of R280, and frees the channels. -/
def State.fenceSource (s : State) (u : UnitName) (n : Nat) : State :=
  let there (d : UnitName) : Bool := d.pkg == s.mgmt.domain.pkg && decide (d.die.toNat = n)
  let mine := s.fab.outst.filter fun o => decide (o.src = u) && there o.dst
  let s := s.modFab fun f => { f with srcCh := f.srcCh.map fun c => if c.src = u ∧ there c.dst then { c with opened := false } else c }
  mine.foldl (fun s o => if o.answer.isNone then s.complete o (s.fenceStatus o) .none else s.finish o) s

/-- DIE_FENCED (R280): the source of outstanding request `k` learns that the request's die is fenced. -/
def execDieFenced (k : Nat) (s : State) : Host.Outcome State Fault Refusal :=
  match s.fab.outst[k]? with
  | some o =>
    if o.dst.pkg = s.mgmt.domain.pkg ∧ mapSt (s.mapEntry o.dst.die.toNat) = 2 then .next (s.fenceSource o.src o.dst.die.toNat)
    else .next s
  | none => .next s

end Sys2Proof.Machine
end

