-- ==== Sys2Proof/Machine/Reserve.lean ====
section
/-! DEFINITION. Must-save extents, update windows and the sluice (R434 to R456). -/

namespace Sys2Proof.Machine

/-- Major 0x58: in a hinge pair each of them forces an exchange (R450). -/
def Form.reserve : Form := { Form.control with exchange := true }

/-- Change the reserve controller. -/
def State.modReserve (s : State) (f : Reserve → Reserve) : State := s.modMgmt fun m => { m with reserve := f m.reserve }
/-- Change extent `n`. -/
def State.modExtent (s : State) (n : Nat) (f : Extent → Extent) : State :=
  s.modReserve fun r => { r with extents := r.extents.map fun e => if e.num = n then f e else e }
/-- Extent `n`. -/
def State.extent (s : State) (n : Nat) : Option Extent := s.mgmt.reserve.extents.find? (·.num == n)

/-! ## Lines read and written through their homes (R443, R451) -/

/-- Write bytes within one line through its home: words that stashes own are taken back, and a coded line's P and Q follow it
(R321). -/
def State.putLine (s : State) (a : Nat) (bs : List Byte) : State :=
  let s := s.takeBack (a / 128) (wordMask a bs.length)
  match s.codedAt a with
  | some (r, k, off) =>
    if 4 ≤ k then s.write a bs
    else
      let delta := (readBytes s.mem a bs.length).zipWith (· ^^^ ·) bs
      let add (s : State) (b : Nat) (d : List Byte) : State := s.write b ((readBytes s.mem b d.length).zipWith (· ^^^ ·) d)
      (add (add (s.write a bs) (r.base 4 + off) delta) (r.base 5 + off) (delta.map (gfMul (gfTwo k))))
  | none => s.write a bs

/-- Copy one line to the persistence store, poisoned if it is poisoned (R444), from the unit that owns it while its frame moves (R436). -/
def State.saveLine (s : State) (src dst : Nat) : State :=
  let a := s.located src
  let bad := s.unreadable a 128
  let s := s.write dst (s.readLine a 128)
  if bad then s.poisonLine dst else s

/-- Copy one page from `src` to page `p` of image `k` (R445). -/
def State.savePage (s : State) (src k p : Nat) : State :=
  (List.range 32).foldl (fun s i => s.saveLine (src + 128 * i) (s.imagePage k p + 128 * i)) s

/-- Copy the data of a saved record of `n` pages, from page `p` of image `k`, to the frame at `pa` (R451). -/
def State.restoreData (s : State) (k p n pa : Nat) : State :=
  (List.range (32 * n)).foldl (fun s i =>
    let src := s.imagePage k (p + i / 32) + 128 * (i % 32)
    let bad := s.poisoned src 128
    let s := s.putLine (pa + 128 * i) (readBytes s.mem src 128)
    if bad then s.poisonLine (pa + 128 * i) else s) s

/-! ## Declaring (R437, R451) -/

/-- What `msdecl` answers beside BUDGET: a status word, with the state after it. -/
def State.declareIn (s : State) (c : Context) (cid : W32) (va : Word) (pa pages : Nat) (tag : Word) (restore : Bool) (cost : Nat) :
    Word × State :=
  let rs := s.mgmt.reserve.extents.map (·.num)
  let n := ((List.range 4096).find? fun i => !rs.contains i).getD 0
  let create (s : State) (gen : W32) : State :=
    ((s.charge c.ctx cid cost).modChamber c.ctx cid fun h => { h with decl := h.decl + pages }).modReserve fun r =>
      { r with extents := r.extents ++ [⟨n, tag, 0, false, pages, gen, pa, c.ctx, cid, va⟩] }
  let word (state : Nat) : Word := (BitVec.ofNat 64 state <<< 56) ||| s.handle (BitVec.ofNat 12 n)
  if restore = false then (word 0, create s 0)
  else
    match s.mgmt.reserve.offered, (s.offeredRecords tag).find? fun r => unclaimed r.2 with
    | some k, some (i, r) =>
      if field r 20 4 ≠ pages then (0x8000000000000004#64, s)
      else
        let st := field r 18 1
        if st = 1 ∨ st = 2 then
          (word st, (create (s.restoreData k (field r 32 8 / 4096) pages pa) (BitVec.ofNat 32 (field r 24 4))).claim k i)
        else (word 3, (create s 0).claim k i)
    | _, _ => (word 3, create s 0)

/-- Declare an extent for chamber `cid` of context `c` (R451, R439): none where the charge is refused. -/
def State.declare (s : State) (c : Context) (cid : W32) (va : Word) (pa bytes : Nat) (tag : Word) (restore : Bool) :
    Option (Word × State) :=
  let pages := bytes / 4096
  match s.mgmt.reserve.extents.find? fun e => e.ctx == c.ctx && e.tag == tag with
  | some e =>
    if e.va = va ∧ e.pages = pages ∧ e.cid = cid then some (s.handle (BitVec.ofNat 12 e.num), s)
    else some (0x8000000000000003#64, s)
  | none =>
    if s.mgmt.reserve.extents.length ≥ 4096 then some (0x8000000000000001#64, s)
    else
      let h := c.chamber cid
      let cost := (h.elim 0 (·.decl)) + pages - (h.elim 0 (·.own))
      if cost ≠ 0 ∧ s.mayCharge c (s.lineOf c.ctx cid) cost = false then none
      else some (s.declareIn c cid va pa pages tag restore cost)

/-- The physical address of an extent of `n` bytes at `va`, if it lies in one page of HBM4E or LPDDR-6 (R436, R451). -/
def State.extentFrame (s : State) (va : Word) (n : Nat) : Try (Option Nat) := do
  let last := va + BitVec.ofNat 64 (n - 1)
  let pa ← s.translate va .load
  let _ ← s.translate last .load
  let one := winner s.core.mem.tlb s.ctx va == winner s.core.mem.tlb s.ctx last
  return if one && s.place pa == .memory && s.place (pa + n - 1) == .memory then some pa else none

/-- MSDECL (R451). Its completion is an acquire, as of an engine operation (R146). -/
def execMsdecl (d a b : Reg) (s : State) : Host.Outcome State Fault Refusal :=
  run .reserve s do
    check s (decide (a.toNat ≤ 30))
    let va ← s.src a
    let w ← s.src (a + 1)
    let tag ← s.src b
    s.dst d
    let n := (bits w 0 32).toNat
    check s (bits w 32 31 == 0 && decide (n ≠ 0 ∧ n % 4096 = 0 ∧ n ≤ 2 ^ 28))
    if va.toNat % 4096 ≠ 0 then raise 0x03 va
    match ← s.extentFrame va n, s.findCtx s.ctx with
    | some pa, some c =>
      waitFor (decide (addrPkg pa = s.mgmt.domain.pkg.toNat)) .answer
      match s.declare c s.cid va pa n tag (bit w 63) with
      | none => raise 0x11 0
      | some (x, t) => return (t.acquire.setG d x).next 4
    | _, _ => return (s.setG d 0x8000000000000002#64).next 4

/-! ## Update windows (R452, R453) -/

/-- The number of a handle; ILL where it is none (R450). A handle of another package waits for that package's controller. -/
def State.handleOf (s : State) (x : Word) : Try (Option Nat) := do
  check s (bits x 58 6 == 0 && bits x 42 14 == 0 && bits x 12 20 == 0)
  let p := bits x 32 10
  waitFor (p == s.mgmt.domain.pkg || decide (s.mgmt.domain.packages ≤ p.toNat)) .answer
  return if p = s.mgmt.domain.pkg then some (bits x 0 12).toNat else none

/-- The extent that a handle names in the acting context. -/
def State.handleExtent (s : State) (x : Word) : Try (Option Extent) := do
  let n ← s.handleOf x
  return (n.bind s.extent).filter (·.ctx == s.ctx)

/-- MSOPEN (R452). -/
def execMsopen (d a : Reg) (s : State) : Host.Outcome State Fault Refusal :=
  run .reserve s do
    let x ← s.src a
    s.dst d
    match ← s.handleExtent x with
    | none => return (s.setG d 0x8000000000000001#64).next 4
    | some e =>
      if (s.core.ctl.task.elim 0 fun t => t.windows.length) ≥ 4 then raise 0x16 x
      else if e.opens = 127 then return (s.setG d 0x8000000000000002#64).next 4
      else
        let s := (s.modExtent e.num fun e => { e with opens := e.opens + 1 }).modTask fun t =>
          { t with windows := t.windows ++ [BitVec.ofNat 12 e.num] }
        return (s.setG d 0).next 4

/-- MSCLOSE (R453). -/
def execMsclose (d a : Reg) (s : State) : Host.Outcome State Fault Refusal :=
  run .reserve s do
    let x ← s.src a
    s.dst d
    match (← s.handleExtent x).filter fun e => s.core.ctl.task.any fun t => t.windows.contains (BitVec.ofNat 12 e.num) with
    | none => return (s.setG d 0x8000000000000001#64).next 4
    | some e =>
      s.release
      let e' := { e with opens := e.opens - 1, gen := e.gen + 1, dirty := e.dirty && e.opens != 1 }
      let s := (s.modExtent e.num fun _ => e').modTask fun t => { t with windows := t.windows.erase (BitVec.ofNat 12 e.num) }
      return (s.setG d (e'.gen.setWidth 64)).next 4

/-- Bits [63:32] of an extent's entry, and its GEN (R436, R454). -/
def Extent.word (e : Extent) : Word :=
  (1#64 <<< 63) ||| (BitVec.ofNat 64 e.opens <<< 56) ||| (if e.dirty then 1#64 <<< 55 else (0 : Word)) |||
    (BitVec.ofNat 64 e.pages <<< 32) ||| e.gen.setWidth 64

/-- A pair of 32-bit numbers as one word. -/
def pairWord (hi lo : Nat) : Word := (BitVec.ofNat 64 hi <<< 32) ||| (BitVec.ofNat 32 lo).setWidth 64

/-- What `msquery` tells of a saved record (R448, R454). -/
def savedWord (r : List Byte) : Word :=
  (1#64 <<< 63) ||| (if unclaimed r then (0 : Word) else 1#64 <<< 62) ||| (BitVec.ofNat 64 (field r 18 1 % 4) <<< 56) |||
    (BitVec.ofNat 64 (field r 20 4) <<< 32) ||| BitVec.ofNat 64 (field r 24 4)

/-- MSQUERY (R454). -/
def execMsquery (d a b : Reg) (s : State) : Host.Outcome State Fault Refusal :=
  run .reserve s do
    let x ← s.src a
    let sel ← s.src b
    s.dst d
    match sel.toNat with
    | 0 =>
      let e ← s.handleExtent x
      return (s.setG d (e.elim 0 Extent.word)).next 4
    | 1 =>
      let cid : W32 := if x = 0 then s.cid else x.setWidth 32
      let h := if bits x 32 32 = 0 ∧ s.isWithin s.ctx cid s.cid then (s.chamber s.ctx cid).filter (·.isOpen) else none
      return (s.setG d (h.elim (BitVec.allOnes 64) fun h => pairWord h.own h.decl)).next 4
    | 2 =>
      check s (x == 0)
      let p := (s.findCtx s.ctx).bind fun c => s.part c.part
      return (s.setG d (p.elim 0 fun p => pairWord p.share p.charged)).next 4
    | 3 =>
      return (s.setG d ((s.offeredRecords x).head?.elim 0 fun r => savedWord r.2)).next 4
    | _ => illegal s

/-! ## The sluice (R441 to R448) -/

/-- A core at the stop (R441, R442): PWRF enters the resident handler with `kaddr` 0; its gate and its engine operations are dropped, and it halts. -/
def Core.powerOff (k : Core) : Core :=
  { k with
    thr := k.thr.resident (causeWord 0x0C 0 0 false false) 0 none
    ctl := { k.ctl with run := .off }
    mem := { k.mem with ops := [], locks := [] }
    msg := k.msg.setBank none
    pair := none }

/-- An image under construction: its extent records, and the pages used. -/
abbrev Built := List (List Byte) × Nat

/-- An extent record (R448). -/
def extentRecord (tag va : Word) (ctx state flags pages : Nat) (gen cid : W32) (off : Nat) : List Byte :=
  withCrc (toBytes 8 tag.toNat ++ toBytes 8 va.toNat ++ toBytes 2 ctx ++ [BitVec.ofNat 8 state, BitVec.ofNat 8 flags] ++
    toBytes 4 pages ++ toBytes 4 gen.toNat ++ toBytes 4 cid.toNat ++ toBytes 8 off ++ List.replicate 20 0)

/-- The memory of an address is on a die already lost (R444). -/
def State.lostDie (s : State) (a : Nat) : Bool :=
  s.place a != .memory || decide (mapSt (s.mapEntry (addrDie a)) = 2)

/-- Save one extent into image `k` (R442, R444): absent where its memory is lost or the capacity does not hold it. -/
def State.saveExtent (k : Nat) (x : State × Built) (e : Extent) : State × Built :=
  let (s, recs, page) := x
  let ci := (findAt (fun (c : Context) => c.ctx == e.ctx) s.work.ctxs).getD 0
  let open_ := (if e.dirty then 4 else 0) + (if e.opens ≠ 0 then 8 else 0)
  if s.lostDie e.frame ∨ s.mgmt.reserve.capacity < page + e.pages then
    (s, recs ++ [extentRecord e.tag e.va ci 3 open_ e.pages e.gen e.cid 0], page)
  else
    let bad := (List.range (32 * e.pages)).any fun i => s.unreadable (s.located (e.frame + 128 * i)) 128
    let s := (List.range e.pages).foldl (fun s i => s.savePage (e.frame + 4096 * i) k (page + i)) s
    let flags := open_ + if bad then 2 else 0
    (s, recs ++ [extentRecord e.tag e.va ci (if flags = 0 then 1 else 2) flags e.pages e.gen e.cid (4096 * page)], page + e.pages)

/-- Carry an unclaimed record of image `old` into image `k`, with its data; its context record is number `ci` (R445). -/
def State.carryRecord (s : State) (old k ci : Nat) (r : List Byte) (b : Built) : State × Built :=
  let st := field r 18 1
  let n := field r 20 4
  let src := field r 32 8 / 4096
  let rec' (off : Nat) : List Byte := extentRecord (BitVec.ofNat 64 (field r 0 8)) (BitVec.ofNat 64 (field r 8 8)) ci st
    (field r 19 1) n (BitVec.ofNat 32 (field r 24 4)) (BitVec.ofNat 32 (field r 28 4)) off
  if st = 1 ∨ st = 2 then
    let s := (List.range n).foldl (fun s i => s.savePage (s.imagePage old (src + i)) k (b.2 + i)) s
    (s, b.1 ++ [rec' (4096 * b.2)], b.2 + n)
  else (s, b.1 ++ [rec' 0], b.2)

/-- Carry every unclaimed record of image `old` (R445); context records follow those given. -/
def State.carryAll (s : State) (old k : Nat) (ctxs : List (List Byte)) (b : Built) : State × List (List Byte) × Built :=
  let recs := (s.savedRecords old).filter fun r => unclaimed r.2
  let from_ := ctxs.length
  let step (x : State × List Nat × List (List Byte) × Built) (r : Nat × List Byte) : State × List Nat × List (List Byte) × Built :=
    let (s, seen, ctxs, b) := x
    let c := field r.2 16 2
    let (seen, ctxs) := if seen.contains c then (seen, ctxs) else (seen ++ [c], ctxs ++ [s.savedContext old c])
    let (s, b) := s.carryRecord old k (from_ + (findAt (· == c) seen).getD 0) r.2 b
    (s, seen, ctxs, b)
  let (s, _, ctxs, b) := recs.foldl step (s, [], ctxs, b)
  (s, ctxs, b)

/-- The context record of a live context (R444, R447), from the records of its extents. -/
def contextRecord (c : Context) (i : Nat) (recs : List (List Byte)) : List Byte :=
  let mine := (recs.filter fun r => field r 16 2 == i).map fun r => field r 18 1
  let st := if mine.all (· == 3) then 3 else if mine.all (· == 1) then 1 else 2
  withCrc (toBytes 8 c.lrec ++ toBytes 2 c.ctx.toNat ++ [BitVec.ofNat 8 st, 0] ++ toBytes 4 mine.length ++
    toBytes 4 (mine.filter (· == 2)).length ++ List.replicate 8 0)

/-- The 128 KiB of a die's black-box ring: event n, counted from 0, is in place n mod 4096 (R463). -/
def Die.ringBytes (d : Die) : List Byte :=
  (List.range 4096).flatMap fun i =>
    match (List.range d.bbox.length).find? fun j => (d.count - d.bbox.length + j) % 4096 == i with
    | some j => (d.bbox[j]?).elim (List.replicate 32 0) fun e => e.2.bytes e.1
    | none => List.replicate 32 0

/-- Header of a sealed image (R446). -/
def sealHeader (seq nctx next phase : Nat) (gen : Byte) : List Byte :=
  withCrc (toBytes 2 0x0100 ++ toBytes 2 0 ++ toBytes 4 seq ++ toBytes 4 nctx ++ toBytes 4 next ++
    [1, BitVec.ofNat 8 phase, gen] ++ List.replicate 41 0)

/-- The extents in ascending number. -/
def State.extentsUp (s : State) : List Extent := sortDown (fun (e : Extent) => 4096 - e.num) s.mgmt.reserve.extents

/-- Phases 3 and 4 of the sluice (R442): the image that does not hold the newest sealed header is written (R445). -/
def State.writeImage (s : State) : State :=
  let old := s.newestImage
  let k := if old = some 0 then 1 else 0
  let base := s.imageTables k
  let s := s.write base (List.replicate 64 0)
  let extents := s.extentsUp
  let (s, recs, page) := extents.foldl (State.saveExtent k) (s, [], 0)
  let short := extents.length ≠ 0 ∧ s.mgmt.reserve.capacity < (extents.map (·.pages)).sum
  let ctxs := (List.range s.work.ctxs.length).filterMap fun i => (s.work.ctxs[i]?).map fun c => contextRecord c i recs
  let (s, ctxs, recs, _) := old.elim (s, ctxs, recs, page) fun o => s.carryAll o k ctxs (recs, page)
  let s := (List.range 24).foldl (fun s i => s.write (s.imageRings k + 0x20000 * i) ((s.dies.toList[i]?).elim [] Die.ringBytes)) s
  let ctxs := ctxs.take 1024
  let s := (s.write (base + 0x40) ctxs.flatten).write (base + 0x8040) recs.flatten
  let n := s.mgmt.reserve.sluices + 1
  let gen := s.dies[0].gen
  (s.modReserve fun r => { r with sluices := n }).write base
    (sealHeader n.toNat ctxs.length recs.length (if short then 3 else 4) gen)

/-- SUPPLY_LOSS (R441 to R448): the stop latch, PWRF at every core, O words written back, requests of other packages answered QUIESCE,
the copy and the seal; nothing of the package moves until it restarts. -/
def execSupplyLoss (s : State) : Host.Outcome State Fault Refusal :=
  if s.mgmt.reserve.stop then .next s
  else
    let s := s.modReserve fun r => { r with stop := true }
    let s := s.knownCores.foldl (fun s c => (s.flushStash c).modCore c Core.powerOff) s
    let away := s.fab.rxq.filter fun r => r.src.pkg != s.mgmt.domain.pkg
    .next (away.foldl (fun s r => s.answer r 0x15 .none) s).writeImage

end Sys2Proof.Machine
end

