-- ==== Sys2Proof/Machine/Processors.lean ====
section
/-! DEFINITION. Service processors: mailboxes, diagnoses and the vote, heartbeats (R457 to R467, R488, R491). -/

namespace Sys2Proof.Machine

/-! ## Mailboxes (R464, R494) -/

/-- The unit of service processor `n`. -/
def State.spUnit (s : State) (n : Nat) : UnitName := ⟨s.mgmt.domain.pkg, BitVec.ofNat 5 (20 + n), 1, false⟩

/-- Service processor `n`. -/
def State.sp (s : State) (n : Nat) : SP := if n = 0 then s.mgmt.sps[0] else s.mgmt.sps[1]
/-- Change service processor `n`. -/
def State.modSp (s : State) (n : Nat) (f : SP → SP) : State :=
  s.modMgmt fun m => { m with sps := if n = 0 then m.sps.set 0 (f m.sps[0]) else m.sps.set 1 (f m.sps[1]) }

/-- The mailbox header of service processor `n` (R464); the boundary sequence is the latest of the partitions'. -/
def State.mailHeader (s : State) (n : Nat) : List Byte :=
  let seq := (s.work.parts.map (·.bseq)).foldl max 0
  withCrc (toBytes 2 0x0100 ++ [BitVec.ofNat 8 (s.sp n).state, 0] ++ toBytes 2 s.mgmt.domain.pkg.toNat ++ [s.dies[0].gen, 0] ++
    toBytes 8 seq ++ List.replicate 44 0)

/-- Write both mailbox headers. -/
def State.writeHeaders (s : State) : State :=
  (s.write (s.mailbox 0) (s.mailHeader 0)).write (s.mailbox 1) (s.mailHeader 1)

/-- Write an event of a TYPE that the spec does not give to the event rings alone (log 2). -/
def State.notice (s : State) (cause : Byte) (addr : Word) (extra : W32) : State :=
  let (w, s) := s.free
  let (t, s) := s.free
  let e : Event := ⟨w.toNat % 256, cause, 0xFFFF, 0, 0, addr, extra⟩
  { s with fresh := s.fresh + 1 }.mailEvent (e.bytes s.fresh ++ List.replicate 16 0 ++ toBytes 8 t.toNat ++ List.replicate 8 0)

/-- Service processor `n` goes to another state: the headers and the event rings say so (R464). -/
def State.setSp (s : State) (n st : Nat) : State :=
  if (s.sp n).state = st then s
  else ((s.modSp n fun p => { p with state := st }).writeHeaders).notice 0 0 (BitVec.ofNat 32 st)

/-! ## Serving (R434, R449, R495) -/

/-- Offer the newest sealed image, and copy its header and context records into the mailboxes (R449, R464). -/
def State.offerImage (s : State) : State :=
  let s := s.modReserve fun r => { r with offered := s.newestImage }
  match s.newestImage with
  | none => s
  | some k =>
    let h := s.imageHeader k
    let n := Nat.min (field h 8 4) 1024
    let recs := readBytes s.mem (s.imageTables k + 0x40) (32 * n)
    [0, 1].foldl (fun s i => (s.write (s.mailbox i + 0x7FC0) h).write (s.mailbox i + 0x8000) recs) s

/-- A lost partner leaves the survivor in state 2. -/
def State.servingState (s : State) (n : Nat) : Nat := if (s.sp (1 - n)).lost then 2 else 1

/-- Once Lockkeeper runs and the reserve has measured 3.0 J, the image is offered and launches are accepted (R434, R495 step 6). -/
def State.beginServing (s : State) : State :=
  let up (n : Nat) : Bool := (s.sp n).started || (s.sp n).lost
  if decide (s.mgmt.reserve.charge ≥ 3000) && up 0 && up 1 && decide ((s.sp 0).state = 0 ∨ (s.sp 1).state = 0) then
    [0, 1].foldl (fun (s : State) n => if (s.sp n).state = 0 ∧ (s.sp n).lost = false then s.setSp n (s.servingState n) else s) s.offerImage
  else s

/-- Packages of the domain that the flood has shown beside this one. -/
def State.found (s : State) : List Word := s.mgmt.domain.serials.map (·.1)

/-- The PKG of an entry of the die map from `old` to `new`. -/
def renameEntry (old new : BitVec 10) (e : W32) : W32 := if bits e 5 10 = old then setBits e 5 new else e

/-- The package takes index `n` (R32, R495 step 5): its own addresses and its map entries carry it. -/
def State.rename (s : State) (n : BitVec 10) : State :=
  let old := s.mgmt.domain.pkg
  let at_ (a : Nat) : Nat := a % 2 ^ 54 + n.toNat * 2 ^ 54
  { s with
    mem := s.mem.foldl (fun m c => writeByte m (at_ c.1) c.2) []
    homes := { s.homes with poison := s.homes.poison.map fun l => at_ (128 * l) / 128 }
    dies := s.dies.map fun d => { d with map := d.map.map (renameEntry old n) }
    mgmt := { s.mgmt with domain := { s.mgmt.domain with pkg := n } } }

/-- Steps 5 and 6 of R495 (R434): indices in ascending serial number, then the image is offered and launches are accepted. -/
def State.bringUp (s : State) : State :=
  let t := s.beginServing
  if (t.sp 0).state = (s.sp 0).state ∧ (t.sp 1).state = (s.sp 1).state then s
  else
    let below := (s.found.filter fun x => decide (x.toNat < Config.serial.toNat)).length
    let s := s.modMgmt fun m => { m with domain := { m.domain with packages := s.found.length + 1 } }
    let s := if s.mgmt.domain.pkg = BitVec.ofNat 10 below then s else s.rename (BitVec.ofNat 10 below)
    s.beginServing

/-- The package accepts launches: some service processor has left boot (R434, R495). -/
def State.serving (s : State) : Bool := decide ((s.sp 0).state ≠ 0 ∨ (s.sp 1).state ≠ 0) && !s.mgmt.reserve.stop

/-- Capacity in pages of a reserve that measures `e` mJ (R434). -/
def capacityOf (e : Nat) : Nat := if e ≥ 3000 then 262144 else (e - 400) * 262144 / 2600

/-- RESERVE_SELF_TEST (R434, R435): the measurement is recorded, with its mJ in the event; each partition takes an equal part of the
capacity as its share; it may discard the image that is offered (R435). -/
def execReserveSelfTest (test : SelfTest) (s : State) : Host.Outcome State Fault Refusal :=
  if s.mgmt.reserve.stop then .next s
  else
    let s := if test.discard then s.discardImage else s
    let c := capacityOf test.charge
    let s := s.modReserve fun r => { r with charge := test.charge, capacity := c }
    let s := s.modWork fun w => { w with parts := w.parts.map fun p => { p with share := c / w.parts.length } }
    .next (s.event 20 ⟨13, 0, 0xFFFF, 0, 0, 0, BitVec.ofNat 32 test.charge⟩).bringUp

/-! ## Diagnoses (R460) -/

/-- CLASS of a diagnosis. -/
def diagClass (d : Rec) : Nat := (bits d 0 8).toNat
/-- RUNG. -/
def diagRung (d : Rec) : Nat := (bits d 8 8).toNat
/-- Subject logical die. -/
def diagDie (d : Rec) : Nat := (bits d 32 8).toNat
/-- Subject package. -/
def diagPkg (d : Rec) : BitVec 16 := bits d 16 16
/-- Subject core name. -/
def diagCore (d : Rec) : CoreName := bits d 48 16
/-- Two diagnoses are of the same subject. -/
def sameSubject (d e : Rec) : Bool := bits d 16 48 == bits e 16 48
/-- They agree: bytes 0 to 15 are equal (R460). -/
def agree (d e : Rec) : Bool := bits d 0 128 == bits e 0 128
/-- The record checks (R460). -/
def diagForm (d : Rec) : Bool :=
  bits d 480 32 == crc32c ((recBytes d).take 60) && bits d 40 8 == 0 && bits d 384 96 == 0 && decide (diagRung d ≤ 6)

/-- The diagnosis of a die by the service processors (R460); its evidence is the die's black box. -/
def State.dieDiagnosis (s : State) (cls rung die : Nat) : Rec :=
  let e := (s.dies.toList[(bits (s.mapEntry die) 0 5).toNat]?).elim [] Die.ringBytes
  recOf (withCrc ([BitVec.ofNat 8 cls, BitVec.ofNat 8 rung] ++ toBytes 2 s.mgmt.domain.pkg.toNat ++ [BitVec.ofNat 8 die, 0] ++
    toBytes 2 0xFFFF ++ toBytes 8 s.dies[0].gen.toNat ++ toBytes 32 (Config.sha256 e).toNat ++ List.replicate 12 0))

/-! ## The vote (R461, R462) -/

/-- Change the votes. -/
def State.modVotes (s : State) (f : List Vote → List Vote) : State := s.modMgmt fun m => { m with votes := f m.votes }

/-- A faulty core goes offline after its task's recovery (R467 class 6): it runs nothing more, its agent and router stay. -/
def State.offline (s : State) (c : CoreName) : State :=
  let k := s.getCore c
  let s := match k.ctl.task with
    | some t => s.rung3 t.ctx t.cid (bits k.thr.kcause 0 8) (s.who c .control)
    | none => s
  if (s.getCore c).ctl.run = .idle then s.modCore c fun k => k.modCtl fun x => { x with run := .off } else s

/-- A diagnosis passes (R461). -/
def State.pass (s : State) (d : Rec) : State :=
  let s := s.modVotes fun vs => vs.filter fun v => !(v.first.any (sameSubject d) || v.second.any (sameSubject d))
  if diagClass d = 6 then (if isCore (diagCore d) then s.offline (diagCore d) else s)
  else s.modMgmt fun m => { m with passed := m.passed ++ [d] }

/-- Step 4 without agreeing referees (R461): the higher RUNG, at equal RUNG the lower CLASS. -/
def Vote.byRule (v : Vote) : Option Rec :=
  match v.first, v.second with
  | some a, some b =>
    if diagRung b < diagRung a then some a else if diagRung a < diagRung b then some b
    else if diagClass b < diagClass a then some b else some a
  | some a, none => some a
  | none, b => b

/-- Vote `k` is decided by that rule. -/
def State.decideByRule (s : State) (k : Nat) : State :=
  match s.mgmt.votes[k]? with
  | some v => v.byRule.elim (s.modVotes (dropAt k)) s.pass
  | none => s

/-- The referees of this package's votes (R461). -/
def State.referees (s : State) : List UnitName :=
  let n := s.mgmt.domain.packages
  let p := s.mgmt.domain.pkg.toNat
  [⟨BitVec.ofNat 10 ((p + 1) % n), 20, 1, false⟩, ⟨BitVec.ofNat 10 ((p + n - 1) % n), 21, 1, false⟩]

/-- Vote `k` goes to the referees with both diagnoses, or to the rule where there are none (R461, R462). -/
def State.toReferees (s : State) (k : Nat) : State :=
  match s.mgmt.votes[k]? with
  | none => s
  | some v =>
    if s.mgmt.domain.packages ≤ 1 ∨ s.mgmt.domain.fused then s.decideByRule k
    else
      let s := s.modVotes (setAt k { v with referees := true })
      s.referees.foldl (fun s u => (v.first.toList ++ v.second.toList).foldl (fun s d =>
        s.post (s.spUnit v.by_) u 27 0 false false (.spmb (some d)) .none) s) s

/-- The vote on a subject. -/
def State.voteOn (s : State) (d : Rec) : Option Nat :=
  findAt (fun (v : Vote) => v.first.any (sameSubject d) || v.second.any (sameSubject d)) s.mgmt.votes

/-- Service processor `n` forms a diagnosis (R461): it begins a vote, answers its partner's, or, as a referee, answers another
package's. -/
def State.diagnose (s : State) (n : Nat) (d : Rec) : State :=
  if (s.sp n).lost then s
  else if diagPkg d ≠ s.mgmt.domain.pkg.setWidth 16 then
    if diagPkg d = 0xFFFF ∨ (diagPkg d).toNat ≥ s.mgmt.domain.packages then s
    else s.post (s.spUnit n) ⟨(diagPkg d).setWidth 10, BitVec.ofNat 5 (20 + n), 1, false⟩ 27 0 false false (.spmb (some d)) .none
  else
    match s.voteOn d with
    | some k =>
      match s.mgmt.votes[k]? with
      | some v =>
        if v.by_ ≠ n ∧ v.second.isNone ∧ v.referees = false then
          (s.modVotes (setAt k { v with second := some d })).post (s.spUnit n) (s.spUnit v.by_) 27 0 false false (.spmb (some d)) .none
        else s
      | none => s
    | none =>
      let s := s.modVotes fun vs => vs ++ [⟨some d, none, n, false, []⟩]
      if (s.sp (1 - n)).lost then s.toReferees (s.mgmt.votes.length - 1)
      else s.post (s.spUnit n) (s.spUnit (1 - n)) 27 0 false false (.spmb (some d)) .none

/-- DIAGNOSIS (R460, R461): service processor `sp` forms a diagnosis. -/
def execDiagnosis (sp : Nat) (d : Rec) (s : State) : Host.Outcome State Fault Refusal :=
  if sp < 2 ∧ (s.sp sp).state ≠ 0 ∧ diagForm d then .next (s.diagnose sp d) else .next s

/-- A referee's choice (R461): once both have chosen the same diagnosis it passes; when they differ, step 4 decides. -/
def State.refereeChose (s : State) (k : Nat) (v : Vote) (who : Nat) (d : Option Rec) : State :=
  let v := { v with chosen := assocSet who d v.chosen }
  let s := s.modVotes (setAt k v)
  match assocGet 0 v.chosen, assocGet 1 v.chosen with
  | some a, some b =>
    match a, b with
    | some x, some y => if x = y then s.pass x else s.decideByRule k
    | _, _ => s.decideByRule k
  | _, _ => s

/-- The partner's diagnosis has come to the one who began (R461 steps 2 and 3). -/
def State.partnerAnswered (s : State) (k : Nat) (v : Vote) : State :=
  match v.first, v.second with
  | some a, some b => if agree a b then s.pass a else s.toReferees k
  | _, _ => s.toReferees k

/-- SPMB (R461): the oldest message at service processor `sp`. -/
def execSpmb (sp : Nat) (s : State) : Host.Outcome State Fault Refusal :=
  match s.fab.rxq.find? fun r => decide (r.cls = 27 ∧ r.dst = s.spUnit sp) && r.left.isEmpty with
  | none => .next s
  | some r =>
    let t := s.answer r 0 .none
    match r.body with
    | .spmb d =>
      let mine := match d with
        | some d => s.voteOn d
        | none => findAt (fun (v : Vote) => v.by_ == sp && v.second.isNone) s.mgmt.votes
      match mine.bind fun k => (s.mgmt.votes[k]?).map fun v => (k, v) with
      | none => .next t
      | some (k, v) =>
        if r.src.pkg = s.mgmt.domain.pkg then
          if v.by_ = sp ∧ v.referees = false then .next (t.partnerAnswered k v) else .next t
        else if v.referees then .next (t.refereeChose k v (r.src.die.toNat - 20) d)
        else .next t
    | _ => .next t

/-- VOTE_TIMEOUT (R461): vote `k` has no answer of the partner within 50 µs. -/
def execVoteTimeout (k : Nat) (s : State) : Host.Outcome State Fault Refusal :=
  match s.mgmt.votes[k]? with
  | some v => if v.referees = false ∧ v.second.isNone then .next (s.toReferees k) else .next s
  | none => .next s

/-- REFEREE_TIMEOUT (R461): vote `k` has no agreeing referees within 1 ms. -/
def execRefereeTimeout (k : Nat) (s : State) : Host.Outcome State Fault Refusal :=
  match s.mgmt.votes[k]? with
  | some v => if v.referees then .next (s.decideByRule k) else .next s
  | none => .next s

/-! ## Heartbeats (R457, R467) -/

/-- The logical die that a physical die holds. -/
def State.logicalOf (s : State) (phys : Nat) : Option Nat :=
  (List.range 22).find? fun n =>
    let e := s.mapEntry n
    bit e 31 && bits e 5 10 == s.mgmt.domain.pkg && decide ((bits e 0 5).toNat = phys)

/-- Class and rung of the loss of a logical die (R467). -/
def lossClass (die : Nat) : Nat × Nat := if die < 16 then (10, 5) else (11, 6)

/-- HEARTBEAT_PROBE (R467): the probe of every router of physical die `die`, by the service processor of its parity or the survivor;
five misses in a row diagnose the die lost. -/
def execHeartbeatProbe (die : Nat) (answered : Bool) (s : State) : Host.Outcome State Fault Refusal :=
  let n := if (s.sp (die % 2)).lost then 1 - die % 2 else die % 2
  if die ≥ 24 ∨ (s.sp n).state = 0 then .next s
  else
    let missed := if answered then 0 else ((assocGet die (s.sp n).missed).getD 0) + 1
    let s := s.modSp n fun p => { p with missed := assocSet die missed p.missed }
    match if missed = 5 then s.logicalOf die else none with
    | some l => .next (s.diagnose n (s.dieDiagnosis (lossClass l).1 (lossClass l).2 l))
    | none => .next s

/-- SP_PARTNER_LOST (R467 class 13, R462): service processor `sp` finds its partner lost; votes that wait for the partner go to the
referees. -/
def execSpPartnerLost (sp : Nat) (s : State) : Host.Outcome State Fault Refusal :=
  if sp ≥ 2 ∨ (s.sp sp).lost ∨ (s.sp (1 - sp)).lost then .next s
  else
    let s := s.modSp (1 - sp) fun p => { p with lost := true }
    let s := if (s.sp sp).state = 0 then s else s.setSp sp 2
    .next ((List.range s.mgmt.votes.length).reverse.foldl (fun s k =>
      match s.mgmt.votes[k]? with
      | some v => if v.referees = false ∧ v.second.isNone then s.toReferees k else s
      | none => s) s)

/-- WATCHDOG (R479, R467 class 17): no core of partition `p`, which has live tasks and is not held, has retired an instruction
for 1 s. -/
def execWatchdog (p : Nat) (s : State) : Host.Outcome State Fault Refusal :=
  match s.part p with
  | some q =>
    let live := s.work.ctxs.any fun c => decide (c.part = p) && c.chambers.any fun h => h.live != 0
    if q.held ∨ live = false then .next s
    else .next (s.announce ((q.dies.head?).getD 0) ⟨16, 0, 0xFFFF, 0, 0, 0, BitVec.ofNat 32 p⟩)
  | none => .next s

end Sys2Proof.Machine
end

