-- ==== Sys2Proof/Machine/Recovery.lean ====
section
/-! DEFINITION. Recovery: map rewrites (R15, R459), loss of dies and packages (R473 to R478), boundaries and rollback (R468 to
R472). -/

namespace Sys2Proof.Machine

/-! ## Map rewrites (R14, R15, R459) -/

/-- The persisted copy of a map (R459). -/
def mapCopy (m : Vector W32 32) (gen : Byte) : List Byte :=
  withCrc ((m.toList.take 22).flatMap (fun e => toBytes 4 e.toNat) ++ [gen] ++ List.replicate 35 0)

/-- Where network gateway `i` keeps it. -/
def State.copyAddr (s : State) (i : Nat) : Nat := globalAddr s.mgmt.domain.pkg.toNat (20 + i) 0 0x3F7FF000

/-- Rewrite the entry of logical die `n`, which is fenced: the copy is persisted on both network gateways, then the package map
generation rises in every router (R15, R459). -/
def State.rewriteMap (s : State) (n : Nat) (e : W32) : State :=
  let g := s.dies[0].gen + 1
  let e := setBits e 21 g
  let put (m : Vector W32 32) : Vector W32 32 := if h : n < 32 then m.set n e h else m
  let copy := mapCopy (put s.dies[0].map) g
  let s := (s.write (s.copyAddr 0) copy).write (s.copyAddr 1) copy
  let s : State := { s with dies := s.dies.map fun d => { d with map := put d.map, gen := g } }
  s.writeHeaders.announce 20 ⟨12, 0, 0xFFFF, 0, 0, BitVec.ofNat 64 (globalAddr s.mgmt.domain.pkg.toNat n 0 0), g.setWidth 32⟩

/-- Event type 11 for a logical die: quiesce begun or ended. -/
def State.quiesceEvent (s : State) (n : Nat) : State :=
  s.announce 20 ⟨11, 0, 0xFFFF, 0, 0, BitVec.ofNat 64 (globalAddr s.mgmt.domain.pkg.toNat n 0 0), s.dies[0].gen.setWidth 32⟩

/-- A unit of logical die `n` of this package. -/
def State.onDie (s : State) (n : Nat) (u : UnitName) : Bool := u.pkg == s.mgmt.domain.pkg && decide (u.die.toNat = n)

/-- The partitions that hold a logical die. -/
def State.partsOf (s : State) (n : Nat) : List Nat :=
  (List.range s.work.parts.length).filter fun i => (s.work.parts[i]?).any fun p => p.dies.contains n

/-- Step 2 of R473: QSCE goes to every package that shares a partition with logical die `n`. -/
def State.tellPackages (s : State) (n : Nat) : State :=
  let sp : UnitName := ⟨s.mgmt.domain.pkg, 20, 1, false⟩
  let away := (((s.partsOf n).filterMap s.part).flatMap fun q => q.remote.map (·.1)).eraseDups
  away.foldl (fun s g => s.post sp { sp with pkg := g } 18 0 false false (.qsce n) .none) s

/-- Quiesce and fence a logical die (R473 steps 2 and 3, R280, R143): what its own units had outstanding is gone with it, every
other source completes its requests to it, and words its cores owned are the homes' again. -/
def State.fence (s : State) (n : Nat) : State :=
  let s := (s.partsOf n).foldl State.gangStop (((s.setSt n 1).quiesceEvent n).tellPackages n)
  let here := s.onDie n
  let s := (s.setSt n 2).modFab fun f => { f with
    outst := f.outst.filter fun o => !here o.src
    srcCh := f.srcCh.filter fun c => !here c.src
    dstCh := f.dstCh.filter fun c => !here c.dst && !here c.src
    rxq := f.rxq.filter fun r => !here r.dst && !here r.src
    flits := f.flits.filter fun x => !here x.src }
  let s := s.freeUnread
  let s := (s.fab.outst.filter fun o => here o.dst).foldl (fun s o => s.fenceSource o.src n) s
  let lines := (s.homes.registry.filter fun e => here e.owner && e.rev).map (·.line)
  let s := s.modHomes fun h => { h with registry := h.registry.filter fun e => !here e.owner }
  lines.foldl (fun s l => s.failWaiting l) s

/-! ## The census (R474) -/

/-- A task of a chamber, by context, chamber, and gang if it is of a team. -/
abbrev Sighting := BitVec 16 × W32 × Option Nat

/-- The task as the census counts it. -/
def Task.seen (t : Task) : Sighting := (t.ctx, t.cid, t.team.map (·.gang))
/-- The record as the census counts it. -/
def Slot.seen (d : Slot) : Sighting := (d.ctx, recCid d.record, none)

/-- Tasks on a core: running, out, and in its deque. -/
def Core.seen (k : Core) : List Sighting :=
  (k.ctl.task.toList.map Task.seen) ++ (k.sched.resume.map fun r => r.saved.task.seen) ++ k.sched.deque.map Slot.seen

/-- Tasks that are on no core: at power heads, in park slots, gangs and restarts, and in flight. -/
def State.seenElsewhere (s : State) (n : Nat) : List Sighting :=
  let heads := (List.range 16).filterMap fun i => if i = n then none else (s.gov i).head.map fun h => h.1.seen
  let parks := (s.services.filter fun v => dieOf v.core != n).flatMap fun v => v.parks.map fun p => p.2.saved.task.seen
  let gangs := (s.work.gangs.filter fun g => dieOf g.home != n && g.resume.isEmpty).map fun g => g.slot.seen
  let again := (s.work.restarts.map fun r => r.slot.seen) ++ (s.work.pushes.filter (·.counted)).map fun p => p.slot.seen
  let ships := s.fab.outst.filterMap fun o => match o.body with
    | .ship h => if s.performed o then none else some h.saved.task.seen
    | _ => none
  let steals := (s.fab.outst.filterMap s.stolenOf).map Slot.seen
  heads ++ parks ++ gangs ++ again ++ ships ++ steals

/-- Tasks of a chamber among those seen; a team is one, and one that has lost a member is not found. -/
def countSeen (found lost : List Sighting) (x : BitVec 16) (cid : W32) : Nat :=
  let mine := found.filter fun t => t.1 == x && t.2.1 == cid
  let gangs := (mine.filterMap fun t => t.2.2).eraseDups.filter fun g => !lost.any fun t => t.2.2 == some g
  (mine.filter fun t => t.2.2.isNone).length + gangs.length

/-- The census when logical die `n` is lost: the chambers whose LIVE exceeds the tasks found elsewhere, each with the core that its
head goes to. -/
def State.census (s : State) (n : Nat) : List (BitVec 16 × W32 × CoreName) :=
  let known := s.knownCores
  let found := (known.filter fun c => dieOf c != n).flatMap (fun c => (s.getCore c).seen) ++ s.seenElsewhere n
  let lost := (known.filter fun c => dieOf c == n).flatMap fun c => (s.getCore c).seen
  let lowest (x : BitVec 16) (cid : W32) : CoreName :=
    ((coresOf n).find? fun c => (s.getCore c).seen.any fun t => t.1 == x && t.2.1 == cid).getD (coreName n 0)
  s.work.ctxs.flatMap fun c => (c.chambers.filter fun h => decide (h.isOpen ∧ h.cst ≠ 4 ∧ countSeen found lost c.ctx h.cid < h.live)).map fun h =>
    (c.ctx, h.cid, lowest c.ctx h.cid)

/-! ## A new die under an old number (R473 steps 5 and 6) -/

/-- The page that holds an address of local SRAM is a standing page, zero-filled (R466). -/
def State.standPages (s : State) (a n : Nat) : State :=
  match s.place a with
  | .sram c =>
    (List.range ((addrOff a % 4096 + n + 4095) / 4096)).foldl (fun s i =>
      let p := addrOff a / 4096 + i
      let s := s.modCore c fun k => k.setPage p ⟨.tile, 0, true, true, 0⟩
      { s with mem := writeBytes s.mem (s.sramBase c + 4096 * p) (List.replicate 4096 0) }) s
  | _ => s

/-- Every array of a region on logical die `n`, or all of them, becomes standing pages. -/
def State.standRegion (s : State) (r : Region) (n : Option Nat) : State :=
  if r.standing then
    (r.shards.filter fun b => n.all fun d => decide (addrDie b = d)).foldl (fun s b => s.standPages b (256 * r.ngrp)) s
  else s

/-- The basin tiles that cores `cs`, now lost, were sealing are sealed poisoned (R349). -/
def State.cutSeals (s : State) (cs : List CoreName) : State :=
  let cut := cs.flatMap fun c => (s.getCore c).mem.ops.filterMap fun o =>
    match o.kind, o.tile with
    | .bseal _ _ _, some t => some (o.task, t)
    | _, _ => none
  s.sealWhere fun t => t.state == .sealing && cut.contains t.holder

/-- The tasks and records on logical die `n` are discarded (R227 for rung 5). -/
def State.loseTasks (s : State) (n : Nat) : State :=
  let cs := s.knownCores.filter fun c => dieOf c == n
  let s := s.cutSeals cs
  let s := cs.foldl State.endRunning s
  let s := cs.foldl (fun (s : State) c =>
    let h := (s.getCore c).sched
    let s := s.modCore c fun k => k.modSched fun h => { h with resume := [], deque := [] }
    h.deque.foldl (fun s d => s.discardRecord d.ctx d.record) (h.resume.foldl (fun s r => s.discardSaved r.saved) s)) s
  let s := ((s.services.filter fun v => dieOf v.core == n).flatMap (·.parks)).foldl (fun s p => s.discardSaved p.2.saved) s
  let s := (s.gov n).head.elim s fun h => s.discardRecord h.1.ctx h.1.record
  (s.work.gangs.filter fun g => dieOf g.home == n && g.resume.isEmpty).foldl (fun s g => s.discardRecord g.slot.ctx g.slot.record) s

/-- Forget what stood on logical die `n`: its tasks, cores, slices, services, governor, local memory and markers. -/
def State.clearDie (s : State) (n : Nat) : State :=
  let gone (c : CoreName) : Bool := dieOf c == n
  let here (a : Nat) : Bool := decide (addrPkg a = s.mgmt.domain.pkg.toNat ∧ addrDie a = n)
  let s := s.loseTasks n
  let lostParts := s.basins.filter fun b => (s.partSlice b.part).any (s.onDie n)
  let s := lostParts.foldl (fun s b => s.destroyBasin b.part) s
  let away := s.work.gangs.filter fun g => !gone g.home && g.cores.any gone
  let s := away.foldl State.releaseGang s
  let dead := s.work.gangs.filter fun g => gone g.home
  let s := dead.foldl (fun s g => (s.unreserveGang g).markPlacing g.resume false) s
  let s := s.modWork fun w => { w with gangs := w.gangs.filter fun g => !gone g.home }
  let s : State := if gone s.cur then { s with core := .reset s.cur } else s
  { s with
    cores := s.cores.filter fun e => !gone e.1
    services := s.services.filter fun v => !gone v.core
    govs := if h : n < 16 then s.govs.set n .reset h else s.govs
    mem := s.mem.filter fun x => !here x.1
    homes := { s.homes with poison := s.homes.poison.filter fun l => !here (128 * l) } }

/-- Write back every O word homed on logical die `n`; its registries are empty (R473 step 6). -/
def State.rehome (s : State) (n : Nat) : State :=
  let lines := ((s.homes.registry.filter fun e => (s.home (128 * e.line)).die.toNat = n).map (·.line)).eraseDups
  let s := lines.foldl (fun s l => s.takeBack l 0xFFFFFFFF#32) s
  s.modHomes fun h => { h with registry := h.registry.filter fun e => !lines.contains e.line }

/-- Set LOST for every shard on logical die `n` (R473 step 7). -/
def State.loseShards (s : State) (n : Nat) : State :=
  let here (a : Nat) : Bool := decide (addrPkg a = s.mgmt.domain.pkg.toNat ∧ addrDie a = n)
  let lose (r : Region) : Region :=
    r.withLost ((List.range 6).foldl (fun l k => if here (r.base k) then setBit l k true else l) r.lost)
  { s with stripes := s.stripes.map lose }

/-- Fail the contexts that satisfy `f` at `rung`, their roots taking CST = 4; `lost` says that a package took their memory (R467,
R476 to R478). -/
def State.failContexts (s : State) (f : Context → Bool) (rung : Nat) (lost : Bool) : State :=
  (s.work.ctxs.filter f).foldl (fun s c =>
    let s := if lost then s.modCtx c.ctx fun c => { c with lost := true } else s
    s.failAt c.ctx 1 0x15 rung ⟨0xFFFF, 0, 0, 0⟩) s

/-- The context has a shard of a coded region at an address that satisfies `f`. -/
def State.hasShard (s : State) (c : Context) (f : Nat → Bool) : Bool := s.stripes.any fun r => r.ctx == c.ctx && r.shards.any f

/-- The context has a frame outside coded regions that satisfies `f`: one that translation maps for it. -/
def State.hasFrame (s : State) (c : Context) (f : Nat → Bool) : Bool :=
  s.allEntries.any fun e => e.ctx == c.ctx && bit e.dw0 63 &&
    let pa := e.dw1.toNat / 2 ^ e.shift * 2 ^ e.shift
    f pa && (s.codedAt pa).isNone

/-- The diagnosis that calls for the recovery of logical die `n`, of class `cls`. -/
def State.diagnosisFor (s : State) (cls n : Nat) : Option Rec :=
  s.mgmt.passed.find? fun d => diagClass d == cls && diagDie d == n && diagPkg d == s.mgmt.domain.pkg.setWidth 16

/-- A diagnosis has been acted on. -/
def State.consume (s : State) (d : Rec) : State := s.modMgmt fun m => { m with passed := m.passed.filter (· != d) }

/-- No recovery sequence is in progress but, perhaps, one of logical die `n` (R481). -/
def State.mayRecover (s : State) (n : Nat) : Bool := s.mgmt.recov.all fun r => r.die == n

/-- The service processors leave or enter state 3 (R464). -/
def State.recovering (s : State) (on : Bool) : State :=
  [0, 1].foldl (fun (s : State) n => if (s.sp n).lost ∨ (s.sp n).state = 0 then s else s.setSp n (if on then 3 else s.servingState n)) s

/-- The least number of a list. -/
def least : List Nat → Option Nat
  | [] => none
  | q :: l => some (l.foldl Nat.min q)

/-- The package that lends its spare for logical die `n` (R476): the lowest PKG that shares a partition with it, failing that the lowest. -/
def State.lender (s : State) (n : Nat) : Option Nat :=
  let near := ((s.partsOf n).filterMap s.part).flatMap fun q => q.remote.map (·.1.toNat)
  (least (s.mgmt.domain.lenders.filter near.contains)).or (least s.mgmt.domain.lenders)

/-- The entry that the spare of this package, or a lent one, gives logical die `n` (R473 step 5, R476), and the domain after it;
none where there is no spare anywhere. -/
def State.spareEntry (s : State) (n : Nat) : Option (W32 × State) :=
  let d := s.mgmt.domain
  match d.spare, s.lender n with
  | some p, _ =>
    some (0xE0000000#32 ||| (d.pkg.setWidth 32 <<< 5) ||| BitVec.ofNat 32 p, s.modMgmt fun m => { m with domain := { d with spare := none } })
  | none, some low =>
    let (w, s) := s.free
    some (0xE0000000#32 ||| (BitVec.ofNat 32 (low % 1024) <<< 5) ||| BitVec.ofNat 32 (w.toNat % 24),
      s.modMgmt fun m => { m with domain := { d with lenders := d.lenders.filter (· != low) } })
  | none, none => none

/-- The lost die's number goes to another die, rebuilding (R473 steps 5 to 7). -/
def State.replaceDie (s : State) (n : Nat) (e : W32) : State :=
  let s := (s.rewriteMap n e).clearDie n
  let s := (s.rehome n).loseShards n
  s.stripes.foldl (fun s r => s.standRegion r (some n)) s

/-- DIE_LOSS_RECOVERY (R473 to R476, R481): steps 1 to 7 for logical compute die `die`, on a passing diagnosis of class 10. -/
def execDieLossRecovery (die : Nat) (s : State) : Host.Outcome State Fault Refusal :=
  match if die < 16 ∧ s.mayRecover die then s.diagnosisFor 10 die else none with
  | none => .next s
  | some d =>
    let parts := s.partsOf die
    let s := ((s.consume d).recovering true).fence die
    let chambers := s.census die ++ (s.mgmt.recov.flatMap (·.chambers))
    match s.spareEntry die with
    | some (e, s) =>
      let s := s.replaceDie die e
      .next (s.modMgmt fun m => { m with recov := [⟨die, parts, chambers⟩] })
    | none =>
      -- no spare anywhere: the entry stays fenced, so requests to lines homed there go on completing QUIESCE (R144)
      let hasTask (c : Context) : Bool := (coresOf die).any fun k => (s.getCore k).seen.any fun t => t.1 == c.ctx
      let s := s.failContexts (fun c => hasTask c || s.hasShard c fun a => decide (addrDie a = die)) 5 false
      let s := (s.clearDie die).modHomes fun h => { h with registry := h.registry.filter fun e => !decide ((s.home (128 * e.line)).die.toNat = die) }
      let s := (coresOf die).foldl (fun (s : State) c => s.modCore c fun k => k.modCtl fun x => { x with run := .off }) s
      .next ((parts.foldl State.gangResume (s.modMgmt fun m => { m with recov := [] })).recovering false)

/-! ## Rebuilding (R324 to R326, R473 steps 7 to 9) -/

/-- Rebuild the lost shards of a region (R324). -/
def State.rebuildRegion (s : State) (r : Region) : State :=
  (List.range (2 * r.ngrp)).foldl (fun s n =>
    s.writeShards r ((List.range 6).filter (bit r.lost ·)) (rebuildAll r.lost) (128 * n) (s.badGroup r r.lost (128 * n)).isSome) s

/-! ## Boundaries (R468 to R470) -/

/-- A unit of a die of the partition. -/
def State.inDies (s : State) (q : Partition) (u : UnitName) : Bool := u.pkg == s.mgmt.domain.pkg && q.dies.contains u.die.toNat

/-- The messages between units of a partition, or the rest (R470). -/
def State.fabricOf (s : State) (q : Partition) (inner : Bool) : Fabric :=
  let both (a b : UnitName) : Bool := (s.inDies q a && s.inDies q b) == inner
  { s.fab with
    flits := s.fab.flits.filter fun x => both x.src x.dst
    srcCh := s.fab.srcCh.filter fun x => both x.src x.dst
    dstCh := s.fab.dstCh.filter fun x => both x.src x.dst
    outst := s.fab.outst.filter fun x => both x.src x.dst
    rxq := s.fab.rxq.filter fun x => both x.src x.dst
    installs := s.fab.installs.filter fun x => both (coreUnit s x.core) (coreUnit s x.core) }

/-- Sum of `krecv` over the cores of a partition (R472). -/
def State.receivedSum (s : State) (q : Partition) : Nat :=
  ((s.knownCores.filter fun c => q.dies.contains (dieOf c)).map fun c => (s.getCore c).ctl.k.krecv.toNat).sum

/-- The state of partition `p` that a boundary saves (R470). -/
def State.snapshot (s : State) (p : Nat) (q : Partition) : Boundary :=
  let mine (c : CoreName) : Bool := q.dies.contains (dieOf c)
  let cs := (s.knownCores.filter mine).map fun c => (c, (s.getCore c).unstop)
  let ctxs := s.work.ctxs.filter fun c => decide (c.part = p)
  let xs := ctxs.map (·.ctx)
  { part := p, cores := cs
    sram := s.mem.filter fun x => decide (addrPkg x.1 = s.mgmt.domain.pkg.toNat ∧ addrDie x.1 < 16) && q.dies.contains (addrDie x.1)
    basins := s.basins.filter fun b => xs.contains b.ctx
    extents := s.mgmt.reserve.extents.filter fun e => xs.contains e.ctx
    services := (s.services.filter fun v => mine v.core).map fun v => { v with tlb := [] }
    migrations := s.homes.migrations.filter (·.part == p)
    ctxs := ctxs
    work := (s.work.pushes.filter fun x => mine x.core, s.work.restarts.filter fun x => mine x.core, s.work.gangs.filter fun g => mine g.home)
    heads := s.work.heads.filter fun x => mine x.2.2
    govs := (q.dies.filter (· < 16)).map fun d => (d, s.gov d)
    fab := s.fabricOf q true
    received := s.receivedSum q }

/-- A core has completed its issued accesses and engine operations; a read that waits at a slice may wait on (R470). -/
def Core.settled (k : Core) : Bool :=
  k.mem.loads.isEmpty && k.mem.stores.isEmpty && k.mem.ops.all fun o => o.kind == .bld

/-- Write the frame of core `c`'s running task, and its matrix save area (R470 step 2). -/
def State.writeFrame (s : State) (c : CoreName) : State :=
  let k := s.getCore c
  k.ctl.task.elim s fun t => (s.deviceWrite t.frame (k.unstop.saved t).frame).saveMatrix c t

/-- The boundary of partition `p`: it begins with a gang stop, and once every core has completed what it issued its steps run and
the partition resumes (R470). -/
def State.boundaryStep (s : State) (p : Nat) : State :=
  match s.part p with
  | none => s
  | some q =>
    let enabled := s.work.ctxs.any fun c => decide (c.part = p ∧ c.ckpt ≠ 0)
    if !s.mgmt.recov.isEmpty ∨ (enabled = false ∧ q.bound = false) ∨ (q.stopped ∧ q.bound = false) then s
    else
      let s := if q.stopped then s else (s.gangStop p).modPart p fun q => { q with bound := true }
      let cs := s.knownCores.filter fun c => q.dies.contains (dieOf c)
      if cs.all fun c => (s.getCore c).settled then
        let s := cs.foldl (fun s c => (s.flushWords c).writeFrame c) s
        let s := s.modHomes fun h => { h with undo := h.undo.filter (·.part != p) }
        let s := s.modPart p fun q => { q with bseq := q.bseq + 1 }
        let b := s.snapshot p q
        let s := s.modMgmt fun m => { m with bounds := m.bounds.filter (·.part != p) ++ [b] }
        (s.writeHeaders.announce 20 ⟨15, 0, 0xFFFF, 0, 0, 0, BitVec.ofNat 32 (q.bseq + 1)⟩).gangResume p
      else s

/-- CHECKPOINT_BOUNDARY (R470). -/
def execCheckpointBoundary (p : Nat) (s : State) : Host.Outcome State Fault Refusal := .next (s.boundaryStep p)

/-- UNDO_LOG_FULL (R468): the log of memory gateway `die` brings the next boundary of its partitions forward. -/
def execUndoLogFull (die : Nat) (s : State) : Host.Outcome State Fault Refusal :=
  if 16 ≤ die ∧ die < 20 then .next ((s.partsOf die).foldl State.boundaryStep s) else .next s

/-! ## Rollback (R471, R472) -/

/-- Apply the undo records of partition `p`, the latest first (R471 step 3). -/
def State.undoWrites (s : State) (p : Nat) : State :=
  let recs := (s.homes.undo.filter (·.part == p)).reverse
  let s := recs.foldl (fun s u =>
    let rest := s.homes.poison.filter (· != u.line)
    { s with
      mem := writeBytes s.mem (128 * u.line) u.data
      homes := { s.homes with poison := if u.poison then u.line :: rest else rest } }) s
  s.modHomes fun h => { h with undo := h.undo.filter (·.part != p) }

/-- Put the bytes of a boundary's local SRAM back. -/
def State.restoreSram (s : State) (q : Partition) (b : Boundary) : State :=
  let here (a : Nat) : Bool := decide (addrPkg a = s.mgmt.domain.pkg.toNat ∧ addrDie a < 16) && q.dies.contains (addrDie a)
  { s with mem := b.sram.foldl (fun m x => writeByte m x.1 x.2) (s.mem.filter fun x => !here x.1) }

/-- A core as a rollback reloads it (R301, R471): a class routine that ran has been discarded, and no TLB entry stands. -/
def Core.reloaded (k : Core) : Core := k.dropRoutine.modMem fun m => { m with tlb := [] }

/-- A request flit that is discarded unperformed where it arrives: it keeps its place in its channel and asks for nothing (R214). -/
def Flit.voided (f : Flit) : Flit := Flit.seal { f with cls := 0, ncont := 0, body := .none }

/-- The fabric outside a partition once it rolls back: the accesses that its cores had issued to other partitions and that have not been
performed are discarded (R214). -/
def State.fabricLeft (s : State) (q : Partition) : Fabric :=
  let f := s.fabricOf q false
  let gone (src : UnitName) (cls : BitVec 10) : Bool := s.inDies q src && s.isAccess src cls
  { f with
    outst := f.outst.filter fun o => !gone o.src o.cls
    flits := (f.flits.filter fun x => !(gone x.src x.cls && x.kind == .continuation)).map fun x =>
      if gone x.src x.cls && x.kind == .request then x.voided else x
    rxq := f.rxq.filter fun r => !gone r.src r.cls
    dstCh := f.dstCh.map fun c => match f.rxq.find? fun r => gone r.src r.cls && !r.left.isEmpty && decide (r.src = c.src ∧ r.dst = c.dst ∧ r.epoch = c.epoch) with
      | some r => { c with expect := r.seq + 1 }
      | none => c }

/-- The OWN of every chamber of a context. -/
def Context.owns (c : Context) : Nat := (c.chambers.map (·.own)).sum

/-- Reload a partition from its boundary areas (R471 step 4), its charge with the OWNs (R437, R438); TLB entries stay removed. -/
def State.reload (s : State) (p : Nat) (q : Partition) (b : Boundary) : State :=
  let mine (c : CoreName) : Bool := q.dies.contains (dieOf c)
  let xs := (s.work.ctxs.filter fun c => decide (c.part = p)).map (·.ctx)
  let saved := b.cores.map fun (e : CoreName × Core) => (e.1, e.2.reloaded)
  let fab := s.fabricLeft q
  let own := s.homes.registry.filter fun e => !s.inDies q e.owner
  let s : State := { s with
    cores := (s.cores.filter fun e => !mine e.1) ++ saved.filter fun e => e.1 != s.cur
    core := if mine s.cur then (assocGet s.cur saved).getD (.reset s.cur) else s.core
    services := (s.services.filter fun v => !mine v.core) ++ b.services
    basins := (s.basins.filter fun x => !xs.contains x.ctx) ++ b.basins
    fab := { fab with
      flits := fab.flits ++ b.fab.flits, srcCh := fab.srcCh ++ b.fab.srcCh, dstCh := fab.dstCh ++ b.fab.dstCh
      outst := fab.outst ++ b.fab.outst, rxq := fab.rxq ++ b.fab.rxq, installs := fab.installs ++ b.fab.installs }
    homes := { s.homes with
      registry := own, migrations := (s.homes.migrations.filter (·.part != p)) ++ b.migrations } }
  let s := s.modReserve fun r => { r with extents := (r.extents.filter fun e => !xs.contains e.ctx) ++ b.extents }
  let s : State := b.govs.foldl (fun (s : State) g => if h : g.1 < 16 then { s with govs := s.govs.set g.1 g.2 h } else s) s
  let back (c : Context) : Context := (b.ctxs.find? (·.ctx == c.ctx)).getD c
  let ours := s.work.ctxs.filter fun c => decide (c.part = p)
  let s := s.modPart p fun q => { q with
    charged := q.charged + (ours.map fun c => (back c).owns).sum - (ours.map Context.owns).sum }
  s.modWork fun w => { w with
    ctxs := w.ctxs.map fun c => if c.part = p then back c else c
    pushes := (w.pushes.filter fun x => !mine x.core) ++ b.work.1
    restarts := (w.restarts.filter fun x => !mine x.core) ++ b.work.2.1
    heads := (w.heads.filter fun x => !mine x.2.2) ++ b.heads
    gangs := (w.gangs.filter fun g => !mine g.home) ++ b.work.2.2 }

/-- Roll partition `p` back to its last boundary (R471 steps 2 to 6). Contexts launched since the boundary, and those with
checkpointing disabled, fail. -/
def State.rollBack (s : State) (p : Nat) (q : Partition) (b : Boundary) : State :=
  let n := s.receivedSum q - b.received
  let s := ((s.undoWrites p).restoreSram q b).reload p q b
  let fails := s.work.ctxs.filter fun c => decide (c.part = p) && (decide (c.ckpt = 0) || !(b.ctxs.any (·.ctx == c.ctx)))
  let s := fails.foldl (fun s c => s.failAt c.ctx 1 0x0E 4 ⟨0xFFFF, 0, 0, 0⟩) s
  let s := s.announce 20 ⟨15, 0, 0xFFFF, 0, 0, 0, BitVec.ofNat 32 n⟩
  s.modPart p fun q => { q with stopped := false, bound := false }

/-- The diagnosis of rung 4 that concerns partition `p` (R471). -/
def State.rungFour (s : State) (p : Nat) : Option Rec :=
  s.mgmt.passed.find? fun d => diagClass d == 9 && decide (s.partOf (diagDie d) = some p)

/-- GANG_ROLLBACK (R471, R481): on a passing diagnosis of class 9 or an error under R72, never during a recovery sequence. Without
a completed boundary the contexts concerned fail (R478). -/
def execGangRollback (p : Nat) (s : State) : Host.Outcome State Fault Refusal :=
  match s.part p, if s.mgmt.recov.isEmpty then s.rungFour p else none with
  | some q, some d =>
    let s := (s.consume d).gangStop p
    match s.mgmt.bounds.find? (·.part == p) with
    | some b => .next (s.rollBack p q b)
    | none => .next ((s.failContexts (fun c => decide (c.part = p)) 4 false).gangResume p)
  | _, _ => .next s

/-! ## The end of a recovery (R473 steps 7 to 9, R478) -/

/-- REBUILD_COMPLETE (R473): the shards on logical die `die` are rebuilt, LOST clears, the entry goes live, the gang stops resume and
the census chambers re-execute; after the loss of a memory gateway a boundary is taken (R478). -/
def execRebuildComplete (die : Nat) (s : State) : Host.Outcome State Fault Refusal :=
  match s.mgmt.recov.find? (·.die == die) with
  | none => .next s
  | some r =>
    let rs := s.stripes.filter fun g => g.lost != 0
    let s := rs.foldl (fun s g => (s.rebuildRegion g).clearLost g.rid) s
    let s := (s.setSt die 0).quiesceEvent die
    let s := s.modMgmt fun m => { m with recov := m.recov.filter (·.die != die) }
    let s := r.parts.foldl State.gangResume (s.recovering false)
    let s := r.chambers.foldl (fun s c =>
      if (s.chamber c.1 c.2.1).any fun h => h.isOpen && h.cst != 4 then s.ascend c.1 c.2.1 0x15 5 ⟨c.2.2, 0, 0, 0⟩ else s) s
    .next (if 16 ≤ die then r.parts.foldl State.boundaryStep s else s)

/-! ## Gateways and packages (R477, R478) -/

/-- GATEWAY_LOSS (R478): logical memory gateway `die` is lost: on a passing diagnosis of class 11 the gateway of the same place on the
standby package of lowest PKG takes its number. -/
def execGatewayLoss (die : Nat) (s : State) : Host.Outcome State Fault Refusal :=
  match if 16 ≤ die ∧ die < 20 ∧ s.mayRecover die then s.diagnosisFor 11 die else none with
  | none => .next s
  | some d =>
    let parts := s.partsOf die
    let s := ((s.consume d).recovering true).fence die
    let there (a : Nat) : Bool := decide (addrPkg a = s.mgmt.domain.pkg.toNat ∧ addrDie a = die)
    let s := s.modMgmt fun m => { m with bounds := m.bounds.filter fun b => !parts.contains b.part }
    let s := s.modHomes fun h => { h with undo := h.undo.filter fun u => !there (128 * u.line) }
    match s.mgmt.domain.standby with
    | q :: l =>
      let low := l.foldl Nat.min q
      let phys := bits (s.mapEntry die) 0 5
      let s := s.failContexts (fun c => s.hasFrame c there) 6 false
      let s := s.replaceDie die (0xE0000000#32 ||| (BitVec.ofNat 32 (low % 1024) <<< 5) ||| phys.setWidth 32)
      .next (s.modMgmt fun m => { m with recov := [⟨die, parts, []⟩] })
    | [] =>
      let s := s.failContexts (fun c => s.hasFrame c there || s.hasShard c there) 6 false
      .next ((parts.foldl State.gangResume (s.clearDie die)).recovering false)

/-- PACKAGE_LOSS (R477): the domain has found package `pkg` lost: the standby package of lowest PKG takes its number, code groups
across packages are rebuilt, and the contexts with uncoded frames there fail; without a standby package, all that have any. -/
def execPackageLoss (pkg : Nat) (s : State) : Host.Outcome State Fault Refusal :=
  if pkg = s.mgmt.domain.pkg.toNat ∨ s.mgmt.domain.packages ≤ pkg then .next s
  else
    let there (a : Nat) : Bool := decide (addrPkg a = pkg)
    match s.mgmt.domain.standby with
    | q :: l =>
      let low := l.foldl Nat.min q
      let s := s.modMgmt fun m => { m with domain := { m.domain with standby := (q :: l).filter (· != low) } }
      let s := s.failContexts (fun c => s.hasFrame c there) 6 true
      let mark (r : Region) : Region := r.withLost ((List.range 6).foldl (fun b k => if there (r.base k) then setBit b k true else b) r.lost)
      let s : State := { s with stripes := s.stripes.map mark }
      .next ((s.stripes.filter fun r => r.shards.any there).foldl (fun s r => (s.rebuildRegion r).clearLost r.rid) s)
    | [] => .next (s.failContexts (fun c => s.hasFrame c there || s.hasShard c there) 6 true)

end Sys2Proof.Machine
end

