-- ==== Sys2Proof/Machine/Mailbox.lean ====
section
/-! DEFINITION. Mailbox requests (R464 to R466, R479, R480, R493) and the governor's budget (R30). -/

namespace Sys2Proof.Machine

/-! ## The request ring (R464, R465) -/

/-- The request that the ring of mailbox `n` holds next, with the number of its line. -/
def State.requestIn (s : State) (n : Nat) : Option (List Byte × Nat) :=
  let ring := s.mailbox n + 0x1000
  let head := readNat s.mem ring 8
  if head = readNat s.mem (ring + 8) 8 then none
  else
    let a := ring + 64 * (1 + head % 63)
    some (readBytes s.mem a 64, a / 64)

/-- The mailbox is served: by its own service processor or the survivor, out of boot, and in no recovery sequence (R465, R467,
R481). -/
def State.serves (s : State) (n : Nat) : Bool :=
  decide (n < 2) && s.mgmt.recov.isEmpty && !s.mgmt.reserve.stop &&
    decide ((s.sp (if (s.sp n).lost then 1 - n else n)).state ≠ 0)

/-- Argument A`i`. -/
def reqArg (e : List Byte) (i : Nat) : Word := BitVec.ofNat 64 (field e (8 + 8 * i) 8)
/-- The requester's CTX. -/
def reqCtx (e : List Byte) : BitVec 16 := BitVec.ofNat 16 (field e 4 2)

/-- The arguments of OPs 3, 6 and 8 lie in the ranges that R465's table gives. -/
def reqRange (e : List Byte) : Bool :=
  match field e 0 1 with
  | 3 => decide ((reqArg e 0).toNat ≤ 1000)
  | 6 => decide ((reqArg e 1).toNat ≤ 1)
  | 8 => decide ((reqArg e 0).toNat < 16 ∧ 256 ≤ (reqArg e 1).toNat ∧ (reqArg e 1).toNat ≤ 1024)
  | _ => true

/-- The request checks: its CRC, its zero bytes, an OP that is assigned, arguments in range (R465, R493). -/
def reqForm (e : List Byte) : Bool :=
  field e 60 4 == (crc32c (e.take 60)).toNat && field e 1 1 == 0 && field e 6 2 == 0 && field e 56 4 == 0 &&
    [1, 2, 3, 4, 5, 6, 7, 8, 10].contains (field e 0 1) && reqRange e

/-- What the requester is: the host's privileged window or firmware, or a context of LPM 1, or neither (R466). -/
inductive Requester
  | anyCtx
  | own (x : BitVec 16)
  | nobody
  deriving DecidableEq, Repr

/-- Who wrote a line of a mailbox. -/
def State.requester (s : State) (line : Nat) : Requester :=
  match assocGet line s.mgmt.writers with
  | none => .anyCtx
  | some x =>
    match (s.findCtx x).map (·.lpm) with
    | some 2 => .anyCtx
    | some 1 => .own x
    | _ => .nobody

/-- The requester may act for context `x` (R466). -/
def Requester.actsFor (q : Requester) (x : BitVec 16) : Bool :=
  match q with
  | .anyCtx => true
  | .own y => x == y
  | .nobody => false

/-- The request is permitted (R466). -/
def Requester.permits (q : Requester) (e : List Byte) : Bool :=
  match q with
  | .anyCtx => true
  | .own x => reqCtx e == x && !([4, 5, 6, 7, 8].contains (field e 0 1))
  | .nobody => false

/-- Answer the next request of mailbox `n` (R465, R494; the nanosecond count is free: log 2). -/
def State.respond (s : State) (n : Nat) (e : List Byte) (status : Nat) (result : Word) : State :=
  let (t, s) := s.free
  let r := withCrc ([BitVec.ofNat 8 (field e 0 1), BitVec.ofNat 8 status] ++ ((e.drop 2).take 2) ++ toBytes 4 0 ++
    toBytes 8 result.toNat ++ List.replicate 32 0 ++ toBytes 8 t.toNat ++ toBytes 4 0)
  let ring := s.mailbox n + 0x1000
  (s.ringPush (s.mailbox n + 0x2000) 63 r).write ring (toBytes 8 (readNat s.mem ring 8 + 1))

/-- What a request does: its status, result, and the state after it. -/
abbrev Served := Nat × Word × State

/-- Serve the next request of mailbox `n` if it is well formed and of this OP (R465): STATUS 2 where it is not permitted. -/
def State.serveOp (s : State) (n op : Nat) (which : List Byte → Bool) (f : Requester → List Byte → Served) :
    Host.Outcome State Fault Refusal :=
  match if s.serves n then s.requestIn n else none with
  | none => .next s
  | some (e, line) =>
    if reqForm e = false ∨ field e 0 1 ≠ op ∨ which e = false then .next s
    else
      let q := s.requester line
      if q.permits e = false then .next (s.respond n e 2 0)
      else
        let x := f q e
        .next (x.2.2.respond n e x.1 x.2.1)

/-- Done, with the state given. -/
def servedOk (s : State) : Served := (0, 0, s)
/-- Refused: STATUS 3. -/
def servedNot (s : State) : Served := (3, 0, s)

/-- MAILBOX_REQUEST_MALFORMED (R465): STATUS 1. -/
def execMailboxRequestMalformed (sp : Nat) (s : State) : Host.Outcome State Fault Refusal :=
  match if s.serves sp then s.requestIn sp else none with
  | some (e, _) => if reqForm e then .next s else .next (s.respond sp e 1 0)
  | none => .next s

/-! ## Stripe regions (R320, R466) -/

/-- The pages of local SRAM that a range covers, with their core; none elsewhere. -/
def State.pagesUnder (s : State) (a n : Nat) : Option (CoreName × List Nat) :=
  match s.place a with
  | .sram c => some (c, (List.range ((addrOff a % 4096 + n + 4095) / 4096)).map (addrOff a / 4096 + ·))
  | _ => none

/-- Roles of the pages of an array: with STANDING they must be free, else not scratch or stash (R320, R466). -/
def State.pagesAllow (s : State) (a n : Nat) (standing : Bool) : Bool :=
  match s.pagesUnder a n with
  | some (c, ps) => ps.all fun p => ((s.getCore c).mem.pages.toList[p]?).any fun x =>
      if standing then x.role == .free else x.role != .scratch && x.role != .stash
  | none => true

/-- An array lies in one unit that exists (R303, R320). -/
def State.arrayOk (s : State) (a n : Nat) : Bool :=
  let pl := s.place a
  a % 256 == 0 && (match pl with
    | .sram _ => true
    | .memory => true
    | .persist => true
    | .host => true
    | _ => false) && s.place (a + n - 1) == pl && a / 2 ^ 41 == (a + n - 1) / 2 ^ 41

/-- The installation is refused (R320, R466). -/
def State.regionRefused (s : State) (bases : List Nat) (ngrp : Nat) (standing : Bool) : Bool :=
  let n := 256 * ngrp
  let pairs := (List.range 6).flatMap fun i => (List.range i).map fun j => ((bases[i]?).getD 0, (bases[j]?).getD 0)
  decide (ngrp = 0 ∨ 2 ^ 24 < ngrp) || bases.any (fun a => !s.arrayOk a n) ||
    pairs.any (fun p => decide (p.1 < p.2 + n ∧ p.2 < p.1 + n)) ||
    bases.any (fun a => decide ((bases.filter fun b => b / 2 ^ 49 == a / 2 ^ 49).length > 2)) ||
    bases.any fun a => !s.pagesAllow a n standing

/-- Install a region for context `x` (R465 OP 1). -/
def State.installRegion (s : State) (x : BitVec 16) (desc : Nat) (standing : Bool) : Served :=
  match s.place desc with
  | .hole => (1, 0, s)
  | _ =>
    let d := s.currents desc 64
    let bases := (List.range 6).map fun k => field d (8 * k) 8
    let ngrp := field d 48 8
    match (List.range 64).find? fun i => s.stripes.all fun r => r.rid != i with
    | none => servedNot s
    | some rid =>
      if s.regionRefused bases ngrp standing then servedNot s
      else
        let r : Region := Region.withLost ⟨rid, x, ngrp, bases, 0, standing, 0⟩ 0
        let s := s.standRegion r none
        (0, BitVec.ofNat 64 rid, { s with stripes := s.stripes ++ [r] })

/-- Remove a region; its standing pages are free again (R466). -/
def State.removeRegion (s : State) (r : Region) : State :=
  let s := if r.standing then r.shards.foldl (fun s b =>
    match s.pagesUnder b (256 * r.ngrp) with
    | some (c, ps) => ps.foldl (fun s p => s.modCore c fun k => k.setPage p ⟨.free, 0, false, false, 0⟩) s
    | none => s) s else s
  { s with stripes := s.stripes.filter (·.rid != r.rid) }

/-- INSTALL_REGION (R465 OP 1). -/
def execInstallRegion (sp : Nat) (s : State) : Host.Outcome State Fault Refusal :=
  s.serveOp sp 1 (fun _ => true) fun _ e => s.installRegion (reqCtx e) (reqArg e 0).toNat (bit (reqArg e 1) 0)

/-- REMOVE_REGION (R465 OP 2). -/
def execRemoveRegion (sp : Nat) (s : State) : Host.Outcome State Fault Refusal :=
  s.serveOp sp 2 (fun _ => true) fun q e =>
    match s.region (reqArg e 0).toNat with
    | none => servedNot s
    | some r => if q.actsFor r.ctx then servedOk (s.removeRegion r) else (2, 0, s)

/-! ## Checkpoints and budgets -/

/-- The smallest interval of a partition's enabled contexts, 0 without one (R468). -/
def State.interval (s : State) (p : Nat) : Nat :=
  match (s.work.ctxs.filter fun c => decide (c.part = p ∧ c.ckpt ≠ 0)).map (·.ckpt) with
  | [] => 0
  | a :: l => l.foldl Nat.min a

/-- SET_CHECKPOINT_INTERVAL (R465 OP 3, R468). -/
def execSetCheckpointInterval (sp : Nat) (s : State) : Host.Outcome State Fault Refusal :=
  s.serveOp sp 3 (fun _ => true) fun _ e =>
    match s.findCtx (reqCtx e) with
    | none => servedNot s
    | some c =>
      let s := s.modCtx c.ctx fun c => { c with ckpt := (reqArg e 0).toNat }
      (0, BitVec.ofNat 64 (s.interval c.part), s)

/-- Set a die's budget (R30): 256 to 1,024 units. -/
def State.setBudget (s : State) (die units : Nat) : Option State :=
  if h : die < 16 then
    if 256 ≤ units ∧ units ≤ 1024 then some { s with govs := s.govs.set die { s.govs[die] with budget := units } h } else none
  else none

/-- SET_GOVERNOR_BUDGET (R30): the service processors set a budget from thermal and supply readings. -/
def execSetGovernorBudget (die units : Nat) (s : State) : Host.Outcome State Fault Refusal := .next ((s.setBudget die units).getD s)

/-- SET_BUDGET_REQUEST (R465 OP 8). -/
def execSetBudgetRequest (sp : Nat) (s : State) : Host.Outcome State Fault Refusal :=
  s.serveOp sp 8 (fun _ => true) fun _ e =>
    match s.setBudget (reqArg e 0).toNat (reqArg e 1).toNat with
    | some t => servedOk t
    | none => servedNot s

/-! ## Debugger (R479, R480) -/

/-- HOLD_PARTITION (R479, R465 OP 4). -/
def execHoldPartition (sp : Nat) (s : State) : Host.Outcome State Fault Refusal :=
  s.serveOp sp 4 (fun _ => true) fun _ e =>
    match s.partOf (reqArg e 0).toNat with
    | some p => servedOk (s.modPart p fun q => { q with held := true })
    | none => servedNot s

/-- A die that was halted goes on: its cores, and the messages that its dispatchers held (R301, R479). -/
def State.resumeDie (s : State) (p die : Nat) : State :=
  let s := s.modPart p fun q => { q with halted := q.halted.filter (· != die) }
  let s := if (s.part p).any (·.stopped) then s
    else (s.knownCores.filter fun c => dieOf c == die).foldl (fun s c => s.modCore c Core.unstop) s
  s.dispatchHeld die

/-- A task held at a breakpoint returns from the resident handler, at its context's privilege `pm` (R151, R180). -/
def Core.releaseBreak (k : Core) (pm : Nat) : Core :=
  let put (x : Word) : Word := setBits x 4 (BitVec.ofNat 2 pm)
  if k.ctl.run = .broken then
    { k with
      thr := if k.ctl.stopped then k.thr else { k.thr with kstatus := put k.thr.kstatus }
      ctl := { k.ctl with run := .task, shadow := k.ctl.shadow.map fun x => { x with kstatus := put x.kstatus } } }
  else k

/-- The debugger releases a partition: halted dies go on, and tasks stopped at a breakpoint (R180, R479). -/
def State.releasePart (s : State) (p : Nat) : State :=
  let s := ((s.part p).elim [] (·.halted)).foldl (fun s d => s.resumeDie p d) s
  let s := s.modPart p fun q => { q with held := false }
  (s.knownCores.filter fun c => s.partOf (dieOf c) == some p).foldl (fun s c =>
    let pm := (((s.getCore c).ctl.task).bind fun t => s.findCtx t.ctx).elim 0 (·.lpm)
    s.modCore c fun k => k.releaseBreak pm) s

/-- RELEASE_PARTITION (R465 OP 5). -/
def execReleasePartition (sp : Nat) (s : State) : Host.Outcome State Fault Refusal :=
  s.serveOp sp 5 (fun _ => true) fun _ e =>
    match s.partOf (reqArg e 0).toNat with
    | some p => if (s.part p).any (·.held) then servedOk (s.releasePart p) else servedNot s
    | none => servedNot s

/-- The held partition that a die belongs to. -/
def State.heldPart (s : State) (die : Nat) : Option Nat := (s.partOf die).filter fun p => (s.part p).any (·.held)

/-- HALT_DIE (R479, R465 OP 6 with A1 = 0): every core of the die stops as for a gang stop. -/
def execHaltDie (sp : Nat) (s : State) : Host.Outcome State Fault Refusal :=
  s.serveOp sp 6 (fun e => reqArg e 1 == 0) fun _ e =>
    let die := (reqArg e 0).toNat
    match s.heldPart die with
    | some p =>
      if (s.part p).any fun q => q.halted.contains die then servedOk s
      else
        let s := (s.knownCores.filter fun c => dieOf c == die).foldl (fun s c =>
          if (s.getCore c).ctl.stopped then s else s.stopHere c) s
        servedOk (s.modPart p fun q => { q with halted := die :: q.halted })
    | none => servedNot s

/-- RESUME_DIE (R465 OP 6 with A1 = 1). -/
def execResumeDie (sp : Nat) (s : State) : Host.Outcome State Fault Refusal :=
  s.serveOp sp 6 (fun e => reqArg e 1 == 1) fun _ e =>
    let die := (reqArg e 0).toNat
    match (s.heldPart die).filter fun p => (s.part p).any fun q => q.halted.contains die with
    | some p => servedOk (s.resumeDie p die)
    | none => servedNot s

/-- The core's sequencers after a restart (R480). -/
def Core.restart (k : Core) : Core :=
  { k with
    thr := .reset
    ctl := { k.ctl with run := .idle, shadow := none, stopped := false, due := .reset, idx := Vector.replicate 4 0 }
    vs := .reset, ms := .reset }

/-- RESTART_CORE (R480, R465 OP 7): a task still present ends as a program fault of its chamber with cause SWT. -/
def execRestartCore (sp : Nat) (s : State) : Host.Outcome State Fault Refusal :=
  s.serveOp sp 7 (fun _ => true) fun _ e =>
    let c : CoreName := (reqArg e 0).setWidth 16
    if bits (reqArg e 0) 16 48 ≠ 0 ∨ isCore c = false ∨ (s.getCore c).ctl.run ≠ .halted then servedNot s
    else
      let s := match (s.getCore c).ctl.task with
        | some t => s.failChamber t.ctx t.cid 0x17 (s.who c .control)
        | none => s
      servedOk ((s.dropRoutine c).modCore c Core.restart)

/-! ## Attestation (R493) -/

/-- ATTESTATION (R493, OP 10): nonce, measurements, map generation, boundary sequence, signature and certificate. -/
def execAttestation (sp : Nat) (s : State) : Host.Outcome State Fault Refusal :=
  s.serveOp sp 10 (fun _ => true) fun _ e =>
    let a := (reqArg e 4).toNat
    let ok (b : Nat) : Bool := match s.place b with
      | .memory => true
      | .sram _ => true
      | .persist => true
      | _ => false
    if !(ok a && ok (a + 16383)) then servedNot s
    else
      let seq := (s.work.parts.map (·.bseq)).foldl max 0
      let items := ((e.drop 8).take 32) ++ toBytes 32 (s.sp 0).measure.toNat ++ toBytes 32 (s.sp 1).measure.toNat ++
        [s.dies[0].gen] ++ toBytes 8 seq
      let bs := (items ++ Config.attest items).take 16384
      (0, BitVec.ofNat 64 bs.length, s.deviceWrite a bs)

end Sys2Proof.Machine
end

