-- ==== Sys2Proof/Machine/Launching.lean ====
section
/-! DEFINITION. The launch window: launches (R58 to R62, R485, R486), the end of a context (R234, R487), other writes (R483,
R485). -/

namespace Sys2Proof.Machine

/-- Change the launch window. -/
def State.modWin (s : State) (f : Window → Window) : State := s.modMgmt fun m => { m with win := f m.win }

/-! ## The checks (R59 to R61) -/

/-- The `n` bytes from `a`, if none lies at a hole or in an uncorrectable line (R59). -/
def State.launchBytes (s : State) (a n : Nat) : Option (List Byte) :=
  let hole := s.place (a + n - 1) = .hole || (List.range ((n + 63) / 64)).any fun i => s.place (a + 64 * i) = .hole
  if hole || s.unreadable a n then none else some (s.currents a n)

/-- LREC, LCNT, LMODE, LPM and LDPL of a launch record (R52). -/
def launchRecs (bs : List Byte) : Nat := field bs 0x88 8
/-- LCNT. -/
def launchCount (bs : List Byte) : Nat := field bs 0x90 4
/-- LMODE. -/
def launchMode (bs : List Byte) : Nat := field bs 0x94 1
/-- LPM. -/
def launchPm (bs : List Byte) : Nat := field bs 0x95 1
/-- LRST. -/
def launchRestart (bs : List Byte) : Bool := field bs 0x96 1 % 2 == 1
/-- LDPL. -/
def launchPlaces (bs : List Byte) : Nat := field bs 0x98 8

/-- The initial records that are read: 4,096 at most, none where one cannot be read. -/
def State.initialRecords (s : State) (bs : List Byte) : Option (List Rec) :=
  if launchCount bs = 0 ∨ launchCount bs > 4096 then some []
  else (s.launchBytes (launchRecs bs) (64 * launchCount bs)).map fun l =>
    (List.range (launchCount bs)).map fun n => recOf ((l.drop (64 * n)).take 64)

/-- The core names of the placement list, none where it cannot be read (R61). -/
def State.placementList (s : State) (bs : List Byte) : Option (List CoreName) :=
  (s.launchBytes (launchPlaces bs) (2 * launchCount bs)).map fun l =>
    (List.range (launchCount bs)).map fun n => BitVec.ofNat 16 (ofBytes ((l.drop (2 * n)).take 2))

/-- A CRC over bytes 0 to 59 (R45). -/
def recCrc (r : Rec) : Bool := bits r 480 32 == crc32c ((recBytes r).take 60)

/-- The form of a launch record (R59 status 3). -/
def launchForm (bs : List Byte) (recs : List Rec) : Bool :=
  let pm := launchPm bs
  field bs 0 8 == 0 && field bs 0x0A 2 == 0x3F && field bs 0x10 4 != 0 && field bs 0x14 4 != 0 && decide (field bs 0x0C 1 ≤ 15) &&
    decide (1 ≤ launchCount bs ∧ launchCount bs ≤ 4096) && decide (launchMode bs ≤ 1) && decide (pm ≤ 2) &&
    (pm == 0 || launchMode bs == 1) && field bs 0x80 8 != 0 && decide (field bs 0x0D 1 < 2) && decide (field bs 0x96 2 < 2) &&
    rcbReserved bs && recs.all fun r => recForm r && recCid r == 1

/-- The feature mask is allowed in partition `p` (R60). -/
def State.launchFeat (s : State) (p : Nat) (bs : List Byte) (names : Option (List CoreName)) : Bool :=
  let feat : BitVec 128 := BitVec.ofNat 128 (field bs 0x70 16)
  if launchPm bs = 0 then !(s.workersFor p feat).isEmpty
  else (launchPm bs == 2 || !bit feat 5) &&
    (names.getD []).all fun c => (feat &&& ~~~((coreGroups c).setWidth 128)) == 0

/-- The root's MSAVE fits in the free must-save share of partition `p` (R59 status 5). -/
def State.launchSave (s : State) (p : Nat) (bs : List Byte) : Bool :=
  (s.part p).any fun q => decide (field bs 0x20 8 ≤ 4096 * (q.share - q.charged))

/-- The placement is allowed in partition `p` (R61). -/
def State.launchPlace (s : State) (p : Nat) (bs : List Byte) (names : Option (List CoreName)) : Bool :=
  launchMode bs == 0 || names.any fun l => l.all fun c =>
    bits c 13 3 == 0 && (s.partCores p).contains c && (isWorker c || (launchPm bs == 2 && isService c))

/-- The window allows the privilege (R58). -/
def launchPrivilege (w : LaunchWindow) (bs : List Byte) : Bool :=
  launchPm bs == 0 || (launchPm bs == 1 && w == .privileged) || (launchPm bs == 2 && w == .sp)

/-- The first check of R59 that fails, 0 where none does: of the launch record `bs` and partition `p`. -/
def State.launchStatus (s : State) (w : LaunchWindow) (p : Nat) (bs : List Byte) : Nat :=
  let names := if launchMode bs = 1 then s.placementList bs else none
  match s.initialRecords bs with
  | none => if field bs 8 2 = 0x0100 then 2 else 1
  | some recs =>
    if field bs 8 2 ≠ 0x0100 then 1
    else if rcbCrc bs = false ∨ recs.all recCrc = false then 2
    else if launchForm bs recs = false then 3
    else if s.launchFeat p bs names = false then 4
    else if s.launchSave p bs = false then 5
    else if s.launchPlace p bs names = false then 6
    else if launchPrivilege w bs = false then 7
    else 0

/-! ## Acceptance (R62, R439) -/

/-- The partition that a launch goes to (log 8). -/
def launchPart : Nat := 0

/-- A context number from `x` on that is in no use (R153), 0 left out: `used` are those in use. -/
def freeCtx (used : List (BitVec 16)) : Nat → BitVec 16 → BitVec 16
  | 0, x => x
  | n + 1, x => if x = 0 ∨ used.contains x then freeCtx used n (x + 1) else x

/-- The number of the next context: an ending one keeps its own (R487). -/
def State.newCtx (s : State) : BitVec 16 :=
  let used := s.work.ctxs.map (·.ctx) ++ s.mgmt.win.waiting.map (·.ctx)
  freeCtx used (used.length + 1) s.work.nextCtx

/-- The context of an accepted launch record at `a`; checkpointing at 20 ms (R41, R468). -/
def launchedContext (x : BitVec 16) (a part : Nat) (bs : List Byte) : Context :=
  ⟨x, a, launchPm bs, launchMode bs, launchCount bs, launchRecs bs, launchPlaces bs, BitVec.ofNat 128 (field bs 0x70 16), 20, part,
    false, 2, [chamberOf bs a 1 0]⟩

/-- The loader declares the must-save extents of the image for the root (R439): none where one is refused. -/
def State.declareAll (s : State) (x : BitVec 16) (restart : Bool) : List (Word × Nat × Nat) → Option State
  | [] => some s
  | (va, pa, n) :: l =>
    let sound := decide (va.toNat % 4096 = 0 ∧ n ≠ 0 ∧ n % 4096 = 0 ∧ n ≤ 2 ^ 28) &&
      s.place pa == .memory && s.place (pa + n - 1) == .memory
    match if sound then (s.findCtx x).bind fun c => s.declare c 1 va pa n va restart else none with
    | some (w, t) => if bit w 63 then none else t.declareAll x restart l
    | none => none

/-- The window after a launch with this status (R485). -/
def State.launched (s : State) (w : LaunchWindow) (status : Nat) : State :=
  s.modWin fun x => { x with status := BitVec.ofNat 8 status, priv := w != .own }

/-- Steps 1 to 3 of R62 for a record whose checks have passed; status 5 where the loader's declarations fail. -/
def State.startContext (s : State) (w : LaunchWindow) (a part : Nat) (bs : List Byte) (saves : List (Word × Nat × Nat)) : State :=
  let x := s.newCtx
  let t := s.modWork fun k => { k with ctxs := k.ctxs ++ [launchedContext x a part bs], nextCtx := x + 1 }
  match (t.modChamber x 1 id).declareAll x (launchRestart bs) saves with
  | none => s.launched w 5
  | some t =>
    let t := (t.launched w 0).modWin fun k => { k with ctx := x }
    (t.findCtx x).elim t fun c => t.pushInitial c false

/-- The launch whose record is at `lrec`, once its checks of R59 are made: refused with a status, or accepted. -/
def State.checkLaunch (s : State) (w : LaunchWindow) (lrec : Word) (saves : List (Word × Nat × Nat)) : State :=
  if lrec.toNat % 256 ≠ 0 then s.launched w 3
  else
    match s.launchBytes lrec.toNat 256 with
    | none => s.launched w 2
    | some bs =>
      let st := s.launchStatus w launchPart bs
      if st ≠ 0 then s.launched w st else s.startContext w lrec.toNat launchPart bs saves

/-- LAUNCH (R58 to R62, R485, R486): a write of `bytes` bytes to LREC, dropped while BUSY; later its checks end and BUSY clears. -/
def execLaunch (step : LaunchStep) (s : State) : Host.Outcome State Fault Refusal :=
  match step with
  | .write window lrec bytes saves =>
    if s.serving = false then .next s
    else if bytes ≠ 8 ∨ s.mgmt.win.busy.isSome then .next (s.modWin fun w => { w with drop := w.drop + 1 })
    else .next (s.modWin fun w => { w with busy := some (window, lrec, saves) })
  | .checked =>
    match s.mgmt.win.busy with
    | some (window, lrec, saves) => .next ((s.modWin fun w => { w with busy := Option.none }).checkLaunch window lrec saves)
    | none => .next s

/-! ## The end of a context (R234, R487) -/

/-- The entry of an ended context (R487). -/
def CtxEnd.entry (e : CtxEnd) : Rec :=
  recOf (withCrc (toBytes 8 e.lrec ++ toBytes 2 e.ctx.toNat ++ [e.how, 0] ++ toBytes 4 e.reex ++ List.replicate 44 0))

/-- The context-end ring has room (R487). -/
def Window.room (w : Window) : Bool := decide ((w.tail - w.head).toNat < 31)

/-- Write an ended context's entry; its root's OWN returns to the share (R487). -/
def State.writeEnd (s : State) (e : CtxEnd) : State :=
  (s.modWin fun w => { w with ring := assocSet (w.tail.toNat % 31) e.entry w.ring, tail := w.tail + 1 }).modPart e.part fun p =>
    { p with charged := p.charged - e.own }

/-- Write the ends that wait, in order, while the ring has room. -/
def State.writeEnds (s : State) : List CtxEnd → State
  | [] => s.modWin fun w => { w with waiting := [] }
  | e :: l => if s.mgmt.win.room then (s.writeEnd e).writeEnds l else s.modWin fun w => { w with waiting := e :: l }

/-- Nothing of the context lives, waits to be pushed, or is to re-execute after a recovery (R234, R473). -/
def State.ended (s : State) (c : Context) : Bool :=
  c.chambers.all (fun h => h.live == 0) && !(s.work.pushes.any fun p => p.slot.ctx == c.ctx) &&
    (c.chambers.all fun h => h.cst != 3) && s.mgmt.recov.all fun r => r.chambers.all fun x => x.1 != c.ctx

/-- Remove every TLB entry of a context (R398). -/
def State.dropTlb (s : State) (x : BitVec 16) : State :=
  let keep (k : Core) : Core := k.modMem fun m => { m with tlb := m.tlb.filter fun e => e.ctx != x }
  { s with
    core := keep s.core
    cores := s.cores.map fun (e : CoreName × Core) => (e.1, keep e.2)
    services := s.services.map fun v => { v with tlb := v.tlb.filter fun e => e.ctx != x } }

/-- How a context ended (R487). -/
def Context.how (c : Context) : Byte := if c.lost then 2 else if (c.chamber 1).any (·.cst == 4) then 1 else 0

/-- A context ends (R234, R287, R320, R331, R398, R487): every chamber closes, deepest first, and what it held goes. -/
def State.endContext (s : State) (c : Context) : State :=
  let root := c.chamber 1
  let e : CtxEnd := ⟨c.lrec, c.ctx, c.how, root.elim 0 (·.reex), root.elim 0 (·.own), c.part⟩
  let s := (s.closeBelow c.ctx 1).closeChamber c.ctx 1
  let s := s.dropBinds fun b => b.ctx == c.ctx
  let s := s.modFab fun f => { f with installs := f.installs.filter fun i => i.bind.ctx != c.ctx }
  let s := (s.stripes.filter fun r => r.ctx == c.ctx).foldl State.removeRegion s
  let s := (s.endExtents fun x => x.ctx == c.ctx).dropTlb c.ctx
  let s := s.modWork fun w => { w with ctxs := w.ctxs.filter fun d => d.ctx != c.ctx }
  s.writeEnds (s.mgmt.win.waiting ++ [e])

/-- CONTEXT_END (R234, R487). -/
def execContextEnd (ctx : BitVec 16) (s : State) : Host.Outcome State Fault Refusal :=
  match s.findCtx ctx with
  | some c => if s.ended c then .next (s.endContext c) else .next s
  | none => .next s

/-- CONTEXT_END_HEAD (R487): a write of EHEAD; ends that waited are written. -/
def execContextEndHead (head : Word) (s : State) : Host.Outcome State Fault Refusal :=
  let s := s.modWin fun w => { w with head := head }
  .next (s.writeEnds s.mgmt.win.waiting)

/-! ## Other writes of the host (R483, R485, R487) -/

/-- REGISTER_WRITE (R483, R485): a write of the host at an offset of BAR2. A register of the launch window takes none but LREC and
EHEAD; eight bytes at an offset of a mailbox are written there, by the host (R466). -/
def execRegisterWrite (offset : Nat) (data : Word) (s : State) : Host.Outcome State Fault Refusal :=
  let n := if 0x10000 ≤ offset ∧ offset < 0x20000 then some 0 else if 0x20000 ≤ offset ∧ offset < 0x30000 then some 1 else none
  match n with
  | some i =>
    if offset % 8 ≠ 0 then .next s
    else
      let a := s.mailbox i + offset % 0x10000
      .next ((s.write a (toBytes 8 data.toNat)).modMgmt fun m => { m with writers := m.writers.filter fun e => e.1 != a / 64 })
  | none => .next s

end Sys2Proof.Machine
end

