-- ==== Sys2Proof/Machine/Hosting.lean ====
section
/-! DEFINITION. The host's CXL.mem accesses (R149, R484), patrol scrubbing (R488), Ultra Ethernet (R490). -/

namespace Sys2Proof.Machine

/-! ## Host accesses (R149, R484) -/

/-- The owner named with die 31 (R149). -/
def State.hostUnit (s : State) : UnitName := ⟨s.mgmt.domain.pkg, 31, 0, false⟩

/-- The device address of line `line` of the HDM range (R484). -/
def State.hostAddr (s : State) (line : Nat) : Option Nat :=
  let h := 128 * line
  if h < 2 ^ 41 then
    let j := h / 2 ^ 35
    some (globalAddr s.mgmt.domain.pkg.toNat (16 + j / 16) (128 + j % 16) (h % 2 ^ 35))
  else none

/-- Do `f` for a host access to words of the line of `a`, where they stand, once no core owns any of them; till then ask the
owners for them (R141, R411, R484). -/
def State.hostServe (s : State) (a : Nat) (mask : W32) (f : State → Nat → State) : State :=
  let p := s.located a
  if s.moving a = .wait ∨ s.lostAt p then s
  else
    match (s.ownersOf (p / 128) mask).filter fun e => decide (e.owner ≠ s.hostUnit) with
    | [] => f s p
    | es => es.foldl (fun s e => s.revoke e mask true) s

/-- The host holds the line of `a` (R484): its entry takes a way of the set, which is freed first where none is (R142). -/
def State.hostHold (s : State) (a : Nat) : State :=
  let line := a / 128
  if s.homes.registry.any fun e => decide (e.owner = s.hostUnit ∧ e.line = line) then
    s.modHomes fun h => { h with registry := h.registry.map fun e =>
      if e.owner = s.hostUnit ∧ e.line = line then { e with mask := 0xFFFFFFFF#32 } else e }
  else if (s.setOf line).length ≥ 8 then
    match oldest ((s.setOf line).filter fun e => !e.rev) with
    | some v => s.revoke v 0xFFFFFFFF#32 true
    | none => s
  else
    let e : RegEntry := ⟨s.hostUnit, line, 0xFFFFFFFF#32, false, [], s.fresh⟩
    { s with fresh := s.fresh + 1, homes := { s.homes with registry := s.homes.registry ++ [e] } }

/-- Words that the host writes back: it holds them no more (R484). -/
def State.hostWrite (s : State) (a : Nat) (mask : W32) (data : List W32) : State :=
  let line := a / 128
  let ws := wbWords line mask data
  let s := if mask = 0xFFFFFFFF#32 ∧ data.length = 32 then s.write (128 * line) (data.flatMap fun x => toBytes 4 x.toNat)
    else ws.foldl (fun s w => s.write (4 * w.1) (toBytes 4 w.2.toNat)) s
  s.clearOwner s.hostUnit line mask false

/-- HOST_MEM_ACCESS (R484): one line of the HDM range. An access to a log area is answered with poison and changes nothing. -/
def execHostMemAccess (a : HostAccess) (s : State) : Host.Outcome State Fault Refusal :=
  let at_ (line : Nat) : Option Nat := (s.hostAddr line).filter fun p => s.place p == .memory
  match a with
  | .read line =>
    match at_ line with
    | some p => .next (s.hostServe p 0xFFFFFFFF#32 State.hostHold)
    | none => .next s
  | .write line mask data =>
    match at_ line with
    | some p => .next (s.hostServe p mask fun s a => s.hostWrite a mask data)
    | none => .next s

/-- A back-invalidation is outstanding no more. -/
def State.dropSnoop (s : State) (line : Nat) : State :=
  s.modHomes fun h => { h with snoops := h.snoops.filter (·.1 != line) }

/-- HOSTBI (R484): the host's answer for a line, with dirty data if it has any, serves as the revocation's (R141). -/
def execHostbi (line : Nat) (answer : Option (List W32)) (s : State) : Host.Outcome State Fault Refusal :=
  match s.homes.snoops.find? (·.1 == line) with
  | some (_, mask) => .next ((s.dropSnoop line).revoked line mask s.hostUnit 0 (answer.elim .none fun ws => .wb line mask ws))
  | none => .next s

/-- SNOOP_TIMEOUT (R484): snoop `k` is not answered within 1 ms: the host's registration of the line goes, the home keeps its
value, and a mailbox event says so. -/
def execSnoopTimeout (k : Nat) (s : State) : Host.Outcome State Fault Refusal :=
  match s.homes.snoops[k]? with
  | some (line, _) =>
    .next (((s.dropSnoop line).clearOwner s.hostUnit line 0xFFFFFFFF#32 true).notice 0 (BitVec.ofNat 64 (128 * line)) 0)
  | none => .next s

/-! ## Patrol scrubbing (R488) -/

/-- A cell of slot `n`, 0 to 7, or of bank `n - 8` of core `c` cannot be corrected: a product meets it (R366). -/
def State.spoilCell (s : State) (c : CoreName) (n : Nat) : State :=
  s.modMatOf c fun m => if n < 8 then m.setSlot n { m.slot n with bad := true } else m.setBank (n - 8) { m.bank (n - 8) with bad := true }

/-- PATROL_SCRUB (R488): one bit wrong is corrected in place, an event of class 1; an uncorrectable line takes the poison marker; a
marker that stands is never cleared. It also stands for an error of a cell of a matrix unit, for which the table has no row (log 162). -/
def execPatrolScrub (place : ScrubAt) (found : Scrubbed) (s : State) : Host.Outcome State Fault Refusal :=
  match place with
  | .cell c n => .next (if found = .uncorrectable then s.spoilCell c n else s)
  | .line line =>
    let a := 128 * line
    if s.place a ≠ .memory then .next s
    else
      match found with
      | .clean => .next s
      | .corrected => .next (s.event (addrDie a) ⟨1, 0, 0xFFFF, 0, 0, BitVec.ofNat 64 a, 0⟩)
      | .uncorrectable => .next ((s.poisonLine a).event (addrDie a) ⟨2, 0x0A, 0xFFFF, 0, 0, BitVec.ofNat 64 a, 0⟩)

/-! ## Ultra Ethernet (R490) -/

/-- The base of the send ring of port `p`, 0 to 3 on logical die 20 and 4 to 7 on die 21. -/
def State.sendRing (s : State) (p : Nat) : Nat := globalAddr s.mgmt.domain.pkg.toNat (20 + p / 4) (3 + p % 4) 0
/-- The base of its receive ring. -/
def State.receiveRing (s : State) (p : Nat) : Nat := s.sendRing p + 0x1000
/-- Where entry `n` of a ring lies (R402). -/
def ringSlot (base n : Nat) : Nat := base + 64 * (1 + n % 63)
/-- Entry `n` of a ring. -/
def State.ringEntry (s : State) (base n : Nat) : List Byte := readBytes s.mem (ringSlot base n) 64
/-- HEAD of a ring. -/
def State.ringHead (s : State) (base : Nat) : Nat := readNat s.mem base 8
/-- Entries in a ring from the `n`-th after HEAD on: one stands there. -/
def State.ringHas (s : State) (base n : Nat) : Bool := decide (n < readNat s.mem (base + 8) 8 - s.ringHead base)

/-- An entry checks (R490, R491). -/
def ueForm (e : List Byte) : Bool :=
  field e 60 4 == (crc32c (e.take 60)).toNat && decide (1 ≤ field e 16 4 ∧ field e 16 4 ≤ 2 ^ 20) && decide (field e 20 1 ≤ 1)

/-- Write an entry with fields changed, its CRC anew, and raise HEAD past it. -/
def State.endEntry (s : State) (base n : Nat) (e : List Byte) : State :=
  (s.write (ringSlot base n) (withCrc (e.take 60))).write base (toBytes 8 (n + 1))

/-- Port `p` works (R40, R490). -/
def State.uePort (s : State) (p : Nat) : Bool := decide (p < 8) && !s.mgmt.domain.fused

/-- UE_SEND (R490): port `port` takes the next entry of its send ring that it has not taken. -/
def execUeSend (port : Nat) (s : State) : Host.Outcome State Fault Refusal :=
  let base := s.sendRing port
  let taken := (s.mgmt.ue.filter (·.1 == port)).length
  let n := s.ringHead base + taken
  if s.uePort port && s.ringHas base taken && ueForm (s.ringEntry base n) then
    .next (s.modMgmt fun m => { m with ue := m.ue ++ [(port, n)] })
  else .next s

/-- UE_SEND_COMPLETION (R490): the port's oldest send ends with status 0, 0x15 or 0x0F. -/
def execUeSendCompletion (port : Nat) (status : Byte) (s : State) : Host.Outcome State Fault Refusal :=
  match if status = 0 ∨ status = 0x15 ∨ status = 0x0F then s.mgmt.ue.find? (·.1 == port) else none with
  | some (p, n) =>
    let base := s.sendRing p
    let e := s.ringEntry base n
    .next ((s.modMgmt fun m => { m with ue := m.ue.erase (p, n) }).endEntry base n (setAt 21 status e))
  | none => .next s

/-- UE_RECEIVE (R490): a message from endpoint `peer` goes into the buffer of the next entry posted in the receive ring, if it fits;
the entry takes the peer, the length and status 0. -/
def execUeReceive (port : Nat) (peer : Nat) (data : List Byte) (s : State) : Host.Outcome State Fault Refusal :=
  let base := s.receiveRing port
  let n := s.ringHead base
  let e := s.ringEntry base n
  if s.uePort port && s.ringHas base 0 && ueForm e && decide (1 ≤ data.length ∧ data.length ≤ field e 16 4) then
    let s := s.deviceWrite (field e 8 8) data
    .next (s.endEntry base n (toBytes 8 peer ++ (e.drop 8).take 8 ++ toBytes 4 data.length ++ (e.drop 20).take 1 ++ [0] ++
      (e.drop 22).take 38))
  else .next s

end Sys2Proof.Machine
end

