-- ==== Sys2Proof/Machine/Bringup.lean ====
section
/-! DEFINITION. Cold reset (R14, R459), link training (R489, R491), firmware and measurement (R492), discovery and multicast
(R495). -/

namespace Sys2Proof.Machine

/-! ## Cold reset (R14, R398, R449, R459, R494) -/

/-- What a cold reset leaves of the memory (R5, R43): the persistence store, the host's memory behind its window, and, unless the supply was
lost before it, the HBM4E and LPDDR-6 (log 114). -/
def persists (lost : Bool) (a : Nat) : Bool :=
  decide (addrDie a = 31) || (decide (addrDie a = 20 ∨ addrDie a = 21) && decide (addrUnit a = 0)) ||
    (!lost && decide (16 ≤ addrDie a ∧ addrDie a < 20))

/-- The map copy on network gateway `i`, if its CRC checks (R459). -/
def State.storedMap (s : State) (i : Nat) : Option (List Byte) :=
  let c := readBytes s.mem (s.copyAddr i) 128
  if field c 124 4 = (crc32c (c.take 124)).toNat then some c else none

/-- The die map and the generation that the reset logic loads (R14, R459); the fuses' entries name this package's own dies (log 9). -/
def State.bootMap (s : State) : Vector W32 32 × Byte :=
  match (s.storedMap 0).or (s.storedMap 1) with
  | some c => (Vector.ofFn fun n => if n.val < 22 then BitVec.ofNat 32 (field c (4 * n.val) 4) else 0, BitVec.ofNat 8 (field c 88 1))
  | none => (Vector.ofFn fun n => if n.val < 22 then setBits (fuseEntry n.val) 5 s.mgmt.domain.pkg else 0, 0)

/-- Some entry of the map names physical die `p` of package `pkg`. -/
def mapUses (m : Vector W32 32) (pkg : BitVec 10) (p : Nat) : Bool :=
  m.toList.any fun e => bit e 31 && bits e 5 10 == pkg && decide ((bits e 0 5).toNat = p)

/-- The package after cold reset. A spare that was used is none until the package is serviced (R12). -/
def State.cold (s : State) : State :=
  let map := s.bootMap
  let d := s.mgmt.domain
  let keeps := persists s.mgmt.reserve.stop
  let spare := d.spare.filter fun p => !mapUses map.1 d.pkg p
  let r := State.reset
  { r with
    fresh := s.fresh
    mem := s.mem.filter fun c => keeps c.1
    homes := { r.homes with poison := s.homes.poison.filter fun l => keeps (128 * l) }
    dies := r.dies.map fun x => { x with map := map.1, gen := map.2 }
    mgmt := { r.mgmt with
      domain := { d with spare := spare, serials := [], images := [] }
      reserve := { r.mgmt.reserve with sluices := s.mgmt.reserve.sluices } } }

/-- COLD_RESET (R14, R449, R459). -/
def execColdReset (s : State) : Host.Outcome State Fault Refusal := .next s.cold

/-! ## Links (R489, R491) -/

/-- The highest major that both sets of majors hold, bit n standing for major n (R491). -/
def commonMajor (ours theirs : Nat) : Option Nat :=
  let both := ours &&& theirs
  if both = 0 then none else some both.log2

/-- LINK_TRAINING (R489, R491): link `link` trains, 0 to 7 being the planes of the scale-up ports. One with no common major does not
come up, which the black box of its network gateway records; a plane that does not train is left out of spraying. -/
def execLinkTraining (link : Nat) (ours theirs : Nat) (s : State) : Host.Outcome State Fault Refusal :=
  let v := commonMajor ours theirs
  let s := s.modFab fun f => { f with
    trained := assocSet link v f.trained
    dead := if 8 ≤ link then f.dead else if v.isSome then f.dead.filter (· != link) else if f.dead.contains link then f.dead else link :: f.dead }
  if v.isSome then .next s else .next (s.event (planeDie link) ⟨9, 0, 0xFFFF, 0, 0, 0, BitVec.ofNat 32 link⟩)

/-! ## The domain (R32, R495) -/

/-- FIRMWARE_VERIFY (R492, R495 step 2): a verified image is measured, then started; any other is not started. -/
def execFirmwareVerify (sp : Nat) (image : List Byte) (s : State) : Host.Outcome State Fault Refusal :=
  if sp ≥ 2 ∨ (s.sp sp).started ∨ Config.imageVerifies image = false then .next s
  else
    let m := Config.sha256 (toBytes 32 (s.sp sp).measure.toNat ++ toBytes 32 (Config.sha256 image).toNat)
    .next (s.modSp sp fun p => { p with measure := m, started := true }).bringUp

/-- DISCOVERY_FLOOD (R495 step 3): a flit with a serial number comes in on a scale-up plane: the first of each is recorded with its
plane and forwarded. A package that joins after step 5 takes the lowest free index. -/
def execDiscoveryFlood (serial : Word) (plane : Nat) (s : State) : Host.Outcome State Fault Refusal :=
  if s.mgmt.domain.fused ∨ 8 ≤ plane ∨ s.fab.dead.contains plane ∨ serial = Config.serial ∨ s.found.contains serial then .next s
  else
    let s := s.modMgmt fun m => { m with domain := { m.domain with serials := m.domain.serials ++ [(serial, plane)] } }
    if s.serving then .next (s.modMgmt fun m => { m with domain := { m.domain with packages := m.domain.packages + 1 } }) else .next s

/-- IMAGE_MULTICAST (R492, R495 step 4): an image comes down the tree; it is stored, and forwarded, once it verifies. -/
def execImageMulticast (image : List Byte) (s : State) : Host.Outcome State Fault Refusal :=
  if s.mgmt.domain.fused ∨ Config.imageVerifies image = false ∨ s.mgmt.domain.images.contains image then .next s
  else .next (s.modMgmt fun m => { m with domain := { m.domain with images := m.domain.images ++ [image] } })

end Sys2Proof.Machine
end

