-- ==== Sys2Proof/Machine/Control.lean ====
section
/-! DEFINITION. Branches and jumps (R161 to R163), and their 16-bit forms (R108). -/

namespace Sys2Proof.Machine

/-- The branch retires and the sequencer goes to `target`; the fetch there checks the target (R98, R163, R173). -/
def State.jump (s : State) (target : Word) : State := s.retire.setPc target

/-- A conditional branch (R161): the offset counts from the branch's own address. -/
def State.branch (s : State) (f : Form) (c : Cond) (a b : Reg) (off : Word) : Host.Outcome State Fault Refusal :=
  run f s do
    let x ← s.src a
    let y ← s.src b
    return if c.holds x y then s.jump (s.pc + off) else s.next f.len

/-- A jump through a register (R163). -/
def State.jumpReg (s : State) (f : Form) (a : Reg) (off : Word) : Host.Outcome State Fault Refusal :=
  run f s do
    let x ← s.src a
    return s.jump (x + off)

/-- BEQ (R161). -/
def execBeq (a b : Reg) (o : BitVec 11) (s : State) : Host.Outcome State Fault Refusal := s.branch .base .eq a b (off12 o)
/-- BNE (R161). -/
def execBne (a b : Reg) (o : BitVec 11) (s : State) : Host.Outcome State Fault Refusal := s.branch .base .ne a b (off12 o)
/-- BLT (R161). -/
def execBlt (a b : Reg) (o : BitVec 11) (s : State) : Host.Outcome State Fault Refusal := s.branch .base .lt a b (off12 o)
/-- BGE (R161). -/
def execBge (a b : Reg) (o : BitVec 11) (s : State) : Host.Outcome State Fault Refusal := s.branch .base .ge a b (off12 o)
/-- BLTU (R161). -/
def execBltu (a b : Reg) (o : BitVec 11) (s : State) : Host.Outcome State Fault Refusal :=
  s.branch .base .ltu a b (off12 o)
/-- BGEU (R161). -/
def execBgeu (a b : Reg) (o : BitVec 11) (s : State) : Host.Outcome State Fault Refusal :=
  s.branch .base .geu a b (off12 o)
/-- BEQ_16 (R108): `beq ga, g0`. -/
def execBeq16 (a : Reg) (o : BitVec 6) (s : State) : Host.Outcome State Fault Refusal := s.branch .short .eq a 0 (off7 o)
/-- BNE_16 (R108): `bne ga, g0`. -/
def execBne16 (a : Reg) (o : BitVec 6) (s : State) : Host.Outcome State Fault Refusal := s.branch .short .ne a 0 (off7 o)

/-- JAL (R162): g[d] := pc + 4, then the jump. -/
def execJal (d : Reg) (o : BitVec 19) (s : State) : Host.Outcome State Fault Refusal :=
  run .base s do
    s.dst d
    return (s.setG d (s.pc + 4)).jump (s.pc + off20 o)
/-- B (R162). -/
def execB (o : BitVec 19) (s : State) : Host.Outcome State Fault Refusal := run .base s (.ok (s.jump (s.pc + off20 o)))
/-- B_16 (R108). -/
def execB16 (o : BitVec 11) (s : State) : Host.Outcome State Fault Refusal := run .short s (.ok (s.jump (s.pc + off12 o)))
/-- JR (R163). -/
def execJr (a : Reg) (i : BitVec 12) (s : State) : Host.Outcome State Fault Refusal := s.jumpReg .base a (imm12 i)
/-- JR_16 (R108): `jr ga`. -/
def execJr16 (a : Reg) (s : State) : Host.Outcome State Fault Refusal := s.jumpReg .short a 0

end Sys2Proof.Machine
end

