-- ==== Sys2Proof/Machine/Hinge.lean ====
section
/-! DEFINITION. The instructions of hinge pairs (R428 to R431) and the exchange (R423). -/

namespace Sys2Proof.Machine

/-- The partner of the acting core (R421). -/
def State.partner (s : State) : CoreName := s.cur ^^^ 1

/-- The effective PRIO of what core `q` runs or is reserved for by a gang. -/
def State.busyWith (s : State) (q : CoreName) : List Nat :=
  let k := s.getCore q
  (k.ctl.task.map fun t => s.prio t.ctx t.cid).toList ++
    (match k.sched.reserved with
      | some (.gang id) => ((s.work.gangs.find? (·.id == id)).map fun g => s.slotPrio g.slot).toList
      | some (.pair c) => ((s.getCore c).ctl.task.map fun t => s.prio t.ctx t.cid).toList
      | none => [])

/-- A new pair at its agreed point, with checker `q`, whose `kcnt` is given (R429). -/
def newPair (q : CoreName) (kcnt : Word) (r : PairRegs) : Pair :=
  ⟨q, [], 0, 0, 0, kcnt, r, r, 0, 0, false, none, none, false, none⟩

/-- The task of the acting core goes on on core `q`, the lower of the two (R421): what it holds in the acting core's local memory goes with
it as on leaving a core (R140; log 157), and the acting core becomes the checker. -/
def State.leadFrom (s : State) (q : CoreName) (t : Task) : State :=
  let s := ((s.flushStash s.cur).unpinScratch s.cur).spillFast s.cur t.id
  let k := s.core
  let s := s.modCore q fun l => { l with
    thr := k.thr, vec := k.vec
    ctl := { l.ctl with
      idx := k.ctl.idx, k := k.ctl.k, oc := k.ctl.oc, run := .task, task := k.ctl.task, lastCtx := k.ctl.lastCtx, due := k.ctl.due }
    pair := some (newPair s.cur k.ctl.k.kcnt k.pairRegs) }
  { s with core := { k with
    ctl := { k.ctl.vacated with run := .checker, due := { k.ctl.due.left with brk := false, brkForced := false } } } }

/-- The pair once its partner is free (R421, R429): both at the agreed point after `pair`, with g[d] 0; the lower of the two leads. -/
def State.couple (s : State) (d : Reg) (q : CoreName) (t : Task) : State :=
  let s := ((s.addUse t.ctx t.cid (dieOf s.cur) 1 (weight (recPcls t.record))).setG d 0).next 4
  let s := s.modCore q fun k => k.modSched fun h => { h with reserved := none }
  if q.toNat < s.cur.toNat then s.leadFrom q t
  else
    let r := s.core.pairRegs
    let n := (s.getCore q).ctl.k.kcnt
    let s := s.modCore q fun k => (k.setPair r).modCtl fun x => { x with run := .checker }
    { s with core := { s.core with pair := some (newPair q n r) } }

/-- PAIR (R429). -/
def execPair (d : Reg) (s : State) : Host.Outcome State Fault Refusal :=
  run .control s do
    s.dst d
    if s.core.pair.isSome then return (s.setG d 1).next 4
    match s.core.ctl.task with
    | none => return s.next 4
    | some t =>
      check s (!s.tt && !s.core.vs.opened && !s.core.ms.opened && t.team.isNone)
      check s (s.core.mem.tiles.toList.all fun e => tileState e == 0)
      let o := s.core.ctl.oc
      waitFor (o.ocl == 0 && o.ocs == 0 && o.occ == 0 && o.ocx == 0) .counter
      let q := s.partner
      let k := s.getCore q
      let mine := decide (k.sched.reserved = some (.pair s.cur))
      if isWorker q = false ∨ s.lists t.ctx q = false then return (s.setG d 3).next 4
      let p := s.prio t.ctx t.cid
      if mine then
        waitFor (decide (k.ctl.run = .idle)) .answer
        s.release
        return s.couple d q t
      if (s.busyWith q).any (p ≤ ·) ∨ k.sched.resume.length ≥ 32 ∨ k.pair.isSome ∨ k.ctl.run = .checker then return (s.setG d 2).next 4
      let w := weight (recPcls t.record)
      let g := s.gov (dieOf s.cur)
      if g.budget < g.sum + w ∨ s.mayRun t.ctx t.cid 1 w = false then return (s.setG d 2).next 4
      let x := s.modCore q fun k => k.modSched fun h => { h with reserved := some (.pair s.cur) }
      return (if k.ctl.run = .idle then x else x.askPreempt q).setStall .answer

/-- UNPAIR (R430). -/
def execUnpair (d : Reg) (s : State) : Host.Outcome State Fault Refusal :=
  run { Form.control with exchange := true } s do
    s.dst d
    if s.core.pair.isNone then return (s.setG d 1).next 4
    s.release
    return ((s.releaseChecker s.cur).setG d 0).next 4

/-- FPX (R430). -/
def execFpx (d : Reg) (s : State) : Host.Outcome State Fault Refusal :=
  run { Form.control with exchange := true } s do
    s.dst d
    return (s.setG d (if s.core.pair.isSome then 0 else 1)).next 4

/-- What `pstat` reads (R431). -/
def Pair.status (p : Pair) (sel : Nat) : Word :=
  match sel with
  | 0 => (1#64 <<< 62) ||| (BitVec.ofNat 64 p.gate.length <<< 40) ||| (BitVec.ofNat 64 p.count <<< 27) ||| p.partner.setWidth 64
  | 1 => BitVec.ofNat 64 p.agreed
  | _ => BitVec.ofNat 64 p.rolled

/-- PSTAT (R431). -/
def execPstat (d a : Reg) (s : State) : Host.Outcome State Fault Refusal :=
  run .control s do
    let x ← s.src a
    s.dst d
    check s (decide (x.toNat ≤ 2))
    return (s.setG d (s.core.pair.elim 0 fun p => p.status x.toNat)).next 4

/-- FINGERPRINT_EXCHANGE (R423): due after 4,096 instructions, or where an instruction forces it. -/
def execFingerprintExchange (c : CoreName) (s : State) : Host.Outcome State Fault Refusal :=
  let k := s.getCore c
  match k.pair with
  | none => .next s
  | some p =>
    let forced := k.forcing.isSome && !p.forces k.thr.pc
    if k.ctl.stopped = false ∧ (p.draining ∨ p.count ≥ 4096 ∨ forced) then .next (s.exchange c) else .next s

end Sys2Proof.Machine
end

