-- ==== Sys2Proof/Machine/Integer.lean ====
section
/-! DEFINITION. Integer arithmetic: the register forms (R157), the immediate forms (R158), and the 16-bit forms that stand
for them (R108). None of them traps for its values, none sets a flag. -/

namespace Sys2Proof.Machine

/-! ## The functions F(x, y) of R157 -/

/-- `mulh`: bits [2n - 1:n] of the signed product. -/
def mulHigh (n : Nat) (x y : BitVec n) : BitVec n := BitVec.ofInt n (x.toInt * y.toInt / 2 ^ n)
/-- `div`: all ones for a zero divisor, else truncated; the one overflow gives x. -/
def divide (n : Nat) (x y : BitVec n) : BitVec n := if y = 0 then BitVec.allOnes n else x.sdiv y
/-- `rem`: x for a zero divisor, else with the sign of x. -/
def remainder (n : Nat) (x y : BitVec n) : BitVec n := if y = 0 then x else x.srem y

/-- F of each mnemonic of R157. -/
inductive AluOp
  | add | sub | and | or | xor | shl | shr | sar | slt | sltu | min | max | mul | mulh | div | rem
  deriving DecidableEq, Repr

/-- F(x, y) at `n` bits (R157). -/
def AluOp.apply (o : AluOp) (n : Nat) (x y : BitVec n) : BitVec n :=
  match o with
  | .add => x + y
  | .sub => x - y
  | .and => x &&& y
  | .or => x ||| y
  | .xor => x ^^^ y
  | .shl => x <<< (y.toNat % n)
  | .shr => x >>> (y.toNat % n)
  | .sar => x.sshiftRight (y.toNat % n)
  | .slt => if x.slt y then 1#n else 0#n
  | .sltu => if x.ult y then 1#n else 0#n
  | .min => if x.slt y then x else y
  | .max => if x.slt y then y else x
  | .mul => x * y
  | .mulh => mulHigh n x y
  | .div => divide n x y
  | .rem => remainder n x y

/-- g[d] := F(g[a], g[b]) at width W (R157). -/
def State.alu (s : State) (f : Form) (o : AluOp) (w : Width) (d a b : Reg) : Host.Outcome State Fault Refusal :=
  run f s do
    let x ← s.src a
    let y ← s.src b
    s.dst d
    return (s.setG d (atWidth w o.apply x y)).next f.len

/-- g[d] := F(g[a], y) at width W (R158). -/
def State.aluImm (s : State) (f : Form) (o : AluOp) (w : Width) (d a : Reg) (y : Word) :
    Host.Outcome State Fault Refusal :=
  run f s do
    let x ← s.src a
    s.dst d
    return (s.setG d (atWidth w o.apply x y)).next f.len

/-- An immediate shift: the amount lies below the width (R158). -/
def State.shiftImm (s : State) (o : AluOp) (w : Width) (n : Nat) (d a : Reg) (i : BitVec 12) :
    Host.Outcome State Fault Refusal :=
  run .base s do
    check s (shiftOk i n)
    let x ← s.src a
    s.dst d
    return (s.setG d (atWidth w o.apply x (imm12 i))).next 4

/-- ADD (R157). -/
def execAdd (w : Width) (d a b : Reg) (s : State) : Host.Outcome State Fault Refusal := s.alu .base .add w d a b
/-- SUB (R157). -/
def execSub (w : Width) (d a b : Reg) (s : State) : Host.Outcome State Fault Refusal := s.alu .base .sub w d a b
/-- AND (R157). -/
def execAnd (w : Width) (d a b : Reg) (s : State) : Host.Outcome State Fault Refusal := s.alu .base .and w d a b
/-- OR (R157). -/
def execOr (w : Width) (d a b : Reg) (s : State) : Host.Outcome State Fault Refusal := s.alu .base .or w d a b
/-- XOR (R157). -/
def execXor (w : Width) (d a b : Reg) (s : State) : Host.Outcome State Fault Refusal := s.alu .base .xor w d a b
/-- SHL (R157). -/
def execShl (w : Width) (d a b : Reg) (s : State) : Host.Outcome State Fault Refusal := s.alu .base .shl w d a b
/-- SHR (R157). -/
def execShr (w : Width) (d a b : Reg) (s : State) : Host.Outcome State Fault Refusal := s.alu .base .shr w d a b
/-- SAR (R157). -/
def execSar (w : Width) (d a b : Reg) (s : State) : Host.Outcome State Fault Refusal := s.alu .base .sar w d a b
/-- SLT (R157). -/
def execSlt (w : Width) (d a b : Reg) (s : State) : Host.Outcome State Fault Refusal := s.alu .base .slt w d a b
/-- SLTU (R157). -/
def execSltu (w : Width) (d a b : Reg) (s : State) : Host.Outcome State Fault Refusal := s.alu .base .sltu w d a b
/-- MIN (R157). -/
def execMin (w : Width) (d a b : Reg) (s : State) : Host.Outcome State Fault Refusal := s.alu .base .min w d a b
/-- MAX (R157). -/
def execMax (w : Width) (d a b : Reg) (s : State) : Host.Outcome State Fault Refusal := s.alu .base .max w d a b
/-- MUL (R157). -/
def execMul (w : Width) (d a b : Reg) (s : State) : Host.Outcome State Fault Refusal := s.alu .base .mul w d a b
/-- MULH (R157). -/
def execMulh (w : Width) (d a b : Reg) (s : State) : Host.Outcome State Fault Refusal := s.alu .base .mulh w d a b
/-- DIV (R157). -/
def execDiv (w : Width) (d a b : Reg) (s : State) : Host.Outcome State Fault Refusal := s.alu .base .div w d a b
/-- REM (R157). -/
def execRem (w : Width) (d a b : Reg) (s : State) : Host.Outcome State Fault Refusal := s.alu .base .rem w d a b

/-- ADD_IMM_D (R158). -/
def execAddImmD (d a : Reg) (i : BitVec 12) (s : State) : Host.Outcome State Fault Refusal :=
  s.aluImm .base .add .d64 d a (imm12 i)
/-- AND_IMM_D (R158). -/
def execAndImmD (d a : Reg) (i : BitVec 12) (s : State) : Host.Outcome State Fault Refusal :=
  s.aluImm .base .and .d64 d a (imm12 i)
/-- OR_IMM_D (R158). -/
def execOrImmD (d a : Reg) (i : BitVec 12) (s : State) : Host.Outcome State Fault Refusal :=
  s.aluImm .base .or .d64 d a (imm12 i)
/-- XOR_IMM_D (R158). -/
def execXorImmD (d a : Reg) (i : BitVec 12) (s : State) : Host.Outcome State Fault Refusal :=
  s.aluImm .base .xor .d64 d a (imm12 i)
/-- SHL_IMM_D (R158). -/
def execShlImmD (d a : Reg) (i : BitVec 12) (s : State) : Host.Outcome State Fault Refusal :=
  s.shiftImm .shl .d64 64 d a i
/-- SHR_IMM_D (R158). -/
def execShrImmD (d a : Reg) (i : BitVec 12) (s : State) : Host.Outcome State Fault Refusal :=
  s.shiftImm .shr .d64 64 d a i
/-- SAR_IMM_D (R158). -/
def execSarImmD (d a : Reg) (i : BitVec 12) (s : State) : Host.Outcome State Fault Refusal :=
  s.shiftImm .sar .d64 64 d a i
/-- SLT_IMM_D (R158). -/
def execSltImmD (d a : Reg) (i : BitVec 12) (s : State) : Host.Outcome State Fault Refusal :=
  s.aluImm .base .slt .d64 d a (imm12 i)
/-- SLTU_IMM_D (R158). -/
def execSltuImmD (d a : Reg) (i : BitVec 12) (s : State) : Host.Outcome State Fault Refusal :=
  s.aluImm .base .sltu .d64 d a (imm12 i)
/-- MIN_IMM_D (R158). -/
def execMinImmD (d a : Reg) (i : BitVec 12) (s : State) : Host.Outcome State Fault Refusal :=
  s.aluImm .base .min .d64 d a (imm12 i)
/-- MAX_IMM_D (R158). -/
def execMaxImmD (d a : Reg) (i : BitVec 12) (s : State) : Host.Outcome State Fault Refusal :=
  s.aluImm .base .max .d64 d a (imm12 i)
/-- MUL_IMM_D (R158). -/
def execMulImmD (d a : Reg) (i : BitVec 12) (s : State) : Host.Outcome State Fault Refusal :=
  s.aluImm .base .mul .d64 d a (imm12 i)
/-- ADD_IMM_W (R158). -/
def execAddImmW (d a : Reg) (i : BitVec 12) (s : State) : Host.Outcome State Fault Refusal :=
  s.aluImm .base .add .w32 d a (imm12 i)
/-- AND_IMM_W (R158). -/
def execAndImmW (d a : Reg) (i : BitVec 12) (s : State) : Host.Outcome State Fault Refusal :=
  s.aluImm .base .and .w32 d a (imm12 i)
/-- OR_IMM_W (R158). -/
def execOrImmW (d a : Reg) (i : BitVec 12) (s : State) : Host.Outcome State Fault Refusal :=
  s.aluImm .base .or .w32 d a (imm12 i)
/-- XOR_IMM_W (R158). -/
def execXorImmW (d a : Reg) (i : BitVec 12) (s : State) : Host.Outcome State Fault Refusal :=
  s.aluImm .base .xor .w32 d a (imm12 i)
/-- SHL_IMM_W (R158). -/
def execShlImmW (d a : Reg) (i : BitVec 12) (s : State) : Host.Outcome State Fault Refusal :=
  s.shiftImm .shl .w32 32 d a i
/-- SHR_IMM_W (R158). -/
def execShrImmW (d a : Reg) (i : BitVec 12) (s : State) : Host.Outcome State Fault Refusal :=
  s.shiftImm .shr .w32 32 d a i
/-- SAR_IMM_W (R158). -/
def execSarImmW (d a : Reg) (i : BitVec 12) (s : State) : Host.Outcome State Fault Refusal :=
  s.shiftImm .sar .w32 32 d a i
/-- SLT_IMM_W (R158). -/
def execSltImmW (d a : Reg) (i : BitVec 12) (s : State) : Host.Outcome State Fault Refusal :=
  s.aluImm .base .slt .w32 d a (imm12 i)
/-- SLTU_IMM_W (R158). -/
def execSltuImmW (d a : Reg) (i : BitVec 12) (s : State) : Host.Outcome State Fault Refusal :=
  s.aluImm .base .sltu .w32 d a (imm12 i)
/-- MIN_IMM_W (R158). -/
def execMinImmW (d a : Reg) (i : BitVec 12) (s : State) : Host.Outcome State Fault Refusal :=
  s.aluImm .base .min .w32 d a (imm12 i)
/-- MAX_IMM_W (R158). -/
def execMaxImmW (d a : Reg) (i : BitVec 12) (s : State) : Host.Outcome State Fault Refusal :=
  s.aluImm .base .max .w32 d a (imm12 i)
/-- MUL_IMM_W (R158). -/
def execMulImmW (d a : Reg) (i : BitVec 12) (s : State) : Host.Outcome State Fault Refusal :=
  s.aluImm .base .mul .w32 d a (imm12 i)

/-- ADD_16 (R108): `add.d gd, gd, ga`. -/
def execAdd16 (d a : Reg) (s : State) : Host.Outcome State Fault Refusal := s.alu .short .add .d64 d d a
/-- SUB_16 (R108): `sub.d gd, gd, ga`. -/
def execSub16 (d a : Reg) (s : State) : Host.Outcome State Fault Refusal := s.alu .short .sub .d64 d d a
/-- AND_16 (R108): `and.d gd, gd, ga`. -/
def execAnd16 (d a : Reg) (s : State) : Host.Outcome State Fault Refusal := s.alu .short .and .d64 d d a
/-- OR_16 (R108): `or.d gd, gd, ga`. -/
def execOr16 (d a : Reg) (s : State) : Host.Outcome State Fault Refusal := s.alu .short .or .d64 d d a
/-- XOR_16 (R108): `xor.d gd, gd, ga`. -/
def execXor16 (d a : Reg) (s : State) : Host.Outcome State Fault Refusal := s.alu .short .xor .d64 d d a
/-- ADD_IMM_16 (R108): `add.d gd, gd, imm`, imm signed. -/
def execAddImm16 (d : Reg) (i : BitVec 6) (s : State) : Host.Outcome State Fault Refusal :=
  s.aluImm .short .add .d64 d d (imm12 (imm6 i))
/-- SHL_16 (R108): `shl.d gd, gd, imm`, imm 0 to 63. -/
def execShl16 (d : Reg) (i : BitVec 6) (s : State) : Host.Outcome State Fault Refusal :=
  s.aluImm .short .shl .d64 d d (i.setWidth 64)
/-- SHR_16 (R108): `shr.d gd, gd, imm`, imm 0 to 63. -/
def execShr16 (d : Reg) (i : BitVec 6) (s : State) : Host.Outcome State Fault Refusal :=
  s.aluImm .short .shr .d64 d d (i.setWidth 64)
/-- SAR_16 (R108): `sar.d gd, gd, imm`, imm 0 to 63. -/
def execSar16 (d : Reg) (i : BitVec 6) (s : State) : Host.Outcome State Fault Refusal :=
  s.aluImm .short .sar .d64 d d (i.setWidth 64)

/-! ## Address forms (R159) -/

/-- g[d] := x. -/
def State.putConst (s : State) (f : Form) (d : Reg) (x : Word) : Host.Outcome State Fault Refusal :=
  run f s do
    s.dst d
    return (s.setG d x).next f.len

/-- LI (R159). -/
def execLi (d : Reg) (i : BitVec 19) (s : State) : Host.Outcome State Fault Refusal := s.putConst .base d (imm19 i)
/-- LI_16 (R108). -/
def execLi16 (d : Reg) (i : BitVec 6) (s : State) : Host.Outcome State Fault Refusal :=
  s.putConst .short d (imm12 (imm6 i))
/-- LEA_PC (R159): pc is the address of the instruction. -/
def execLeaPc (d : Reg) (i : BitVec 19) (s : State) : Host.Outcome State Fault Refusal :=
  s.putConst .base d (s.pc + imm19 i)
/-- LEA_REG (R159). -/
def execLeaReg (d a : Reg) (i : BitVec 12) (s : State) : Host.Outcome State Fault Refusal :=
  s.aluImm .base .add .d64 d a (imm12 i)

end Sys2Proof.Machine
end

