-- ==== Sys2Proof/Machine/Loads.lean ====
section
/-! DEFINITION. The access unit's instructions (R118, R195 to R213): loads, stores, atomics, fences, stash, scratch
residency, tile state and tensor maps. -/

namespace Sys2Proof.Machine

/-! ## Loads and stores (R196 to R199) -/

/-- A load whose device has side effects, which in a hinge pair forces an exchange (R424). -/
def State.sideEffect (s : State) (pa : Nat) : Bool :=
  decide (s.seq = .control) && s.core.pair.any (fun p => !p.forces s.pc) && (s.place pa == .host || s.place pa == .persist)

/-- A load of form `f`: `n` bytes at `va`. -/
def State.loadForm (s : State) (f : Form) (n : Nat) (d a : Reg) (off : Word) (acq : Bool) :
    Host.Outcome State Fault Refusal :=
  run f s do
    let x ← s.src a
    s.dst d
    let va := x + off
    let pa ← s.access va n .load
    if s.sideEffect pa then stall (.force f.len)
    let t ← s.load f.len d va pa n acq
    return t.next f.len

/-- A store of form `f`: the low `n` bytes of g[d] at `va`; a release waits first (R134). The launch window takes
a doubleword in one write (R485). -/
def State.storeForm (s : State) (f : Form) (n : Nat) (d a : Reg) (off : Word) (rel : Bool) :
    Host.Outcome State Fault Refusal :=
  run f s do
    let x ← s.src a
    let y ← s.src d
    let va := x + off
    let pa ← s.access va n .store
    if rel then s.release
    let t ← s.store f.len va [(pa, toBytes n y.toNat)] (rel || s.place pa == .window)
    return t.next f.len

/-- LD (R197). -/
def execLd (z : BitVec 2) (d a : Reg) (o : BitVec 12) (s : State) : Host.Outcome State Fault Refusal :=
  s.loadForm .shared (accessBytes z) d a (imm12 o) false
/-- LD_ACQ (R197). -/
def execLdAcq (z : BitVec 2) (d a : Reg) (o : BitVec 12) (s : State) : Host.Outcome State Fault Refusal :=
  s.loadForm .shared (accessBytes z) d a (imm12 o) true
/-- LD_16: `ld.d` through g2 (R108). -/
def execLd16 (d : Reg) (i : BitVec 6) (s : State) : Host.Outcome State Fault Refusal :=
  s.loadForm { Form.shared with len := 2 } 8 d 2 (imm12 (offset8 i)) false
/-- ST (R197). -/
def execSt (z : BitVec 2) (d a : Reg) (o : BitVec 12) (s : State) : Host.Outcome State Fault Refusal :=
  s.storeForm .shared (accessBytes z) d a (imm12 o) false
/-- ST_REL (R197); in a hinge pair it forces an exchange (R424). -/
def execStRel (z : BitVec 2) (d a : Reg) (o : BitVec 12) (s : State) : Host.Outcome State Fault Refusal :=
  s.storeForm { Form.shared with exchange := true } (accessBytes z) d a (imm12 o) true
/-- ST_16: `st.d` through g2 (R108). -/
def execSt16 (d : Reg) (i : BitVec 6) (s : State) : Host.Outcome State Fault Refusal :=
  s.storeForm { Form.shared with len := 2 } 8 d 2 (imm12 (offset8 i)) false

/-! ## Atomics (R202, R203) -/

/-- Bytes of an atomic of width W. -/
def amoBytes : Width → Nat
  | .d64 => 8
  | .w32 => 4

/-- An atomic: the operand is g[b], the expected value of `cas` and the destination are g[d]. -/
def State.amoForm (s : State) (op : AmoOp) (q : AmoOrder) (n : Nat) (d a b : Reg) : Host.Outcome State Fault Refusal :=
  run { Form.shared with exchange := true } s do
    let va ← s.src a
    let y ← s.src b
    let cmp ← s.src d
    let pa ← s.access va n .atomic
    if q = .rel then s.release
    let t ← s.amo op d va pa n y cmp (q == .acq)
    return (t.foldAccess [va, BitVec.ofNat 64 n, y, cmp]).next 4

/-- AMO_SWAP (R203). -/
def execAmoSwap (q : AmoOrder) (w : Width) (d a b : Reg) (s : State) : Host.Outcome State Fault Refusal :=
  s.amoForm .swap q (amoBytes w) d a b
/-- AMO_CAS (R203). -/
def execAmoCas (q : AmoOrder) (w : Width) (d a b : Reg) (s : State) : Host.Outcome State Fault Refusal :=
  s.amoForm .cas q (amoBytes w) d a b
/-- AMO_ADD (R203). -/
def execAmoAdd (q : AmoOrder) (w : Width) (d a b : Reg) (s : State) : Host.Outcome State Fault Refusal :=
  s.amoForm .add q (amoBytes w) d a b
/-- AMO_AND (R203). -/
def execAmoAnd (q : AmoOrder) (w : Width) (d a b : Reg) (s : State) : Host.Outcome State Fault Refusal :=
  s.amoForm .and q (amoBytes w) d a b
/-- AMO_OR (R203). -/
def execAmoOr (q : AmoOrder) (w : Width) (d a b : Reg) (s : State) : Host.Outcome State Fault Refusal :=
  s.amoForm .or q (amoBytes w) d a b
/-- AMO_XOR (R203). -/
def execAmoXor (q : AmoOrder) (w : Width) (d a b : Reg) (s : State) : Host.Outcome State Fault Refusal :=
  s.amoForm .xor q (amoBytes w) d a b
/-- AMO_MIN (R203). -/
def execAmoMin (q : AmoOrder) (w : Width) (d a b : Reg) (s : State) : Host.Outcome State Fault Refusal :=
  s.amoForm .min q (amoBytes w) d a b
/-- AMO_MAX (R203). -/
def execAmoMax (q : AmoOrder) (w : Width) (d a b : Reg) (s : State) : Host.Outcome State Fault Refusal :=
  s.amoForm .max q (amoBytes w) d a b
/-- AMO_FADD (R203). -/
def execAmoFadd (q : AmoOrder) (d a b : Reg) (s : State) : Host.Outcome State Fault Refusal :=
  s.amoForm .fadd q 4 d a b

/-! ## Fences (R204) -/

/-- Every earlier load and atomic of the acting sequencer has returned. -/
def State.loaded (s : State) : Bool := s.core.mem.loads.all fun l => l.q != s.seq

/-- FENCE_ACQ (R204). -/
def execFenceAcq (s : State) : Host.Outcome State Fault Refusal :=
  run .shared s do
    waitFor s.loaded .release
    return s.acquire.next 4

/-- FENCE_REL (R204). -/
def execFenceRel (s : State) : Host.Outcome State Fault Refusal :=
  run { Form.shared with exchange := true } s do
    s.release
    return s.next 4

/-- FENCE_FULL (R204). -/
def execFenceFull (s : State) : Host.Outcome State Fault Refusal :=
  run { Form.shared with exchange := true } s do
    s.release
    return s.acquire.next 4

/-! ## The stash (R205 to R209) -/

/-- The virtual pages of a range, its count and alignment checked in that order (R205). -/
def State.pageRange (s : State) (va count : Word) : Try (List Word) := do
  check s (decide (1 ≤ count.toNat ∧ count.toNat ≤ 64))
  if va.toNat % 4096 ≠ 0 then raise 0x03 va
  return (List.range count.toNat).map fun i => va + BitVec.ofNat 64 (4096 * i)

/-- The 4 KiB frames of virtual pages, as global address / 4096 (R205): PGF where one is not HBM4E or LPDDR-6. -/
def State.framesOf (s : State) : List Word → Try (List Nat)
  | [] => .ok []
  | va :: l => do
    if (s.scratchOf va).isSome then raise 0x05 va
    let pa ← s.translate va .load
    if s.place pa ≠ .memory then raise 0x05 va
    let rest ← s.framesOf l
    return (pa / 4096) :: rest

/-- Map frames into free local pages, each word in I (R206). -/
def Core.mapStash (k : Core) : List (Nat × Nat) → Core
  | [] => k
  | (n, f) :: l => (k.setPage n ⟨.stash, 0, false, true, BitVec.ofNat 52 f⟩).mapStash l

/-- STASH_MAP (R206). -/
def execStashMap (d a b : Reg) (s : State) : Host.Outcome State Fault Refusal :=
  run .control s do
    let va ← s.src a
    let n ← s.src b
    s.dst d
    let pages ← s.pageRange va n
    let frames ← s.framesOf pages
    let new := (frames.filter fun f => (s.core.stashPage f).isNone).eraseDups
    let free := s.core.freeList
    if free.length < new.length then return (s.setG d 0).next 4
    else
      let t := { s with core := s.core.mapStash (free.zip new) }
      return (t.setG d n).next 4

/-- Words that core `k` holds in state `st` in the given frames. -/
def Core.wordsIn (k : Core) (st : WordState) (frames : List Nat) : List Nat :=
  (k.mem.stash.filter fun e => e.2 == st && frames.contains (e.1 / 1024)).map (·.1)

/-- Send the write-back of a line's words, at virtual address `va`, if the channel has room; the words go to V (R207). -/
def State.sendBack (s : State) (id : Nat) (va : Word) (line : Nat) (ws : List Nat) (n : Nat) : State × Nat :=
  let u := s.home (128 * line)
  if s.canPost s.unit u 1 then
    let vals := (List.range 32).filterMap fun i => if ws.contains (32 * line + i) then some (s.stashValue s.cur (32 * line + i)) else none
    let s := s.post s.unit u 7 s.ctx false false (.wb line (maskOf ws) vals) (.await s.cur s.seq id va.toNat)
    ({ s with core := s.core.setWords ws (some .V) }, n + 1)
  else (s, n)

/-- The next write-backs, at most as many as the channels take: `true` when no word is left. They wait for words in P, and for words
that the core fetches to store to a part of them. -/
def State.batch (s : State) (pages : List (Word × Nat)) : Try (State × Bool) :=
  let frames := pages.map (·.2)
  let addr (line : Nat) : Word := ((pages.find? (·.2 == line / 32)).elim 0 (·.1)) + BitVec.ofNat 64 (line % 32 * 128)
  if !(s.core.wordsIn .P frames).isEmpty ∨ frames.any fun f => s.pendingWord (4096 * f) 4096 then .ok (s.setStall .answer, false)
  else
    let own := s.core.wordsIn .O frames
    let lines := (own.map (· / 32)).eraseDups
    if lines.isEmpty then .ok (s, true)
    else
      let r := lines.foldl (fun (x : State × Nat) line => x.1.sendBack s.fresh (addr line) line (own.filter (· / 32 == line)) x.2) (s, 0)
      if r.2 = 0 then .ok (s.setStall .space, false)
      else .ok (r.1.setAwait r.2, false)

/-- Write back the O words of pages, each with its frame, and wait for the homes (R207): `true` when it is complete. -/
def State.writeBack (s : State) (pages : List (Word × Nat)) : Try (State × Bool) :=
  if s.pendingAnswer.any fun a => decide (a.left ≠ 0) then .ok (s.setStall .answer, false) else s.batch pages

/-- STASH_WB (R207). -/
def execStashWb (a b : Reg) (s : State) : Host.Outcome State Fault Refusal :=
  run { Form.control with exchange := true } s do
    let va ← s.src a
    let n ← s.src b
    let pages ← s.pageRange va n
    let frames ← s.framesOf pages
    let (t, done) ← s.writeBack ((pages.zip frames).filter fun x => (s.core.stashPage x.2).isSome)
    return if done then t.next 4 else t

/-- Unmap the frames: their words go to I, their pages are free (R208). -/
def Core.unmapStash (k : Core) (frames : List Nat) : Core :=
  (k.modMem fun m => { m with stash := m.stash.filter fun e => !frames.contains (e.1 / 1024) }).freePages fun p =>
    p.role == .stash && frames.contains p.frame.toNat

/-- STASH_UNMAP (R208). -/
def execStashUnmap (a b : Reg) (s : State) : Host.Outcome State Fault Refusal :=
  run { Form.control with exchange := true } s do
    let va ← s.src a
    let n ← s.src b
    let pages ← s.pageRange va n
    let frames ← s.framesOf pages
    let mapped := frames.filter fun f => (s.core.stashPage f).isSome
    let (t, done) ← s.writeBack ((pages.zip frames).filter fun x => mapped.contains x.2)
    let t' := t.spoilFills t.cur fun l => mapped.contains (l / 32)
    return if done then ({ t' with core := t'.core.unmapStash mapped }).next 4 else t

/-! ## Scratch residency (R210, R211) -/

/-- The scratch pages of a range, by position in the task's list: PGF where one is not the task's (R210). -/
def State.scratchRange (s : State) : List Word → Try (List (Nat × ScratchPage))
  | [] => .ok []
  | va :: l =>
    match s.scratchOf va with
    | none => raise 0x05 va
    | some p => do
      let rest ← s.scratchRange l
      return p :: rest

/-- Spill a resident scratch page into the forwarding table (R148, R210). -/
def State.spillPage (s : State) (i : Nat) (p : ScratchPage) : State :=
  match p.page with
  | none => s
  | some n =>
    if s.core.mem.spills.length ≥ 8 then s
    else
      let bs := readBytes s.mem (s.sramBase s.cur + 4096 * n) 4096
      let id := s.fresh
      let s := { s with fresh := id + 1, core := (s.core.modMem fun m => { m with spills := m.spills ++ [Spill.mk id p.frame bs] }).setPage n ⟨.free, 0, false, false, 0⟩ }
      s.modTask fun t => { t with scratch := setAt i { p with page := none } t.scratch }

/-- SPILL (R210); a ninth spill stalls until an entry frees (R148). -/
def execSpill (a b : Reg) (s : State) : Host.Outcome State Fault Refusal :=
  run { Form.control with exchange := true } s do
    let va ← s.src a
    let n ← s.src b
    let pages ← s.pageRange va n
    let ps ← s.scratchRange pages
    let t := ps.foldl (fun s p => s.spillPage p.1 p.2) s
    let rest ← t.scratchRange pages
    return if rest.all fun p => p.2.page.isNone then t.next 4 else t.setStall .space

/-- FILL (R211). -/
def execFill (d a b : Reg) (s : State) : Host.Outcome State Fault Refusal :=
  run { Form.control with exchange := true } s do
    let va ← s.src a
    let n ← s.src b
    s.dst d
    let pages ← s.pageRange va n
    let ps ← s.scratchRange pages
    let out := ps.filter fun p => p.2.page.isNone
    let free := s.core.freeList
    if free.length < out.length then return (s.setG d 0).next 4
    else
      let t := (out.zip free).foldl (fun s p => s.loadScratch p.1.1 p.2) s
      return (t.setG d n).next 4

/-! ## Tile state and tensor maps -/

/-- TSTATE (R212). -/
def execTstate (d a : Reg) (s : State) : Host.Outcome State Fault Refusal :=
  run .control s do
    let x ← s.src a
    s.dst d
    check s (bits x 6 58 == 0)
    return (s.setG d (s.core.tile (bits x 0 6))).next 4

/-- TMLD (R118, R213): four plain doubleword loads; ILL while a matrix stream is open (R174). A load that fails leaves the
map as it was (R199). -/
def execTmld (a : Reg) (m : BitVec 4) (s : State) : Host.Outcome State Fault Refusal :=
  run { Form.control with inPair := false, withMatrix := false } s do
    let va ← s.src a
    let ps ← s.accessDwords va 32 32 .load
    match s.gather ps with
    | .wait t => return t
    | .failed st a => return (← s.refused st (va + BitVec.ofNat 64 ((a - ps.head?.elim a (·.1)) / 8 * 8)) a).next 4
    | .got bs =>
      let x : TMap := BitVec.ofNat 256 (ofBytes bs)
      return ({ s with core := { s.core with vec := { s.core.vec with m := s.core.vec.m.set m.toNat x m.isLt } } }).next 4

/-- TMST (R118, R213): four plain doubleword stores. -/
def execTmst (a : Reg) (m : BitVec 4) (s : State) : Host.Outcome State Fault Refusal :=
  run .control s do
    let va ← s.src a
    let ps ← s.accessDwords va 32 32 .store
    let pa := ps.head?.elim 0 (·.1)
    let bs := toBytes 32 (s.core.vec.m.get m.toFin).toNat
    let t ← [0, 8, 16, 24].foldlM (fun (t : State) i => t.store 4 (va + BitVec.ofNat 64 i) [(pa + i, (bs.drop i).take 8)] false) s
    return t.next 4

end Sys2Proof.Machine
end

