-- ==== Sys2Proof/Machine/Noise.lean ====
section
/-! DEFINITION. The noise generator (R382 to R397): draws, the materialising of a member, and the instructions of major 0x4D. -/

namespace Sys2Proof.Machine

/-! ## Draws (R383) -/

/-- One round: the rotation `n`. -/
def noiseRound (x : Word × Word) (n : Nat) : Word × Word :=
  let a := x.1 + x.2
  (a, x.2.rotateLeft n ^^^ a)

/-- The state after round 3. -/
def noiseState (key : Word) (member : BitVec 16) (index : W32) : Word × Word :=
  [24, 16, 40, 8].foldl noiseRound
    (key ^^^ 0x9E3779B97F4A7C15#64, ((member.setWidth 64 <<< 32) ||| index.setWidth 64) ^^^ 0x6A09E667F3BCC908#64)

/-- S: the sum of eight uniforms. -/
def noiseSum (key : Word) (member : BitVec 16) (index : W32) : Nat :=
  let x := noiseState key member index
  ((List.range 4).map fun j => (bits x.1 (16 * j) 16).toNat + (bits x.2 (16 * j) 16).toNat).sum

/-- eps (R383). -/
def gauss (key : Word) (member : BitVec 16) (index : W32) : BitVec 16 :=
  rne16 (Num.of (((noiseSum key member index : Int) - 262140) * 40132) (-31))

/-- The acting task's draw of an element (R384). -/
def State.draw (s : State) (index : W32) : BitVec 16 := gauss s.core.ctl.k.knoise (bits s.core.ctl.k.kmember 0 16) index

/-- A draw as an exact value. -/
def drawn (e : BitVec 16) : Num := decodeNum .fp16 false e.toNat

/-! ## Materialising (R387) -/

/-- The FP16 weight of a mean, a log-deviation and a draw. -/
def weightOf (ns : Bool) (mean lsd : Byte) (e : BitVec 16) : BitVec 16 :=
  let mu := decodeM8 ns mean.toNat
  let sigma := sigmaOf lsd
  match mu, sigma with
  | .nan _ _, _ => 0x7E00
  | _, .zero _ => rne16 mu
  | .inf _, _ => rne16 mu
  | _, _ => rne16 (mu.add ((drawn e).mul sigma))

/-- The working panel of `k` by `n` elements, formed as a load of a 16-bit floating panel forms it. -/
def workPanel (mean lsd : Panel) (ns : Bool) (k n : Nat) (draw : W32 → BitVec 16) (base : W32) : Panel :=
  panelOf ((List.range 64).map fun c =>
    fixedLine .fp16 (fun r =>
      if r < k ∧ c < n then
        drawn (weightOf ns (BitVec.ofInt 8 (mean.cell c r).q) (BitVec.ofInt 8 (lsd.cell c r).q) (draw (base + BitVec.ofNat 32 (64 * r + c))))
      else .zero false) (fun _ => none)) true

/-! ## Instructions (R388, R389) -/

/-- `nkey`: the control stream only; no prefix. -/
def Form.nkey : Form := { Form.matrix false with inMatrix := false }
/-- `ngen` and `ngrad`: the control stream with no stream open. -/
def Form.ngen : Form := { Form.matrix true with inMatrix := false, withVector := false }

/-- NKEY (R390). -/
def execNkey (d u : Reg) (s : State) : Host.Outcome State Fault Refusal :=
  run .nkey s <| s.powered do
    let x ← s.src u
    s.dst d
    let old := s.core.ctl.k.knoise
    return ((s.modK fun k => { k with knoise := x }).setG d old).next 4

/-- MMEMBER (R391). Once it waits inside the unit it is not abandoned (R396). -/
def execMmember (u : Reg) (d : BitVec 5) (s : State) : Host.Outcome State Fault Refusal :=
  run (.matrix false) s do
    check s (decide (d.toNat ≤ 3))
    s.powered do
      let w ← s.src u
      check s (bits w 17 15 == 0)
      let only := bit w 16
      check s (!only || d == 0)
      let t := s.modK fun k => { k with kmember := (bits w 0 16).setWidth 64 }
      if only then return t.next 4
      let n := d.toNat
      let p := n ^^^ 1
      let a := s.core.mat.slot n
      let b := s.core.mat.slot (n + 4)
      check s (descValid a.desc && descKind a.desc == 4 && descValid b.desc && descKind b.desc == 5)
      if !s.loadsDone [n, n + 4] none then
        if s.sentAnswer.isSome then stall .answer else return s.setAwaits 0 true
      let bad := descPoison a.desc || descPoison b.desc
      let desc (kind : Nat) : Word := descOf kind bad false true 1 (descK a.desc) (columnsField (descN a.desc))
      let panel := workPanel a.panel b.panel s.ns (descK a.desc) (descN a.desc) t.draw (bits w 32 32)
      return (t.modMat fun m =>
        ((m.clearSlots [p, p + 4]).setSlot p ⟨desc 2, panel, false⟩).setSlot (p + 4) ⟨desc 3, ⟨[], [], []⟩, false⟩).next 4

/-- NGEN (R392). -/
def execNgen (d u : Reg) (s : State) : Host.Outcome State Fault Refusal :=
  run .ngen s do
    let wide ← (match (s.pending.map fun p => p.fd : Option (BitVec 4)) with
      | none => (.ok false : Try Bool)
      | some 0 => .ok true
      | some 1 => .ok false
      | some _ => illegal s)
    s.powered do
      let w ← s.src u
      check s (bits w 0 32 == 0)
      let e (i : Nat) : BitVec 16 := s.draw (bits w 32 32 + BitVec.ofNat 32 i)
      let x := if wide then vectorOf 32 ((List.range 32).map fun i => (rne32 (drawn (e i))).toNat)
        else vectorOf 16 ((List.range 64).map fun i => (e i).toNat)
      return (s.setV d x).next 4

/-- One lane of `ngrad` (R393). -/
def gradOf (gw : W32) (lsd : Byte) (e : BitVec 16) : W32 :=
  let g := f32 gw
  let sigma := sigmaOf lsd
  match g with
  | .nan _ _ => 0x7FC00000
  | _ =>
    if sigma.eq (.zero false) || (drawn e).eq (.zero false) then
      match g with
      | .inf _ => 0x7FC00000
      | _ => 0
    else
      match ((g.mul (drawn e)).mul sigma).mul (f32 0x3E317218#32) with
      | .zero _ => 0
      | r => rne32 r

/-- NGRAD (R393). -/
def execNgrad (d u : Reg) (s : State) : Host.Outcome State Fault Refusal :=
  run .ngen s do
    check s (d.toNat % 2 == 0 && s.pending.all fun p => p.fa == 0 && p.fd == 0)
    s.powered do
      let w ← s.src u
      check s (bits w 0 32 == 0)
      let gw := elements 32 32 (s.v d)
      let ps := elements 16 64 (s.v (d + 1))
      let r (i : Nat) : Nat :=
        (gradOf (BitVec.ofNat 32 (lane gw i)) (BitVec.ofNat 8 (lane ps i)) (s.draw (bits w 32 32 + BitVec.ofNat 32 i))).toNat
      return (s.setV d (vectorOf 32 ((List.range 32).map r))).next 4

end Sys2Proof.Machine
end

