-- ==== Sys2Proof/Machine/Translation.lean ====
section
/-! DEFINITION. The translation service (R398 to R420): misses and their answers, shipping, TLB maintenance, page migration. -/

namespace Sys2Proof.Machine

/-! ## The miss ring (R402) -/

/-- The ring has a free slot. -/
def State.ringRoom (s : State) (ring : Nat) : Bool :=
  decide ((ofBytes (s.currents (ring + 8) 8) + 2 ^ 64 - ofBytes (s.currents ring 8)) % 2 ^ 64 < 63)

/-- A miss record. -/
def missRecord (va : Word) (c : CoreName) (x : BitVec 16) (kind : Nat) (flags : Byte) (token : Byte) (groups : BitVec 6)
    (resume : Word) : List Byte :=
  withCrc (toBytes 8 va.toNat ++ toBytes 2 c.toNat ++ toBytes 2 x.toNat ++ [BitVec.ofNat 8 kind, flags, token, groups.setWidth 8] ++
    toBytes 8 resume.toNat ++ List.replicate 36 0)

/-- Write a record to the ring, which has room. -/
def State.ringRecord (s : State) (ring : Nat) (entry : List Byte) : State :=
  let tail := ofBytes (s.currents (ring + 8) 8)
  (s.deviceWrite (ring + 64 * (1 + tail % 63)) entry).deviceWrite (ring + 8) (toBytes 8 (tail + 1))

/-! ## Misses (R401, R403) -/

/-- The cluster TLB's entry for a miss (R401 step 1). -/
def State.clusterHit (s : State) (c : CoreName) (x : BitVec 16) (va : Word) (kind : Nat) : Option TlbEntry :=
  let need (n : Nat) : Need := match n with
    | 0 => .load
    | 1 => .store
    | 2 => .atomic
    | 3 => .fetch
    | 4 => .engineRead
    | 5 => .engineWrite
    | _ => .load
  (winner (s.service c).tlb x va).filter (·.permits (need kind))

/-- The requester's miss still waits. -/
def State.missWaits (s : State) (c : CoreName) (m : MissReq) : Bool :=
  (s.getCore c).ctl.misses.any fun x => x.va == m.va && x.token.isNone && x.q == m.q

/-- The least number below 64 not in use. -/
def leastFree (used : List Nat) : Option Nat := (List.range 64).find? fun n => !used.contains n

/-- TLBM (R401): the translation service core answers from its cluster TLB, or gives the miss a token and a record, in order of
arrival. -/
def execTlbm (k : Nat) (s : State) : Host.Outcome State Fault Refusal :=
  match s.request k [14] with
  | some r =>
    match r.body with
    | .tlbm m =>
      let c := unitCore r.src
      let v := unitCore r.dst
      if s.missWaits c m = false then .next (s.answer r 0 .none)
      else
        match s.clusterHit v r.ctx m.va m.kind with
        | some e =>
          if s.canPost r.dst r.src 1 then
            .next ((s.answer r 0 .none).post r.dst r.src 15 r.ctx false false (.tlbf (some e) (some m.q) m.va) .none)
          else .next (s.keep r)
        | none =>
          let earlier := (s.fab.rxq.take k).any fun x => x.dst == r.dst && match x.body with
            | .tlbm n => (s.clusterHit v x.ctx n.va n.kind).isNone
            | _ => false
          let w := s.service v
          match leastFree (w.tokens.map (·.num)) with
          | some n =>
            if earlier ∨ s.ringRoom w.ring = false then .next (s.keep r)
            else
              let flags : Byte := (if m.q = .routine then 1 else 0) ||| (if m.team then 2 else 0)
              let s := s.ringRecord w.ring (missRecord m.va c r.ctx m.kind flags (BitVec.ofNat 8 n) m.groups m.resume)
              let s := s.modService v fun w => { w with tokens := w.tokens ++ [⟨n, c, m.q, r.ctx, m⟩] }
              let s := s.modCore c fun k => k.modCtl fun x => { x with
                misses := x.misses.map fun (y : Miss) => if y.q = m.q ∧ y.va = m.va then { y with token := some n } else y }
              .next (s.answer r 0 .none)
          | none => .next (s.keep r)
    | _ => .next s
  | none => .next s

/-- TLBF (R401, R403): a fill is installed, and the miss that it answers ends; without an entry that miss has faulted. -/
def execTlbf (k : Nat) (s : State) : Host.Outcome State Fault Refusal :=
  match s.request k [15] with
  | some r =>
    match r.body with
    | .tlbf e q va =>
      let c := unitCore r.dst
      let s := match e with
        | some e => (s.fillTlb c e).modCore c fun k => k.modCtl fun x => { x with misses := x.misses.filter fun y => some y.q != q || y.va != va || y.faulted }
        | none => s.modCore c fun k => k.modCtl fun x => { x with
            misses := x.misses.map fun (y : Miss) => if some y.q = q ∧ y.va = va then { y with faulted := true } else y }
      .next (s.answer r 0 .none)
    | _ => .next s
  | none => .next s

/-! ## Form (R414) -/

/-- Major 0x50. -/
def Form.walk : Form := { Form.control with group := 5 }

/-- Firmware privilege (R414). -/
def State.firmware (s : State) : Try Unit := if s.pm = 2 then .ok () else denied s

/-- The sent request of this instruction has its answer: the word kept when it was sent; none where nothing was sent. -/
def State.answered (s : State) : Try (Option Word) :=
  match s.sentAnswer with
  | none => .ok none
  | some w =>
    if w.left ≠ 0 then stall .answer
    else if w.status ≠ 0 then .error (.error w.status s.pc)
    else .ok (some (BitVec.ofNat 64 w.asked))

/-! ## `tlbw` (R415) -/

/-- The frame range of an entry contains a hole (R36): it lies in one unit, whose storage begins at offset 0. -/
def State.frameHole (s : State) (e : TlbEntry) : Bool :=
  let a := e.dw1.toNat / 2 ^ 14 * 2 ^ 14
  s.place a == .hole || s.place (a + 2 ^ e.shift - 1) == .hole

/-- A worker of the acting translation service core's cluster. -/
def State.ofCluster (s : State) (c : CoreName) : Bool :=
  isWorker c && dieOf c == dieOf s.cur && cluster c == cluster s.cur

/-- TLBW (R415). -/
def execTlbw (d a b : Reg) (s : State) : Host.Outcome State Fault Refusal :=
  run .walk s do
    s.firmware
    let g ← s.block a 2
    let w ← s.src b
    s.dst d
    match ← s.answered with
    | some _ => return (s.setG d 0).next 4
    | none => pure ()
    let x := (g[0]?).getD 0
    let y := (g[1]?).getD 0
    let ans := bit w 35
    let kind := (bits w 16 2).toNat
    let core : CoreName := bits w 0 16
    check s (bits w 42 6 == 0 && bits w 18 17 == 0)
    check s (!(ans && (kind == 1 || kind == 3)))
    check s ((!ans && (kind == 0 || kind == 2)) || core == 0)
    if kind = 3 then
      check s (bits x 0 12 == 0 && y == 0)
      return ((s.modService s.cur fun v => { v with ring := x.toNat }).setG d 0).next 4
    let e : TlbEntry := ⟨bits w 48 16, x, y⟩
    let token := (s.service s.cur).tokens.find? (·.num == (bits w 36 6).toNat)
    let target ← (match ans, token with
      | true, some t => (.ok (some t.core) : Try (Option CoreName))
      | _, _ => .ok (if kind = 1 then none else some core))
    if ans ∧ token.isNone then return (s.setG d 1).next 4
    if !ans ∧ kind ≠ 1 ∧ s.ofCluster core = false then return (s.setG d 2).next 4
    let valid := bit x 63
    if valid ∧ (e.malformed ∨ s.frameHole e) then return (s.setG d 3).next 4
    let needs := valid || ans
    let n := s.fresh
    let t : State := if valid && (kind == 1 || kind == 2) then
      { s.modService s.cur (fun v => { v with tlb := tlbPut v.tlb 2048 n e }) with fresh := n + 1 } else s
    match target with
    | none => return (t.setG d 0).next 4
    | some c =>
      if !needs then return (t.setG d 0).next 4
      if s.canPost s.unit (coreUnit s c) 1 = false then stall .space
      let va := if ans then token.elim 0 (·.req.va) else 0
      let t := if ans then t.modService t.cur fun v => { v with tokens := v.tokens.filter fun k => some k.num != token.map (·.num) } else t
      return t.ask (coreUnit t c) 15 e.ctx (.tlbf (if valid then some e else none) (if ans then token.map (·.q) else none) va) false

/-! ## `tlbi` and `tlbig` (R416) -/

/-- The TLBs in scope: the cores, and the translation service cores with their cluster TLBs. -/
def State.tlbScope (s : State) (whole : Bool) : List CoreName :=
  if whole then ((s.partOf (dieOf s.cur)).elim [] s.partCores)
  else (coresOf (dieOf s.cur)).filter fun c => cluster c == cluster s.cur

/-- The names of the accesses, gated stores and engine operations of a core that may have been translated through an entry in `gone`, in any
page of theirs. -/
def Core.through (k : Core) (gone : List TlbEntry) : List Nat :=
  if gone.isEmpty then []
  else
    let ctx (q : Seq) : BitVec 16 := match q, k.msg.bank with
      | .routine, some b => b.bind.ctx
      | _, _ => bits k.ctl.k.kctx 16 16
    let hit (q : Seq) (va : Word) (n : Nat) : Bool :=
      gone.any fun e => TlbEntry.hits e (ctx q) va || TlbEntry.hits e (ctx q) (va + BitVec.ofNat 64 (n - 1))
    ((k.mem.loads.filter fun l => hit l.q l.va l.bytes).map (·.id)) ++
      ((k.mem.stores.filter fun r => hit r.q r.va (r.spans.map (·.2)).sum).flatMap fun r => r.ids ++ r.gated.toList) ++
      ((k.pair.elim [] (·.gate)).filter fun g => hit .control g.va (g.segs.map (·.2.length)).sum).map (·.id) ++
      k.mem.ops.map (·.id)

/-- What the end of a removal waits for: an access or operation by its name, or the reads of an instruction that gathers them. -/
inductive Pending
  | name (n : Nat)
  | reads (c : CoreName) (pc : Word)
  deriving DecidableEq, Repr

/-- It is not over at any core in scope. -/
def State.pendingName (s : State) (cs : List CoreName) (x : Pending) : Bool :=
  match x with
  | .name n => cs.any fun c =>
      let k := s.getCore c
      k.mem.loads.any (·.id == n) || k.mem.stores.any (fun r => r.ids.contains n || r.gated == some n) ||
        k.pair.any (fun p => p.gate.any (·.id == n)) || k.mem.ops.any (·.id == n)
  | .reads c pc => (s.getCore c).ctl.awaits.any fun a => a.pc == pc && !a.sent && decide (a.out ≠ 0)

/-- What a core has under way that may have been translated through an entry in `gone`. -/
def Core.pendings (k : Core) (c : CoreName) (gone : List TlbEntry) : List Pending :=
  (k.through gone).map .name ++
    if gone.isEmpty then [] else (k.ctl.awaits.filter fun a => !a.sent && decide (a.out ≠ 0)).map fun a => .reads c a.pc

/-- It as it is kept while the instruction waits. -/
def Pending.kept : Pending → Nat × List Byte
  | .name n => (n, [])
  | .reads c pc => (c.toNat, toBytes 8 pc.toNat)
/-- What was kept. -/
def Pending.ofKept (x : Nat × List Byte) : Pending :=
  if x.2.isEmpty then .name x.1 else .reads (BitVec.ofNat 16 x.1) (BitVec.ofNat 64 (ofBytes x.2))

/-- Remove the entries that satisfy `f` from every TLB in scope: how many, and what their cores still have under way. -/
def State.removeEntries (s : State) (cs : List CoreName) (f : TlbEntry → Bool) : Nat × List Pending × State :=
  let gone (c : CoreName) : List TlbEntry := (s.getCore c).mem.tlb.filter f
  let vs := cs.filter isService
  let n := (cs.map fun c => (gone c).length).sum + (vs.map fun c => ((s.service c).tlb.filter f).length).sum
  let names := cs.flatMap fun c => (s.getCore c).pendings c (gone c)
  let s := cs.foldl (fun (s : State) c => if (gone c).isEmpty then s else s.modCore c fun k => k.modMem fun m => { m with tlb := m.tlb.filter fun e => !f e }) s
  let s := vs.foldl (fun (s : State) c => s.modService c fun v => { v with tlb := v.tlb.filter fun e => !f e }) s
  (n, names, s)

/-- The removing instructions: entries go at once; the instruction ends when what used them is over. Fills that this core sent
before are installed first (R420). -/
def State.removing (s : State) (d : Reg) (whole : Bool) (f : TlbEntry → Bool) : Try State := do
  let cs := s.tlbScope whole
  match s.sentAnswer with
  | some w =>
    waitFor ((w.got.drop 1).all fun x => !s.pendingName cs (.ofKept x)) .answer
    return (s.setG d (BitVec.ofNat 64 (Nat.min (w.got.head?.elim 0 (·.1)) 0xFFFFFFFF))).next 4
  | none =>
    waitFor (s.fab.outst.all fun o => !(o.src == s.unit && o.cls == 15 && o.answer.isNone)) .answer
    let (n, names, t) := s.removeEntries cs f
    let n' := t.fresh
    let t := t.setAwaits 0 true
    return t.modCtl fun c => { c with
      awaits := c.awaits.map fun (w : Await) => if w.id = n' then { w with got := (n, []) :: names.map Pending.kept } else w }

/-- TLBI (R416). -/
def execTlbi (d a b : Reg) (s : State) : Host.Outcome State Fault Refusal :=
  run .walk s do
    s.firmware
    let va ← s.src a
    let w ← s.src b
    s.dst d
    let n := (bits w 0 32).toNat
    check s (bits w 33 15 == 0 && decide (1 ≤ n ∧ va.toNat + 16384 * n ≤ 2 ^ 57))
    if va.toNat % 16384 ≠ 0 then raise 0x03 va
    s.removing d (bit w 32) fun e =>
      let p := e.dw0.toNat % 2 ^ 57 / 2 ^ e.shift * 2 ^ e.shift
      e.ctx == bits w 48 16 && decide (p < va.toNat + 16384 * n ∧ va.toNat < p + 2 ^ e.shift)

/-- TLBIG (R416). -/
def execTlbig (d b : Reg) (s : State) : Host.Outcome State Fault Refusal :=
  run .walk s do
    s.firmware
    let w ← s.src b
    s.dst d
    let mode := (bits w 8 2).toNat
    check s (bits w 33 15 == 0 && bits w 10 22 == 0 && decide (mode ≠ 3) && (mode != 2 || bits w 48 16 == 0))
    s.removing d (bit w 32) fun e =>
      match mode with
      | 0 => e.ctx == bits w 48 16 && !genNotBefore e.gen (bits w 0 8).toNat && decide (((bits w 0 8).toNat + 256 - e.gen) % 256 < 128)
      | 1 => e.ctx == bits w 48 16
      | _ => true

/-! ## `ship` (R405 to R408, R417) -/

/-- The worker that R408 chooses for an address, for a task that has used `groups`. -/
def State.chooseWorker (s : State) (pa : Nat) (groups : BitVec 6) (die : Nat) : Option CoreName :=
  let u? : Option CoreName := match s.place pa with
    | .memory => some (unitCore (s.home pa))
    | .sram c => if ((s.getCore c).mem.pages.get (pageOf pa)).role = .tile then some c else none
    | _ => none
  u?.bind fun u =>
    let able (c : CoreName) : Bool := isWorker c && (groups &&& ~~~coreGroups c) == 0 && decide ((s.getCore c).sched.resume.length < 32)
    let l := if s.partOf (dieOf u) = s.partOf die then coresOf (dieOf u) else []
    match l.find? fun c => able c && cluster c == cluster u with
    | some c => some c
    | none => l.find? able

/-- The destination that the word names for a task of core `c`: the core, or the status (R417). -/
def State.shipDest (s : State) (w : CoreName) (c : CoreName) (groups : BitVec 6) (entry : Option TlbEntry) (va : Word)
    (tiles : List (TileNo × List Byte)) : CoreName ⊕ Word :=
  let found := if w = 0xFFFF then entry.bind fun e => s.chooseWorker (e.pa va) groups (dieOf c) else some w
  match found with
  | none => .inr 0x8000000000000003#64
  | some d =>
    if w ≠ 0xFFFF ∧ (isWorker d = false ∨ s.partOf (dieOf d) ≠ s.partOf (dieOf c) ∨ (groups &&& ~~~coreGroups d) ≠ 0) then
      .inr 0x8000000000000002#64
    else if s.takesShip d tiles then .inl d else .inr 0x8000000000000003#64

/-- The tiles of a task that is parked are written to scratch backing frames of the task (R407). -/
def State.parkTiles (s : State) (h : Ship) : State :=
  (h.tiles.foldl (fun (x : Nat × State) t =>
    (x.1 + t.2.length / 4096, x.2.deviceWrite (taskFrame h.saved.task.id x.1) t.2)) (56, s)).2

/-- Ship or park the task of a token (R405, R407). Its `balloc` that waits is withdrawn with it (R350). -/
def State.shipToken (s : State) (d : Reg) (t : Token) (w : Word) : Try State := do
  let c := t.core
  let quiet := s.withdrawAlloc c
  let k := s.getCore c
  let entry := winner (s.service s.cur).tlb t.ctx t.req.va
  let groups := k.ctl.task.elim t.req.groups (·.groups)
  let tiles := k.ctl.task.elim [] fun x => s.tileContents c (k.saved x)
  if t.req.q = .routine then return (s.setG d 0x8000000000000005#64).next 4
  if k.pair.isSome then return (s.dissolve c).setStall .answer
  let free (s : State) : State := s.modService s.cur fun v => { v with tokens := v.tokens.filter (·.num != t.num) }
  if bit w 16 then
    match leastFree ((s.service s.cur).parks.map (·.1)) with
    | none => return (s.setG d 0x8000000000000004#64).next 4
    | some n =>
      waitFor ((quiet.getCore c).drained && !s.deferred c) .answer
      match (quiet.shipOff c none t.req.va).map fun y => (y.1, y.2.parkTiles y.1) with
      | some (h, x) => return (((free x).modService x.cur fun v => { v with parks := v.parks ++ [(n, h)] }).setG d (BitVec.ofNat 64 n)).next 4
      | none => return (s.setG d 0x8000000000000001#64).next 4
  else
    match s.shipDest (bits w 0 16) c groups entry t.req.va tiles with
    | .inr x => return (s.setG d x).next 4
    | .inl v =>
      if k.ctl.task.any (·.team.isSome) then
        return (((free s).modCore c fun k => k.modCtl fun x => { x with leave := some ⟨v, entry, t.req.va⟩ }).setG d 0).next 4
      waitFor (quiet.getCore c).drained .answer
      if s.canPost (coreUnit s c) (coreUnit s v) 1 = false then stall .space
      let s := free quiet
      return (s.setAwaits 1 true).shipTo c v entry t.req.va (.await s.cur s.seq s.fresh 0)

/-- SHIP (R417). -/
def execShip (d a b : Reg) (s : State) : Host.Outcome State Fault Refusal :=
  run .walk s do
    s.firmware
    let x ← s.src a
    let w ← s.src b
    s.dst d
    let parked := bit x 63
    check s (bits x 6 57 == 0 && bits w 17 47 == 0)
    check s (!bit w 16 || (bits w 0 16 == 0 && !parked))
    match ← s.answered with
    | some _ => return (s.setG d 0).next 4
    | none => pure ()
    let n := (bits x 0 6).toNat
    let v := s.service s.cur
    if parked then
      match v.parks.find? (·.1 == n) with
      | none => return (s.setG d 0x8000000000000001#64).next 4
      | some (_, h) =>
        let entry := winner v.tlb h.saved.task.ctx h.va
        match s.shipDest (bits w 0 16) s.cur h.saved.task.groups entry h.va h.tiles with
        | .inr r => return (s.setG d r).next 4
        | .inl c =>
          if s.canPost s.unit (coreUnit s c) 1 = false then stall .space
          let t := s.modService s.cur fun v => { v with parks := v.parks.filter (·.1 != n) }
          return t.ask (coreUnit t c) 16 h.saved.task.ctx (.ship (Ship.of h.saved entry h.tiles h.va)) false
    else
      match v.tokens.find? (·.num == n) with
      | none => return (s.setG d 0x8000000000000001#64).next 4
      | some t => s.shipToken d t w

/-- A task whose ship record fails its CRC is discarded with RECCRC, which is charged to its chamber (R406). -/
def State.rejectShip (s : State) (c : CoreName) (v : Saved) : State :=
  let w : Who := ⟨c, v.thr.kepc, v.thr.kaddr, v.k.kcnt⟩
  let s := (s.discardSaved v).event (dieOf c) ⟨5, 0x09, c, v.task.ctx, v.task.cid, 0, 0⟩
  let s := s.report v.task.ctx v.task.cid 0x09 0 4 c w.kepc w.kaddr w.kcnt
  s.rung3 v.task.ctx v.task.cid 0x09 w

/-- SHIP_ARRIVAL (R405, R406): the task enters the destination's resume list with its tiles, the carried entry installed. -/
def execShipArrival (k : Nat) (s : State) : Host.Outcome State Fault Refusal :=
  match s.request k [16] with
  | some r =>
    let c := unitCore r.dst
    match r.body with
    | .ship h =>
      if shipSound h.record = false then .next ((s.answer r 0 .none).rejectShip c h.saved)
      else if s.takesShip c h.tiles then
        let s := h.entry.elim s (s.fillTlb c)
        let (s, v) := h.tiles.foldl (State.placeTile s c) (s, h.saved)
        let s := s.modCore c fun k => k.modSched fun x => { x with resume := x.resume ++ [⟨v, false, false, false⟩] }
        .next (s.answer r 0 .none)
      else .next (s.keep r)
    | _ => .next (s.answer r 0 .none)
  | none => .next s

/-- MIGRATION (R111): a drained task that met a page opcode moves to a page core of its cluster, or of its die. -/
def execMigration (c : CoreName) (s : State) : Host.Outcome State Fault Refusal :=
  let k := s.getCore c
  match k.ctl.task with
  | none => .next s
  | some t =>
    let met := decide (k.ctl.run = .task) && !k.ctl.stopped && t.team.isNone && (k.ctl.stalls.any fun e => e.1 == .control && e.2 == .migration)
    let able (d : CoreName) : Bool := isWorker d && bit (coreGroups d) 4 && decide ((s.getCore d).sched.resume.length < 32)
    let near := (coresOf (dieOf c)).find? fun d => able d && cluster d == cluster c
    match if near.isSome then near else (coresOf (dieOf c)).find? able with
    | some d =>
      if met && k.drained && s.canPost (coreUnit s c) (coreUnit s d) 1 then .next (s.shipTo c d none 0 .none) else .next s
    | none => .next s

/-! ## Page migration (R411 to R413, R418) -/

/-- A range of frames lies in one unit of HBM4E or LPDDR-6, or in one core's tile pages. -/
def State.oneUnit (s : State) (a n : Nat) : Bool :=
  addrUnit a == addrUnit (a + n - 1) && a / 2 ^ 41 == (a + n - 1) / 2 ^ 41 &&
    match s.place a with
    | .memory => s.place (a + n - 1) == .memory
    | .sram c => s.place (a + n - 1) == .sram c &&
        (List.range (n / 4096)).all fun i => ((s.getCore c).mem.pages.get (pageOf (a + 4096 * i))).role == .tile
    | _ => false

/-- MIGR_BEGIN (R418). -/
def execMigrBegin (d a b : Reg) (s : State) : Host.Outcome State Fault Refusal :=
  run .walk s do
    s.firmware
    let g ← s.block a 2
    let w ← s.src b
    s.dst d
    let old := (g[0]?).getD 0
    let new := (g[1]?).getD 0
    check s (decide (1 ≤ w.toNat ∧ w.toNat ≤ 32768))
    if old.toNat % 16384 ≠ 0 then raise 0x03 old
    if new.toNat % 16384 ≠ 0 then raise 0x03 new
    let n := 16384 * w.toNat
    let apart := decide (old.toNat + n ≤ new.toNat ∨ new.toNat + n ≤ old.toNat)
    if !(s.oneUnit old.toNat n && s.oneUnit new.toNat n && apart) then return (s.setG d 0x8000000000000002#64).next 4
    let p := (s.partOf (dieOf s.cur)).getD 0
    let used := (s.homes.migrations.filter (·.part == p)).map (·.num)
    match (List.range 8).find? fun i => !used.contains i with
    | none => return (s.setG d 0x8000000000000001#64).next 4
    | some i =>
      return ((s.modHomes fun h => { h with
        migrations := h.migrations ++ [⟨p, i, old.toNat, new.toNat, n / 128, 0⟩] }).setG d (BitVec.ofNat 64 i)).next 4

/-- Extents of a page that has migrated take the new frame (R436). -/
def State.moveExtents (s : State) (m : Migration) : State :=
  s.modMgmt fun x => { x with reserve := { x.reserve with extents := x.reserve.extents.map fun e =>
    if m.old ≤ e.frame ∧ e.frame < m.old + 128 * m.lines then { e with frame := e.frame - m.old + m.new } else e } }

/-- MIGR_END (R418). -/
def execMigrEnd (d a : Reg) (s : State) : Host.Outcome State Fault Refusal :=
  run .walk s do
    s.firmware
    let x ← s.src a
    s.dst d
    check s (bits x 3 61 == 0)
    let p := (s.partOf (dieOf s.cur)).getD 0
    match s.homes.migrations.find? fun m => m.part == p && m.num == x.toNat with
    | none => return (s.setG d 1).next 4
    | some m =>
      waitFor (decide (m.lines ≤ m.moved)) .answer
      let s := s.modHomes fun h => { h with migrations := h.migrations.filter fun y => !(y.part == p && y.num == m.num) }
      return ((s.moveExtents m).setG d 0).next 4

/-- LINE_MOVE (R411): the next line of the `n`-th migration moves, once no owner holds its words. -/
def execLineMove (n : Nat) (s : State) : Host.Outcome State Fault Refusal :=
  match s.homes.migrations[n]? with
  | none => .next s
  | some m =>
    if m.lines ≤ m.moved then .next s
    else
      let a := m.old + 128 * m.moved
      let b := m.new + 128 * m.moved
      let owned (x : Nat) : Option State := if s.place x = .memory then s.reclaim (x / 128) 0xFFFFFFFF#32 0 else none
      match owned a, owned b with
      | some t, _ => .next t
      | none, some t => .next t
      | none, none =>
        let u := s.ownerUnit a
        if s.codedStall b 128 ∨ s.deltaRoom u b 128 = false then .next s
        else
          let bad := s.unreadable a 128
          let t := s.engineWrite u b (s.readLine a 128) 0 parityMove
          let t := if bad then t.poisonLine b else t
          .next (t.modHomes fun h => { h with migrations := h.migrations.map fun (x : Migration) =>
            if x.part = m.part ∧ x.num = m.num then { x with moved := x.moved + 1 } else x })

/-! ## Redirects (R412) -/

/-- A request with its address replaced. -/
def Body.moveTo (b : Body) (a : Nat) : Body :=
  match b with
  | .ld _ n f => .ld a n f
  | .st _ n v => .st a n v
  | .stl _ d => .stl a d
  | .amo op _ n x y => .amo op a n x y
  | .wb _ m d => .wb (a / 128) m d
  | .copyd c o m _ d p => .copyd c o m a d p
  | b => b

/-- The unit that serves a redirected request at its new address (R303, R412): for a streamer's, the owner of the bytes. -/
def State.newUnit (s : State) (b : Body) (a : Nat) : UnitName :=
  match b with
  | .copyq _ _ => s.ownerUnit a
  | .copyd _ _ _ _ _ _ => s.ownerUnit a
  | .gsub _ _ _ => s.ownerUnit a
  | .ssub _ _ _ => s.ownerUnit a
  | _ => s.server a

/-- The stores that stand for registered words: whole words, halves or bytes, as they were stored (R198). -/
def State.plainStores (s : State) (c : CoreName) (id line : Nat) (mask : W32) (a : Nat) : List (Nat × List Byte) :=
  (maskWords line mask).flatMap fun w =>
    let at_ := (s.stashAddr c (4 * w)).getD 0
    let bs := readBytes s.mem at_ 4
    let on := (List.range 4).filter fun i => (s.getCore c).coveredBy id (4 * w + i)
    let here (i n : Nat) : Nat × List Byte := (a + (4 * w - 128 * line) + i, (bs.drop i).take n)
    if on.length = 4 then [here 0 4]
    else if on = [0, 1] then [here 0 2]
    else if on = [2, 3] then [here 2 2]
    else on.map fun i => here i 1

/-- Other registrations of words of a stash page are under way, not redirected. -/
def State.pageBusy (s : State) (c : CoreName) (page : Nat) (me : Outst) : Bool :=
  s.fab.outst.any fun o => o != me && match o.purpose with
    | .reg d _ l _ => d == c && l / 32 == page && (match o.answer with
      | some (_, .redir _) => false
      | _ => true)
    | _ => false

/-- A redirected registration (R412): its words go by plain stores to the new address; the page's owned words are written back
and the page is unmapped once no word of it is in P. -/
def State.redirectReg (s : State) (o : Outst) (c : CoreName) (id line : Nat) (mask : W32) (a : Nat) : State :=
  let page := line / 32
  let parts := s.plainStores c id line mask a
  let v := s.server a
  if s.pageBusy c page o ∨ s.canPost o.src v parts.length = false then s
  else
    let n := s.fresh
    let ids := (List.range parts.length).map (n + ·)
    let s := { (s.forget o) with fresh := n + parts.length }
    let s := s.modCore c fun k => (k.setWords (maskWords line mask) none).modMem fun m => { m with
      stores := m.stores.map fun (r : StoreRec) => if r.ids.contains id then { r with ids := r.ids.filter (· != id) ++ ids } else r }
    let s := (List.range parts.length).foldl (fun (s : State) i =>
      (parts[i]?).elim s fun p => s.post o.src v 2 o.ctx false false (.st p.1 p.2.length (BitVec.ofNat 64 (ofBytes p.2))) (.store c (n + i))) s
    let k := s.getCore c
    if (k.wordsIn .P [page]).isEmpty then
      let lines := ((k.wordsIn .O [page]).map (· / 32)).eraseDups
      let s := lines.foldl (fun (s : State) l =>
        s.takeBack l (maskOf (((s.getCore c).wordsIn .O [page]).filter fun w => w / 32 == l))) s
      s.modCore c fun k => k.unmapStash [page]
    else s

/-- REDIR (R412): the requester takes it as the completion and sends the request again to the new unit. -/
def execRedir (k : Nat) (s : State) : Host.Outcome State Fault Refusal :=
  match s.fab.outst[k]? with
  | none => .next s
  | some o =>
    match o.answer with
    | some (_, .redir a) =>
      match o.purpose with
      | .reg c id line mask => .next (s.redirectReg o c id line mask a)
      | p =>
        let u := s.newUnit o.body a
        if s.canPost o.src u 1 then
          .next ((s.forget o).post o.src u o.cls.toNat o.ctx o.nw o.ns (o.body.moveTo a) p)
        else .next s
    | _ => .next s

/-! ## `pgreq` (R419) -/

/-- PGREQ (R419). -/
def execPgreq (d a b : Reg) (s : State) : Host.Outcome State Fault Refusal :=
  run { Form.control with exchange := true } s do
    let va ← s.src a
    let n ← s.src b
    s.dst d
    check s (decide (1 ≤ n.toNat ∧ n.toNat ≤ 64))
    if va.toNat % 16384 ≠ 0 then raise 0x03 va
    let v := serviceOf s.cur
    let pages := (List.range n.toNat).map fun i => va + BitVec.ofNat 64 (16384 * i)
    let here (p : Word) : Bool :=
      ((winner s.core.mem.tlb s.ctx p).any (·.permits .load)) || (s.clusterHit v s.ctx p 0).isSome
    let groups := s.core.ctl.task.elim 1 (·.groups)
    let flags : Byte := if s.core.ctl.task.any (·.team.isSome) then 2 else 0
    let t := (pages.filter fun p => !here p).foldl (fun (t : State) p =>
      let ring := (t.service v).ring
      if t.ringRoom ring then t.ringRecord ring (missRecord p t.cur t.ctx 6 flags 0xFF groups t.pc) else t) s
    return (t.setG d (BitVec.ofNat 64 ((pages.filter here).length))).next 4

end Sys2Proof.Machine
end

