-- ==== Sys2Proof/Machine/Dispatch.lean ====
section
/-! DEFINITION. The meaning of each instruction and step: one arm for each constructor of Instr. -/

namespace Sys2Proof.Machine

def exec (i : Instr) (s : State) : Host.Outcome State Fault Refusal :=
  match i with
  | .add w d a b => Sys2Proof.Machine.execAdd w d a b s
  | .sub w d a b => Sys2Proof.Machine.execSub w d a b s
  | .and w d a b => Sys2Proof.Machine.execAnd w d a b s
  | .or w d a b => Sys2Proof.Machine.execOr w d a b s
  | .xor w d a b => Sys2Proof.Machine.execXor w d a b s
  | .shl w d a b => Sys2Proof.Machine.execShl w d a b s
  | .shr w d a b => Sys2Proof.Machine.execShr w d a b s
  | .sar w d a b => Sys2Proof.Machine.execSar w d a b s
  | .slt w d a b => Sys2Proof.Machine.execSlt w d a b s
  | .sltu w d a b => Sys2Proof.Machine.execSltu w d a b s
  | .min w d a b => Sys2Proof.Machine.execMin w d a b s
  | .max w d a b => Sys2Proof.Machine.execMax w d a b s
  | .mul w d a b => Sys2Proof.Machine.execMul w d a b s
  | .mulh w d a b => Sys2Proof.Machine.execMulh w d a b s
  | .div w d a b => Sys2Proof.Machine.execDiv w d a b s
  | .rem w d a b => Sys2Proof.Machine.execRem w d a b s
  | .addImmD d a imm => Sys2Proof.Machine.execAddImmD d a imm s
  | .andImmD d a imm => Sys2Proof.Machine.execAndImmD d a imm s
  | .orImmD d a imm => Sys2Proof.Machine.execOrImmD d a imm s
  | .xorImmD d a imm => Sys2Proof.Machine.execXorImmD d a imm s
  | .shlImmD d a imm => Sys2Proof.Machine.execShlImmD d a imm s
  | .shrImmD d a imm => Sys2Proof.Machine.execShrImmD d a imm s
  | .sarImmD d a imm => Sys2Proof.Machine.execSarImmD d a imm s
  | .sltImmD d a imm => Sys2Proof.Machine.execSltImmD d a imm s
  | .sltuImmD d a imm => Sys2Proof.Machine.execSltuImmD d a imm s
  | .minImmD d a imm => Sys2Proof.Machine.execMinImmD d a imm s
  | .maxImmD d a imm => Sys2Proof.Machine.execMaxImmD d a imm s
  | .mulImmD d a imm => Sys2Proof.Machine.execMulImmD d a imm s
  | .addImmW d a imm => Sys2Proof.Machine.execAddImmW d a imm s
  | .andImmW d a imm => Sys2Proof.Machine.execAndImmW d a imm s
  | .orImmW d a imm => Sys2Proof.Machine.execOrImmW d a imm s
  | .xorImmW d a imm => Sys2Proof.Machine.execXorImmW d a imm s
  | .shlImmW d a imm => Sys2Proof.Machine.execShlImmW d a imm s
  | .shrImmW d a imm => Sys2Proof.Machine.execShrImmW d a imm s
  | .sarImmW d a imm => Sys2Proof.Machine.execSarImmW d a imm s
  | .sltImmW d a imm => Sys2Proof.Machine.execSltImmW d a imm s
  | .sltuImmW d a imm => Sys2Proof.Machine.execSltuImmW d a imm s
  | .minImmW d a imm => Sys2Proof.Machine.execMinImmW d a imm s
  | .maxImmW d a imm => Sys2Proof.Machine.execMaxImmW d a imm s
  | .mulImmW d a imm => Sys2Proof.Machine.execMulImmW d a imm s
  | .li d imm => Sys2Proof.Machine.execLi d imm s
  | .leaPc d imm => Sys2Proof.Machine.execLeaPc d imm s
  | .leaReg d a imm => Sys2Proof.Machine.execLeaReg d a imm s
  | .jr a imm => Sys2Proof.Machine.execJr a imm s
  | .beq a b o => Sys2Proof.Machine.execBeq a b o s
  | .bne a b o => Sys2Proof.Machine.execBne a b o s
  | .blt a b o => Sys2Proof.Machine.execBlt a b o s
  | .bge a b o => Sys2Proof.Machine.execBge a b o s
  | .bltu a b o => Sys2Proof.Machine.execBltu a b o s
  | .bgeu a b o => Sys2Proof.Machine.execBgeu a b o s
  | .jal d o => Sys2Proof.Machine.execJal d o s
  | .b o => Sys2Proof.Machine.execB o s
  | .krd d k => Sys2Proof.Machine.execKrd d k s
  | .kwr a k => Sys2Proof.Machine.execKwr a k s
  | .trap imm => Sys2Proof.Machine.execTrap imm s
  | .kret => Sys2Proof.Machine.execKret s
  | .ebrk imm => Sys2Proof.Machine.execEbrk imm s
  | .halt => Sys2Proof.Machine.execHalt s
  | .wait l sv c x => Sys2Proof.Machine.execWait l sv c x s
  | .rend => Sys2Proof.Machine.execRend s
  | .nop => Sys2Proof.Machine.execNop s
  | .fork a b => Sys2Proof.Machine.execFork a b s
  | .fmt f g h sv t e => Sys2Proof.Machine.execFmt f g h sv t e s
  | .ld z d a o => Sys2Proof.Machine.execLd z d a o s
  | .ldAcq z d a o => Sys2Proof.Machine.execLdAcq z d a o s
  | .st z d a o => Sys2Proof.Machine.execSt z d a o s
  | .stRel z d a o => Sys2Proof.Machine.execStRel z d a o s
  | .amoSwap q w d a b => Sys2Proof.Machine.execAmoSwap q w d a b s
  | .amoCas q w d a b => Sys2Proof.Machine.execAmoCas q w d a b s
  | .amoAdd q w d a b => Sys2Proof.Machine.execAmoAdd q w d a b s
  | .amoAnd q w d a b => Sys2Proof.Machine.execAmoAnd q w d a b s
  | .amoOr q w d a b => Sys2Proof.Machine.execAmoOr q w d a b s
  | .amoXor q w d a b => Sys2Proof.Machine.execAmoXor q w d a b s
  | .amoMin q w d a b => Sys2Proof.Machine.execAmoMin q w d a b s
  | .amoMax q w d a b => Sys2Proof.Machine.execAmoMax q w d a b s
  | .amoFadd q d a b => Sys2Proof.Machine.execAmoFadd q d a b s
  | .fenceAcq => Sys2Proof.Machine.execFenceAcq s
  | .fenceRel => Sys2Proof.Machine.execFenceRel s
  | .fenceFull => Sys2Proof.Machine.execFenceFull s
  | .stashMap d a b => Sys2Proof.Machine.execStashMap d a b s
  | .stashUnmap a b => Sys2Proof.Machine.execStashUnmap a b s
  | .stashWb a b => Sys2Proof.Machine.execStashWb a b s
  | .spill a b => Sys2Proof.Machine.execSpill a b s
  | .fill d a b => Sys2Proof.Machine.execFill d a b s
  | .tstate d a => Sys2Proof.Machine.execTstate d a s
  | .tmld a m => Sys2Proof.Machine.execTmld a m s
  | .tmst a m => Sys2Proof.Machine.execTmst a m s
  | .spawn d a b => Sys2Proof.Machine.execSpawn d a b s
  | .spawnt d a b => Sys2Proof.Machine.execSpawnt d a b s
  | .retire => Sys2Proof.Machine.execRetire s
  | .yield => Sys2Proof.Machine.execYield s
  | .chopen d a b => Sys2Proof.Machine.execChopen d a b s
  | .chclose d a => Sys2Proof.Machine.execChclose d a s
  | .nest d a b => Sys2Proof.Machine.execNest d a b s
  | .chbudget d a b => Sys2Proof.Machine.execChbudget d a b s
  | .chprio d a b => Sys2Proof.Machine.execChprio d a b s
  | .nextit o => Sys2Proof.Machine.execNextit o s
  | .vfadd l p d a b => Sys2Proof.Machine.execVfadd l p d a b s
  | .vfsub l p d a b => Sys2Proof.Machine.execVfsub l p d a b s
  | .vfmul l p d a b => Sys2Proof.Machine.execVfmul l p d a b s
  | .vfma l p d a b => Sys2Proof.Machine.execVfma l p d a b s
  | .vfms l p d a b => Sys2Proof.Machine.execVfms l p d a b s
  | .vfmin l p d a b => Sys2Proof.Machine.execVfmin l p d a b s
  | .vfmax l p d a b => Sys2Proof.Machine.execVfmax l p d a b s
  | .vfabs l p d a => Sys2Proof.Machine.execVfabs l p d a s
  | .vadd l p d a b => Sys2Proof.Machine.execVadd l p d a b s
  | .vsub l p d a b => Sys2Proof.Machine.execVsub l p d a b s
  | .vmul l p d a b => Sys2Proof.Machine.execVmul l p d a b s
  | .vmin l p d a b => Sys2Proof.Machine.execVmin l p d a b s
  | .vmax l p d a b => Sys2Proof.Machine.execVmax l p d a b s
  | .vand l p d a b => Sys2Proof.Machine.execVand l p d a b s
  | .vor l p d a b => Sys2Proof.Machine.execVor l p d a b s
  | .vxor l p d a b => Sys2Proof.Machine.execVxor l p d a b s
  | .vshl l p d a sv => Sys2Proof.Machine.execVshl l p d a sv s
  | .vshr l p d a sv => Sys2Proof.Machine.execVshr l p d a sv s
  | .vsar l p d a sv => Sys2Proof.Machine.execVsar l p d a sv s
  | .vsadd l p d a b => Sys2Proof.Machine.execVsadd l p d a b s
  | .vssub l p d a b => Sys2Proof.Machine.execVssub l p d a b s
  | .vabs l p d a => Sys2Proof.Machine.execVabs l p d a s
  | .vneg l p d a => Sys2Proof.Machine.execVneg l p d a s
  | .vcmpeq l p d a b => Sys2Proof.Machine.execVcmpeq l p d a b s
  | .vcmplt l p d a b => Sys2Proof.Machine.execVcmplt l p d a b s
  | .vcmple l p d a b => Sys2Proof.Machine.execVcmple l p d a b s
  | .vfcmpeq l p d a b => Sys2Proof.Machine.execVfcmpeq l p d a b s
  | .vfcmplt l p d a b => Sys2Proof.Machine.execVfcmplt l p d a b s
  | .vfcmple l p d a b => Sys2Proof.Machine.execVfcmple l p d a b s
  | .vsel l p d a b => Sys2Proof.Machine.execVsel l p d a b s
  | .vfredsum l p d a b => Sys2Proof.Machine.execVfredsum l p d a b s
  | .vfredmax l p d a b => Sys2Proof.Machine.execVfredmax l p d a b s
  | .vfredmin l p d a b => Sys2Proof.Machine.execVfredmin l p d a b s
  | .vredsum l p d a b => Sys2Proof.Machine.execVredsum l p d a b s
  | .vredmax l p d a b => Sys2Proof.Machine.execVredmax l p d a b s
  | .vredmin l p d a b => Sys2Proof.Machine.execVredmin l p d a b s
  | .vperm l p d a b => Sys2Proof.Machine.execVperm l p d a b s
  | .vslide l p d a sv => Sys2Proof.Machine.execVslide l p d a sv s
  | .vcvt l p d a r t => Sys2Proof.Machine.execVcvt l p d a r t s
  | .vcvts l d a b => Sys2Proof.Machine.execVcvts l d a b s
  | .vexp2 l p d a => Sys2Proof.Machine.execVexp2 l p d a s
  | .vrcp l p d a => Sys2Proof.Machine.execVrcp l p d a s
  | .vrsq l p d a => Sys2Proof.Machine.execVrsq l p d a s
  | .vbcast l p d a => Sys2Proof.Machine.execVbcast l p d a s
  | .vextr l d a b => Sys2Proof.Machine.execVextr l d a b s
  | .vld d a o => Sys2Proof.Machine.execVld d a o s
  | .vst d a o => Sys2Proof.Machine.execVst d a o s
  | .kvdec p d a b => Sys2Proof.Machine.execKvdec p d a b s
  | .kvscore d a b => Sys2Proof.Machine.execKvscore d a b s
  | .topk p d a b => Sys2Proof.Machine.execTopk p d a b s
  | .send d a b => Sys2Proof.Machine.execSend d a b s
  | .sendd d a b => Sys2Proof.Machine.execSendd d a b s
  | .cbind d a b => Sys2Proof.Machine.execCbind d a b s
  | .cunbind d a => Sys2Proof.Machine.execCunbind d a s
  | .mret => Sys2Proof.Machine.execMret s
  | .mpoll d a b => Sys2Proof.Machine.execMpoll d a b s
  | .copy d t u => Sys2Proof.Machine.execCopy d t u s
  | .copym d t u m => Sys2Proof.Machine.execCopym d t u m s
  | .gather d t imm m => Sys2Proof.Machine.execGather d t imm m s
  | .scatter d t imm m => Sys2Proof.Machine.execScatter d t imm m s
  | .cfill d u => Sys2Proof.Machine.execCfill d u s
  | .kvmove d t u => Sys2Proof.Machine.execKvmove d t u s
  | .stripeUpd d u => Sys2Proof.Machine.execStripeUpd d u s
  | .stripeRec d u => Sys2Proof.Machine.execStripeRec d u s
  | .balloc d t u => Sys2Proof.Machine.execBalloc d t u s
  | .bseal d t => Sys2Proof.Machine.execBseal d t s
  | .bld d t => Sys2Proof.Machine.execBld d t s
  | .bforfeit d u => Sys2Proof.Machine.execBforfeit d u s
  | .bforfeitT t => Sys2Proof.Machine.execBforfeitT t s
  | .bquery d u sv => Sys2Proof.Machine.execBquery d u sv s
  | .bpart d u => Sys2Proof.Machine.execBpart d u s
  | .mteamJoin d u => Sys2Proof.Machine.execMteamJoin d u s
  | .mteamLeave d => Sys2Proof.Machine.execMteamLeave d s
  | .mldb t u m sv => Sys2Proof.Machine.execMldb t u m sv s
  | .mlda t u m sv => Sys2Proof.Machine.execMlda t u m sv s
  | .mma t u sv => Sys2Proof.Machine.execMma t u sv s
  | .mmat t u sv => Sys2Proof.Machine.execMmat t u sv s
  | .mzero t => Sys2Proof.Machine.execMzero t s
  | .mst d t u m => Sys2Proof.Machine.execMst d t u m s
  | .mchk d u sv => Sys2Proof.Machine.execMchk d u sv s
  | .nkey d u => Sys2Proof.Machine.execNkey d u s
  | .mmember u sv => Sys2Proof.Machine.execMmember u sv s
  | .ngen d u => Sys2Proof.Machine.execNgen d u s
  | .ngrad d u => Sys2Proof.Machine.execNgrad d u s
  | .tlbw d a b => Sys2Proof.Machine.execTlbw d a b s
  | .tlbi d a b => Sys2Proof.Machine.execTlbi d a b s
  | .tlbig d b => Sys2Proof.Machine.execTlbig d b s
  | .ship d a b => Sys2Proof.Machine.execShip d a b s
  | .migrBegin d a b => Sys2Proof.Machine.execMigrBegin d a b s
  | .migrEnd d a => Sys2Proof.Machine.execMigrEnd d a s
  | .pgreq d a b => Sys2Proof.Machine.execPgreq d a b s
  | .pair d => Sys2Proof.Machine.execPair d s
  | .unpair d => Sys2Proof.Machine.execUnpair d s
  | .fpx d => Sys2Proof.Machine.execFpx d s
  | .pstat d a => Sys2Proof.Machine.execPstat d a s
  | .msdecl d a b => Sys2Proof.Machine.execMsdecl d a b s
  | .msopen d a => Sys2Proof.Machine.execMsopen d a s
  | .msclose d a => Sys2Proof.Machine.execMsclose d a s
  | .msquery d a b => Sys2Proof.Machine.execMsquery d a b s
  | .add16 d a => Sys2Proof.Machine.execAdd16 d a s
  | .sub16 d a => Sys2Proof.Machine.execSub16 d a s
  | .and16 d a => Sys2Proof.Machine.execAnd16 d a s
  | .or16 d a => Sys2Proof.Machine.execOr16 d a s
  | .xor16 d a => Sys2Proof.Machine.execXor16 d a s
  | .addImm16 d imm => Sys2Proof.Machine.execAddImm16 d imm s
  | .li16 d imm => Sys2Proof.Machine.execLi16 d imm s
  | .shl16 d imm => Sys2Proof.Machine.execShl16 d imm s
  | .shr16 d imm => Sys2Proof.Machine.execShr16 d imm s
  | .sar16 d imm => Sys2Proof.Machine.execSar16 d imm s
  | .ld16 d imm => Sys2Proof.Machine.execLd16 d imm s
  | .st16 d imm => Sys2Proof.Machine.execSt16 d imm s
  | .b16 o => Sys2Proof.Machine.execB16 o s
  | .beq16 a o => Sys2Proof.Machine.execBeq16 a o s
  | .bne16 a o => Sys2Proof.Machine.execBne16 a o s
  | .jr16 a => Sys2Proof.Machine.execJr16 a s
  | .nop16 => Sys2Proof.Machine.execNop16 s
  | .rend16 => Sys2Proof.Machine.execRend16 s
  | .ebrk16 => Sys2Proof.Machine.execEbrk16 s
  | .migration c => Sys2Proof.Machine.execMigration c s
  | .issueAfterStall c q => Sys2Proof.Machine.execIssueAfterStall c q s
  | .pendingFaultTake c => Sys2Proof.Machine.execPendingFaultTake c s
  | .preempt c => Sys2Proof.Machine.execPreempt c s
  | .interruptWaitExpiry c => Sys2Proof.Machine.execInterruptWaitExpiry c s
  | .gangStop p => Sys2Proof.Machine.execGangStop p s
  | .gangResume p => Sys2Proof.Machine.execGangResume p s
  | .gangRollback p => Sys2Proof.Machine.execGangRollback p s
  | .restart k => Sys2Proof.Machine.execRestart k s
  | .deferredPush k => Sys2Proof.Machine.execDeferredPush k s
  | .select c => Sys2Proof.Machine.execSelect c s
  | .steal k => Sys2Proof.Machine.execSteal k s
  | .stealReply k => Sys2Proof.Machine.execStealReply k s
  | .stealPauseExpiry c => Sys2Proof.Machine.execStealPauseExpiry c s
  | .gangBind k => Sys2Proof.Machine.execGangBind k s
  | .gangReserveTimeout k => Sys2Proof.Machine.execGangReserveTimeout k s
  | .push k => Sys2Proof.Machine.execPush k s
  | .claim k => Sys2Proof.Machine.execClaim k s
  | .rsv k => Sys2Proof.Machine.execRsv k s
  | .launch step => Sys2Proof.Machine.execLaunch step s
  | .contextEnd ctx => Sys2Proof.Machine.execContextEnd ctx s
  | .contextEndHead head => Sys2Proof.Machine.execContextEndHead head s
  | .wakeBegin die => Sys2Proof.Machine.execWakeBegin die s
  | .wakeComplete c => Sys2Proof.Machine.execWakeComplete c s
  | .matrixSleep c => Sys2Proof.Machine.execMatrixSleep c s
  | .routeFlit router plane => Sys2Proof.Machine.execRouteFlit router plane s
  | .ejectFlit k => Sys2Proof.Machine.execEjectFlit k s
  | .holdNotice k => Sys2Proof.Machine.execHoldNotice k s
  | .holdNoticeReceived k => Sys2Proof.Machine.execHoldNoticeReceived k s
  | .retransmit k => Sys2Proof.Machine.execRetransmit k s
  | .channelFree k => Sys2Proof.Machine.execChannelFree k s
  | .channelEvict k => Sys2Proof.Machine.execChannelEvict k s
  | .linkFail link => Sys2Proof.Machine.execLinkFail link s
  | .scaleupLinkDead link => Sys2Proof.Machine.execScaleupLinkDead link s
  | .setAside flow => Sys2Proof.Machine.execSetAside flow s
  | .setAsideRelease flow => Sys2Proof.Machine.execSetAsideRelease flow s
  | .dieFenced k => Sys2Proof.Machine.execDieFenced k s
  | .qsce die => Sys2Proof.Machine.execQsce die s
  | .messageCompletion k => Sys2Proof.Machine.execMessageCompletion k s
  | .classInstall k => Sys2Proof.Machine.execClassInstall k s
  | .unboundHoldExpiry c k => Sys2Proof.Machine.execUnboundHoldExpiry c k s
  | .routineStart c => Sys2Proof.Machine.execRoutineStart c s
  | .ldRequest k => Sys2Proof.Machine.execLdRequest k s
  | .stRequest k => Sys2Proof.Machine.execStRequest k s
  | .stl k => Sys2Proof.Machine.execStl k s
  | .amoRequest k => Sys2Proof.Machine.execAmoRequest k s
  | .loadReturn k => Sys2Proof.Machine.execLoadReturn k s
  | .storeComplete k => Sys2Proof.Machine.execStoreComplete k s
  | .reg k => Sys2Proof.Machine.execReg k s
  | .regAck k => Sys2Proof.Machine.execRegAck k s
  | .regSetFree k => Sys2Proof.Machine.execRegSetFree k s
  | .rev k => Sys2Proof.Machine.execRev k s
  | .revAnswer k => Sys2Proof.Machine.execRevAnswer k s
  | .wb k => Sys2Proof.Machine.execWb k s
  | .fwd k => Sys2Proof.Machine.execFwd k s
  | .copyq k => Sys2Proof.Machine.execCopyq k s
  | .copyd k => Sys2Proof.Machine.execCopyd k s
  | .gsub k => Sys2Proof.Machine.execGsub k s
  | .ssub k => Sys2Proof.Machine.execSsub k s
  | .stripe k => Sys2Proof.Machine.execStripe k s
  | .engineComplete c k => Sys2Proof.Machine.execEngineComplete c k s
  | .lostClear rid => Sys2Proof.Machine.execLostClear rid s
  | .basinAllocGrant slice partition => Sys2Proof.Machine.execBasinAllocGrant slice partition s
  | .basinReadServe slice partition k => Sys2Proof.Machine.execBasinReadServe slice partition k s
  | .psum k => Sys2Proof.Machine.execPsum k s
  | .mteamJoinComplete c => Sys2Proof.Machine.execMteamJoinComplete c s
  | .teamPreemptTimeout c => Sys2Proof.Machine.execTeamPreemptTimeout c s
  | .tlbm k => Sys2Proof.Machine.execTlbm k s
  | .tlbf k => Sys2Proof.Machine.execTlbf k s
  | .shipArrival k => Sys2Proof.Machine.execShipArrival k s
  | .redir k => Sys2Proof.Machine.execRedir k s
  | .lineMove m => Sys2Proof.Machine.execLineMove m s
  | .fingerprintExchange c => Sys2Proof.Machine.execFingerprintExchange c s
  | .supplyLoss => Sys2Proof.Machine.execSupplyLoss s
  | .reserveSelfTest test => Sys2Proof.Machine.execReserveSelfTest test s
  | .coldReset => Sys2Proof.Machine.execColdReset s
  | .diagnosis sp d => Sys2Proof.Machine.execDiagnosis sp d s
  | .spmb sp => Sys2Proof.Machine.execSpmb sp s
  | .voteTimeout k => Sys2Proof.Machine.execVoteTimeout k s
  | .refereeTimeout k => Sys2Proof.Machine.execRefereeTimeout k s
  | .heartbeatProbe die answered => Sys2Proof.Machine.execHeartbeatProbe die answered s
  | .dieLossRecovery die => Sys2Proof.Machine.execDieLossRecovery die s
  | .rebuildComplete die => Sys2Proof.Machine.execRebuildComplete die s
  | .packageLoss pkg => Sys2Proof.Machine.execPackageLoss pkg s
  | .gatewayLoss die => Sys2Proof.Machine.execGatewayLoss die s
  | .checkpointBoundary p => Sys2Proof.Machine.execCheckpointBoundary p s
  | .undoLogFull die => Sys2Proof.Machine.execUndoLogFull die s
  | .watchdog p => Sys2Proof.Machine.execWatchdog p s
  | .spPreemptCommand c => Sys2Proof.Machine.execSpPreemptCommand c s
  | .setGovernorBudget die units => Sys2Proof.Machine.execSetGovernorBudget die units s
  | .installRegion sp => Sys2Proof.Machine.execInstallRegion sp s
  | .removeRegion sp => Sys2Proof.Machine.execRemoveRegion sp s
  | .setCheckpointInterval sp => Sys2Proof.Machine.execSetCheckpointInterval sp s
  | .holdPartition sp => Sys2Proof.Machine.execHoldPartition sp s
  | .releasePartition sp => Sys2Proof.Machine.execReleasePartition sp s
  | .haltDie sp => Sys2Proof.Machine.execHaltDie sp s
  | .resumeDie sp => Sys2Proof.Machine.execResumeDie sp s
  | .restartCore sp => Sys2Proof.Machine.execRestartCore sp s
  | .setBudgetRequest sp => Sys2Proof.Machine.execSetBudgetRequest sp s
  | .attestation sp => Sys2Proof.Machine.execAttestation sp s
  | .hostMemAccess a => Sys2Proof.Machine.execHostMemAccess a s
  | .hostbi line answer => Sys2Proof.Machine.execHostbi line answer s
  | .snoopTimeout k => Sys2Proof.Machine.execSnoopTimeout k s
  | .ueSend port => Sys2Proof.Machine.execUeSend port s
  | .ueReceive port peer data => Sys2Proof.Machine.execUeReceive port peer data s
  | .linkTraining link ours theirs => Sys2Proof.Machine.execLinkTraining link ours theirs s
  | .patrolScrub p found => Sys2Proof.Machine.execPatrolScrub p found s
  | .firmwareVerify sp image => Sys2Proof.Machine.execFirmwareVerify sp image s
  | .discoveryFlood serial plane => Sys2Proof.Machine.execDiscoveryFlood serial plane s
  | .imageMulticast image => Sys2Proof.Machine.execImageMulticast image s
  | .registerWrite offset data => Sys2Proof.Machine.execRegisterWrite offset data s
  | .debuggerBreakRequest c => Sys2Proof.Machine.execDebuggerBreakRequest c s
  | .spPartnerLost sp => Sys2Proof.Machine.execSpPartnerLost sp s
  | .ueSendCompletion port status => Sys2Proof.Machine.execUeSendCompletion port status s
  | .spillWriteAccepted c k => Sys2Proof.Machine.execSpillWriteAccepted c k s
  | .mailboxRequestMalformed sp => Sys2Proof.Machine.execMailboxRequestMalformed sp s

end Sys2Proof.Machine
end

