-- ==== Sys2Proof/Machine/Step.lean ====
section
/-! DEFINITION. One step of the machine (log 1): the first turn of the agenda, else the acting sequencer's. -/

namespace Sys2Proof.Machine

/-- The acting sequencer takes what is due at its boundary, or fetches, decodes and executes one instruction (R24, R98,
R183); a sequencer that does not move leaves the state as it is. -/
def issue (s : State) : Host.Outcome State Fault Refusal :=
  if s.moves then
    match s.boundary with
    | some r => r
    | none =>
      match s.fetch with
      | .error e => conclude s e.2 (.error e.1)
      | .ok bytes =>
        match decode bytes with
        | .ok r => exec r.1 s
        | .error r => s.rejected bytes r
  else .next s

/-- One step. -/
def step (s : State) : Host.Outcome State Fault Refusal :=
  match s.agenda with
  | .event i :: rest => if s.actsOn i then exec i { s with agenda := rest } else .next { s with agenda := rest }
  | .core c q :: rest => issue ({ s with agenda := rest }.focus c q)
  | [] => issue s.alternate

/-- The state with one instruction of `nbits` table bits `w` where `step` fetches next (log 30). -/
def State.withFetchWord (s : State) (nbits w : Nat) : State :=
  s.place' (tableBytes (nbits / 8) w ++ [0, 0, 0, 0])

end Sys2Proof.Machine
end

