-- ==== Sys2Proof/Safety.lean ====
section
/-! DEFINITION. What a safe state is, and what an instruction leaves as it was, in the terms the statements use. -/

namespace Sys2Proof.Machine

/-- The memory is in canonical form. -/
def State.MemoryWf (s : State) : Prop := Memory.wf s.mem = true

/-- A run stays safe when no step of it stops the machine. -/
def State.Continues (s : State) : Prop := ∃ t, step s = .next t

/-! ## When an instruction executes normally -/

/-- The sequencer has the registers it works under: a routine's are those of the bank that holds it (R288). -/
def Core.HasSeq (k : Core) (q : Seq) : Prop := q = .routine → k.msg.bank.isSome

/-- The acting sequencer accepts an instruction of form `f` now: a legal privilege (R151), no pending prefix unless the form takes
one (R115), the form's group (R111), the sequencer (R114, R289), and no exchange that a hinge pair makes first (R422, R424). -/
def State.Accepts (s : State) (f : Form) : Prop :=
  s.pm ≠ 3 ∧ s.core.HasSeq s.seq ∧ (s.core.pp s.seq = true → f.pfx = true) ∧ bit (coreGroups s.cur) f.group = true ∧
  (match s.seq with
    | .vector => f.inVector = true
    | .matrix => f.inMatrix = true
    | .routine => f.inRoutine = true
    | .control => (s.core.vs.opened = true → f.withVector = true) ∧ (s.core.ms.opened = true → f.withMatrix = true)) ∧
  (s.seq = .control → ∀ p, s.core.pair = some p →
    f.inPair = true ∧ p.draining = false ∧ p.count < 4096 ∧ (f.exchange = true → p.forces s.pc = true))

/-- None of the registers waits for a value (R150). -/
def State.Free (s : State) (rs : List Reg) : Prop := ∀ r ∈ rs, s.held r = false

/-! ## Frames -/

/-- Nothing outside the acting core changed: no other core, no byte of memory, no unit of the package. -/
def State.KeepsOutside (s t : State) : Prop := { t with core := s.core } = s

/-- The units of the core are as they were: vector and matrix registers, access-unit tables, scheduler. -/
def Core.KeepsUnits (k l : Core) : Prop := l.vec = k.vec ∧ l.mat = k.mat ∧ l.mem = k.mem ∧ l.sched = k.sched

/-- The control registers that no plain instruction writes: `i0` to `i3`, the counters, what the core runs, what is due, the shadow
set and the scoreboard; those of R153 but `kcnt`; and the task, but for the groups it has used (R402) and the pages that its first matrix
instruction brings it (R379). -/
def Control.Keeps (c d : Control) : Prop :=
  d.idx = c.idx ∧ d.oc = c.oc ∧ d.run = c.run ∧ d.due = c.due ∧ d.shadow = c.shadow ∧ d.holds = c.holds ∧ d.stopped = c.stopped ∧
  { d.k with kcnt := c.k.kcnt } = c.k ∧ (d.task.map fun t => { t.useGroup 2 with groups := 0 }) = c.task.map fun t => { t.useGroup 2 with groups := 0 }

/-- The exception registers of a thread, and `kstatus` but for PP, are as they were. -/
def Thread.KeepsSystem (t u : Thread) : Prop :=
  u.kcause = t.kcause ∧ u.kaddr = t.kaddr ∧ u.kepc = t.kepc ∧ u.kvec = t.kvec ∧ u.kpfx = t.kpfx ∧
  setBit u.kstatus 1 false = setBit t.kstatus 1 false

/-- The sequencers that do not act are as they were. -/
def State.KeepsOthers (s t : State) : Prop :=
  (s.seq ≠ .vector → t.core.vs = s.core.vs) ∧ (s.seq ≠ .matrix → t.core.ms = s.core.ms) ∧ (s.seq ≠ .routine → t.core.msg = s.core.msg) ∧
  (s.seq ≠ .control → t.core.thr = s.core.thr)

/-- `kcnt` rises by one for the control sequencer and for no other (R156). -/
def State.Counted (s t : State) : Prop :=
  t.core.ctl.k.kcnt = if s.seq = .control then s.core.ctl.k.kcnt + 1 else s.core.ctl.k.kcnt

/-- What a plain instruction that retires leaves as it was: everything but general registers, the pc, PP, `kcnt` and a hinge pair's
fingerprints. -/
def State.Plain (s t : State) : Prop :=
  s.KeepsOutside t ∧ s.core.KeepsUnits t.core ∧ s.core.ctl.Keeps t.core.ctl ∧ s.thr.KeepsSystem t.thr ∧ s.KeepsOthers t ∧ s.Counted t

/-- Every general register of the acting sequencer but `d` is as it was. -/
def State.OnlyReg (s t : State) (d : Reg) : Prop := ∀ r, r ≠ d → t.g r = s.g r

/-- The value that register `d` holds after `x` is written to it: g0 takes none (R117). -/
def written (d : Reg) (x : Word) : Word := if d = 0 then 0 else x

/-- The instruction retired with `x` in register `d`, at `pc`, and left the rest as it was. -/
def State.Gives (s t : State) (d : Reg) (x pc : Word) : Prop := t.g d = written d x ∧ s.OnlyReg t d ∧ t.pc = pc ∧ s.Plain t

end Sys2Proof.Machine
end

