-- ==== Sys2Proof/Certificates/Slice0/Obligations.lean ====
section
/-! DEFINITION. The statements for the provers. Each docstring names the rules of spec/ that it formalises. -/

namespace Sys2Proof.Machine

/-! ## Terms of the statements -/

/-- The register form of an integer operation (R157). -/
def AluOp.register (o : AluOp) (w : Width) (d a b : Reg) : Instr :=
  match o with
  | .add => .add w d a b
  | .sub => .sub w d a b
  | .and => .and w d a b
  | .or => .or w d a b
  | .xor => .xor w d a b
  | .shl => .shl w d a b
  | .shr => .shr w d a b
  | .sar => .sar w d a b
  | .slt => .slt w d a b
  | .sltu => .sltu w d a b
  | .min => .min w d a b
  | .max => .max w d a b
  | .mul => .mul w d a b
  | .mulh => .mulh w d a b
  | .div => .div w d a b
  | .rem => .rem w d a b

/-- The immediate form, where there is one (R158): `sub`, `mulh`, `div` and `rem` have none. -/
def AluOp.immediate (o : AluOp) (w : Width) (d a : Reg) (i : BitVec 12) : Option Instr :=
  match o, w with
  | .add, .d64 => some (.addImmD d a i)
  | .and, .d64 => some (.andImmD d a i)
  | .or, .d64 => some (.orImmD d a i)
  | .xor, .d64 => some (.xorImmD d a i)
  | .shl, .d64 => some (.shlImmD d a i)
  | .shr, .d64 => some (.shrImmD d a i)
  | .sar, .d64 => some (.sarImmD d a i)
  | .slt, .d64 => some (.sltImmD d a i)
  | .sltu, .d64 => some (.sltuImmD d a i)
  | .min, .d64 => some (.minImmD d a i)
  | .max, .d64 => some (.maxImmD d a i)
  | .mul, .d64 => some (.mulImmD d a i)
  | .add, .w32 => some (.addImmW d a i)
  | .and, .w32 => some (.andImmW d a i)
  | .or, .w32 => some (.orImmW d a i)
  | .xor, .w32 => some (.xorImmW d a i)
  | .shl, .w32 => some (.shlImmW d a i)
  | .shr, .w32 => some (.shrImmW d a i)
  | .sar, .w32 => some (.sarImmW d a i)
  | .slt, .w32 => some (.sltImmW d a i)
  | .sltu, .w32 => some (.sltuImmW d a i)
  | .min, .w32 => some (.minImmW d a i)
  | .max, .w32 => some (.maxImmW d a i)
  | .mul, .w32 => some (.mulImmW d a i)
  | _, _ => none

/-- The amount of an immediate shift lies below the width (R158); other operations take every immediate. -/
def AluOp.amountOk (o : AluOp) (w : Width) (i : BitVec 12) : Prop :=
  (o = .shl ∨ o = .shr ∨ o = .sar) → i.toNat < (match w with
    | .d64 => 64
    | .w32 => 32)

/-- The instruction a conditional branch is (R161). -/
def Cond.branch (c : Cond) (a b : Reg) (o : BitVec 11) : Instr :=
  match c with
  | .eq => .beq a b o
  | .ne => .bne a b o
  | .lt => .blt a b o
  | .ge => .bge a b o
  | .ltu => .bltu a b o
  | .geu => .bgeu a b o

/-- Control went to `pc` and all else is as it was. -/
def State.Goes (s t : State) (pc : Word) : Prop := (∀ r, t.g r = s.g r) ∧ t.pc = pc ∧ s.Plain t

/-- The instruction answers a next state, which satisfies `p`. -/
def State.Does (s : State) (i : Instr) (p : State → Prop) : Prop := ∃ t, exec i s = .next t ∧ p t

/-- The acting thread entered its handler (R181): the cause, address and return pc it records, what `kstatus` becomes, and that its
registers and all outside the core are as they were. -/
def State.Enters (s t : State) (code imm : Byte) (addr epc : Word) : Prop :=
  t.pc = s.thr.kvec ∧ t.thr.kcause = causeWord code imm 0 (s.core.pp s.seq) true ∧ t.thr.kaddr = addr ∧ t.thr.kepc = epc ∧
  t.thr.kvec = s.thr.kvec ∧ bit t.thr.kstatus 6 = true ∧ bit t.thr.kstatus 3 = false ∧ bit t.thr.kstatus 1 = false ∧
  bit t.thr.kstatus 10 = bit s.thr.kstatus 3 ∧ bit t.thr.kstatus 9 = bit s.thr.kstatus 1 ∧ bits t.thr.kstatus 4 2 = s.pm ∧
  (∀ r, t.g r = s.g r) ∧ s.KeepsOutside t ∧ s.core.KeepsUnits t.core

/-- The acting thread can take a trap into a handler of its own (R181): no handler runs, and there is one. -/
def State.HasHandler (s : State) : Prop := s.tt = false ∧ s.thr.kvec ≠ 0

/-- The instruction of an atomic (R203): `amo.fadd` has words only. -/
def AmoOp.instr (o : AmoOp) (q : AmoOrder) (w : Width) (d a b : Reg) : Instr :=
  match o with
  | .swap => .amoSwap q w d a b
  | .cas => .amoCas q w d a b
  | .add => .amoAdd q w d a b
  | .and => .amoAnd q w d a b
  | .or => .amoOr q w d a b
  | .xor => .amoXor q w d a b
  | .min => .amoMin q w d a b
  | .max => .amoMax q w d a b
  | .fadd => .amoFadd q d a b

/-- Bytes of an atomic. -/
def AmoOp.bytes (o : AmoOp) (w : Width) : Nat := if o = .fadd then 4 else amoBytes w

/-- Where the bytes at `pa` are when the acting core can write them without a request: in its own memory, or in its stash with every
word owned (R125, R198). -/
def State.localAt (s : State) (pa n : Nat) : Option Nat :=
  match s.route pa with
  | .here => some pa
  | .stash => if s.ownsAll pa n then s.stashAddr s.cur pa else none
  | .away _ => none

/-- The core holds `n` bytes at `pa` in its own memory, or every word of them in its stash; none is poisoned, and no request that changes
one is on its way (R125, R198). -/
def State.Holds (s : State) (pa n : Nat) : Prop :=
  (s.route pa = .here ∨ (s.route pa = .stash ∧ ∀ w ∈ wordsOf pa n, s.core.word w ≠ none)) ∧ s.poisoned pa n = false ∧
  s.pendingWord pa n = false

/-- The `n` bytes that the core holds at `pa`, those of a hinge pair's store gate over them (R424). -/
def State.heldBytes (s : State) (pa n : Nat) : List Byte :=
  s.overlay pa (readBytes s.mem (if s.route pa = .stash then (s.stashAddr s.cur pa).getD pa else pa) n)

/-- The core holds every piece (address, bytes) of a read. -/
def State.HasPieces (s : State) (ps : List (Nat × Nat)) : Prop := ∀ q ∈ ps, s.Holds q.1 q.2

/-- Their bytes. -/
def State.pieceBytes (s : State) (ps : List (Nat × Nat)) : List Byte := ps.flatMap fun q => s.heldBytes q.1 q.2

/-- The state with every fill that is on its way to the acting core's stash marked as not to be put into it, as an acquire leaves them
(R134). -/
def State.marked (s : State) : State := s.spoilFills s.cur fun _ => true

/-- The stash after an acquire: no word in V (R134). -/
def State.acquired (s : State) : List (Nat × WordState) := s.core.mem.stash.filter fun e => e.2 != .V

/-- Everything outside the acting core but memory is as it was, and every byte of memory outside `[a, a + n)`. -/
def State.KeepsBytes (s t : State) (a n : Nat) : Prop :=
  s.KeepsOutside { t with mem := s.mem } ∧ ∀ x, x < a ∨ a + n ≤ x → readByte t.mem x = readByte s.mem x

/-- Lane `k` of a vector register. -/
def State.elem (s : State) (l : Lane) (r : Reg) (k : Nat) : BitVec (laneBits l) := BitVec.ofNat (laneBits l) (lane (s.lanes l r) k)

/-- What a vector instruction that retires leaves as it was: everything but general registers, vector registers, masks, PP, the pc,
which moves past it, `kcnt` and a hinge pair's fingerprints. -/
def State.PlainVec (s t : State) : Prop :=
  s.KeepsOutside t ∧ t.core.vec.m = s.core.vec.m ∧ t.core.mat = s.core.mat ∧ t.core.mem = s.core.mem ∧ t.core.sched = s.core.sched ∧
  s.core.ctl.Keeps t.core.ctl ∧ s.thr.KeepsSystem t.thr ∧ s.KeepsOthers t ∧ s.Counted t ∧ t.pc = s.pc + 4

/-- Only vector register `d` changed. -/
def State.OnlyV (s t : State) (d : Reg) : Prop :=
  (∀ r, r ≠ d → t.v r = s.v r) ∧ t.core.vec.p = s.core.vec.p ∧ (∀ r, t.g r = s.g r) ∧ s.PlainVec t

/-- The instruction put `f k` into each lane `k` of `d` that is active under the mask; the others keep what they held (R242). -/
def State.GivesLanes (s t : State) (l : Lane) (m : Option (BitVec 3)) (d : Reg) (f : Nat → BitVec (laneBits l)) : Prop :=
  (∀ k < laneCount l, t.elem l d k = if s.active l m k then f k else s.elem l d k) ∧ s.OnlyV t d

/-- The instruction put `f k` into bit `k` of mask `d`, and changed nothing else. -/
def State.GivesMask (s t : State) (d : BitVec 3) (f : Nat → Bool) : Prop :=
  (∀ k < 64, bit (t.core.vec.p.get d.toFin) k = f k) ∧ (∀ q, q ≠ d → t.core.vec.p.get q.toFin = s.core.vec.p.get q.toFin) ∧
  t.core.vec.v = s.core.vec.v ∧ (∀ r, t.g r = s.g r) ∧ s.PlainVec t

/-- The bits that a compare of lanes gives a mask (R240): for lanes of 16 bits one each, for lanes of 32 bits two each, for bytes one
for two; an inactive lane compares false. -/
def State.comparison (s : State) (l : Lane) (m : Option (BitVec 3)) (f : Nat → Bool) (k : Nat) : Bool :=
  match l with
  | .b8 => (s.active .b8 m (2 * k) && f (2 * k)) && (s.active .b8 m (2 * k + 1) && f (2 * k + 1))
  | .h16 => s.active .h16 m k && f k
  | .w32 => s.active .w32 m (k / 2) && f (k / 2)

/-- A lane as a number of format `f`. -/
def State.num (s : State) (f : Fmt) (l : Lane) (r : Reg) (k : Nat) : Num := decodeNum f s.ns (lane (s.lanes l r) k)

/-- A number as a lane of format `f`. -/
def State.laneOf (s : State) (f : Fmt) (l : Lane) (x : Num) : BitVec (laneBits l) := BitVec.ofNat (laneBits l) (encodeNum f s.ns false x)

/-- The core sent one request: to `u`, of class `cls`, with body `b` (R275). -/
def State.Asks (s t : State) (u : UnitName) (cls : BitVec 10) (b : Body) : Prop :=
  ∃ o, t.fab.outst = s.fab.outst ++ [o] ∧ o.src = s.unit ∧ o.dst = u ∧ o.cls = cls ∧ o.body = b

/-- A completion flit was sent (R267, R277): for the request `seq` of `epoch` that `src` sent to `dst`. -/
def State.Completes (s t : State) (src dst : UnitName) (epoch : Byte) (seq : BitVec 16) (status : Byte) (body : Body) : Prop :=
  ∃ l f m, t.fab.flits = s.fab.flits ++ l ++ [f] ++ m ∧ f.kind = .completion ∧ f.dst = src ∧ f.src = dst ∧ f.epoch = epoch ∧ f.seq = seq ∧
    f.status = status ∧ f.body = body

/-- The unit answered request `r`, which has left its receive queue (R277). -/
def State.Answers (s t : State) (r : Recv) (status : Byte) (body : Body) : Prop :=
  (∀ x ∈ t.fab.rxq, x.same r = false) ∧ s.Completes t r.src r.dst r.epoch r.seq status body

/-- It was answered with words of a line, whose values, if there are any, go in a continuation (R268). -/
def State.AnswersLine (s t : State) (r : Recv) (line : Nat) (mask : W32) (data : List W32) : Prop :=
  s.Answers t r 0 (.wb line mask []) ∧ (data ≠ [] → ∃ f ∈ t.fab.flits, f.kind = .continuation ∧ f.dst = r.src ∧ f.src = r.dst ∧
    f.epoch = r.epoch ∧ f.seq = r.seq ∧ f.body = .lineData (.wb line mask data))

/-- What a piece of an engine operation moves, its progress left out. -/
def Move.plan (m : Move) : Option Nat × Option Nat × Nat × Nat × List Byte := (m.src, m.dst, m.bytes, m.offset, m.data)

/-- An engine operation was issued (R145, R308, R312): one unit of its counter, its ranges locked, its register held, the pc past the
instruction, no register written, and the operation in the core's table with its pieces. -/
def State.Issues (s t : State) (d : Reg) (ocx : Bool) (ranges : List (Eng × Bool × Nat × Nat)) (kind : OpKind) (tile : Option TileNo)
    (moves : List Move) : Prop :=
  (if ocx then t.core.ctl.oc.ocx = s.core.ctl.oc.ocx + 1 ∧ t.core.ctl.oc.occ = s.core.ctl.oc.occ
    else t.core.ctl.oc.occ = s.core.ctl.oc.occ + 1 ∧ t.core.ctl.oc.ocx = s.core.ctl.oc.ocx) ∧
  (d ≠ 0 → t.held d = true) ∧ (∀ r, t.g r = s.g r) ∧ t.pc = s.pc + 4 ∧
  t.core.mem.locks = s.core.mem.locks ++ ranges.map (fun r => ⟨r.1, r.2.1, ocx, r.2.2.1, r.2.2.2, [s.fresh]⟩) ∧
  ∃ o ∈ t.core.mem.ops, o.id = s.fresh ∧ o.kind = kind ∧ o.reg = d ∧ o.tile = tile ∧ o.moves.map Move.plan = moves.map Move.plan

/-- An instruction that asks a slice once and waits (R336): it sends `q` and stays where it is; when the answer has come it gives the
answer's word. -/
def State.Exchanges (s : State) (i : Instr) (d : Reg) (u : UnitName) (q : BasinReq) : Prop :=
  (s.sentAnswer = none → s.canPost s.unit u 1 = true →
    s.Does i fun t => s.Asks t u 22 (.basin q) ∧ t.pc = s.pc ∧ (∀ r, t.g r = s.g r) ∧ t.mem = s.mem ∧ t.sentAnswer.isSome = true) ∧
  (∀ w, s.sentAnswer = some w → w.left = 0 → w.status = 0 →
    s.Does i fun t => s.Gives t d (BitVec.ofNat 64 (ofBytes (((assocGet 0 w.got).getD []).take 8))) (s.pc + 4))

/-- The matrix unit is awake under a power class that runs it (R359, R368). -/
def State.MatrixOn (s : State) : Prop := 2 ≤ (bits s.core.ctl.k.kpower 0 2).toNat ∧ s.core.mat.power = .awake

/-- No byte of memory outside `[a, a + n)` changed. -/
def State.BytesOutside (s t : State) (a n : Nat) : Prop := ∀ x, x < a ∨ a + n ≤ x → readByte t.mem x = readByte s.mem x

/-- Only the fabric changed. -/
def State.OnlyFabric (s t : State) : Prop := { t with fab := s.fab } = s

/-- An event stands in the black box of the physical die that holds logical die `die` (R463). -/
def State.Shows (s t : State) (die : Nat) (e : Event) : Prop :=
  ∀ h : (bits (s.mapEntry die) 0 5).toNat < 24, ∃ n, (n, e) ∈ t.dies[(bits (s.mapEntry die) 0 5).toNat].bbox

/-- A well-formed and permitted request `e` of OP `op` stands at the head of the ring of mailbox `n`, which is served (R465, R466). -/
def State.Requests (s : State) (n op : Nat) (e : List Byte) : Prop :=
  s.serves n = true ∧ reqForm e = true ∧ field e 0 1 = op ∧ ∃ line, s.requestIn n = some (e, line) ∧ (s.requester line).permits e = true

/-- The task of core `c` began (R46): its record's entry, arguments and iteration, the interrupts enabled, no handler running. -/
def State.Begins (t : State) (c : CoreName) (d : Slot) : Prop :=
  (t.getCore c).ctl.run = .task ∧ (t.getCore c).thr.pc = recEntry d.record ∧
  (∀ i < 4, regGet (t.getCore c).thr.g (BitVec.ofNat 5 (3 + i)) = recArg d.record i) ∧
  (∃ k, (t.getCore c).ctl.task = some k ∧ k.record = d.record ∧ k.ctx = d.ctx ∧ k.cid = recCid d.record ∧
    regGet (t.getCore c).thr.g 2 = k.stackBase + 16384 ∧ regGet (t.getCore c).thr.g 1 = k.home) ∧
  bit (t.getCore c).thr.kstatus 3 = true ∧ bit (t.getCore c).thr.kstatus 6 = false ∧
  (t.getCore c).ctl.k.kctx = ctxWord d.ctx (recCid d.record) ∧ (t.getCore c).vs.opened = false ∧ (t.getCore c).ms.opened = false

/-- Neither the core's thread nor its class routine is in the double-trap sequence (R185). -/
def Core.Calm (k : Core) : Prop := k.thr.inDoubleTrap = false ∧ k.msg.bank.any (·.thr.inDoubleTrap) = false

/-- No `balloc` of core `c`'s task waits at a slice or is on its way to one (R350). -/
def State.NoAlloc (s : State) (c : CoreName) : Prop :=
  ∀ t, (s.getCore c).ctl.task = some t → (∀ b ∈ s.basins, ∀ a ∈ b.queue, a.holder.1 ≠ t.id) ∧
    ∀ o ∈ s.fab.outst, s.underway (BasinReq.allocBy t.id) o = false

/-- Record `d` came back to the bottom of core `c`'s deque, or waits for a slot of it where it is full (R215, R218, R220, R222). -/
def State.GivesBack (s t : State) (c : CoreName) (d : Slot) : Prop :=
  ((s.getCore c).sched.deque.length < 256 → (t.getCore c).sched.deque = { d with passes := 0 } :: (s.getCore c).sched.deque ∧
    t.work.pushes = s.work.pushes) ∧
  (256 ≤ (s.getCore c).sched.deque.length → (t.getCore c).sched.deque = (s.getCore c).sched.deque ∧
    t.work.pushes = s.work.pushes ++ [⟨c, { d with passes := 0 }, recCid d.record, false, false, true⟩])

/-- No core, no byte of memory and no part of the fabric changed. -/
def State.KeepsCores (s t : State) : Prop := t.core = s.core ∧ t.cores = s.cores ∧ t.mem = s.mem ∧ t.fab = s.fab

end Sys2Proof.Machine

open Sys2Proof Sys2Proof.Machine

/-! ## Integer arithmetic -/

/-- R157, R100, R117, R156: in each register form `g[d]` becomes F(g[a], g[b]) at width W, g0 takes nothing, the pc moves past the
instruction, `kcnt` counts it, and nothing else changes. -/
def Clauses.IntegerRegisterForms : Prop :=
  ∀ (s : State) (o : AluOp) (w : Width) (d a b : Reg), s.Accepts .base → s.Free [d, a, b] →
    s.Does (o.register w d a b) fun t => s.Gives t d (atWidth w o.apply (s.g a) (s.g b)) (s.pc + 4)

/-- R158: the immediate forms, a shift by less than the width among them. -/
def Clauses.IntegerImmediateForms : Prop :=
  ∀ (s : State) (o : AluOp) (w : Width) (d a : Reg) (i : BitVec 12) (x : Instr), o.immediate w d a i = some x → o.amountOk w i →
    s.Accepts .base → s.Free [d, a] →
    s.Does x fun t => s.Gives t d (atWidth w o.apply (s.g a) (i.signExtend 64)) (s.pc + 4)

/-- R158: an immediate shift by the width or more traps ILL, with `kaddr` the instruction's address. -/
def Clauses.ImmediateShiftTooFar : Prop :=
  ∀ (s : State) (o : AluOp) (w : Width) (d a : Reg) (i : BitVec 12) (x : Instr), o.immediate w d a i = some x → ¬o.amountOk w i →
    s.Accepts .base → exec x s = .next (s.takeTrap ⟨0x01, s.pc, 0, false, false⟩ true)

/-- R157: the corners of division: a divisor of zero gives all ones and the dividend, the one overflow the dividend and zero. -/
def Clauses.DivisionCorners : Prop :=
  ∀ (s : State) (w : Width) (d a b : Reg), s.Accepts .base → s.Free [d, a, b] →
    (s.g b = 0 → s.Does (.div w d a b) fun t => t.g d = written d (BitVec.allOnes 64)) ∧
    (s.g b = 0 → s.Does (.rem .d64 d a b) fun t => t.g d = written d (s.g a)) ∧
    (s.g a = BitVec.intMin 64 → s.g b = BitVec.allOnes 64 → s.Does (.div .d64 d a b) fun t => t.g d = written d (s.g a)) ∧
    (s.g a = BitVec.intMin 64 → s.g b = BitVec.allOnes 64 → s.Does (.rem .d64 d a b) fun t => t.g d = 0)

/-- R159: `li`, and `lea` from the pc and from a register. -/
def Clauses.AddressForms : Prop :=
  ∀ (s : State) (d a : Reg) (i : BitVec 19) (o : BitVec 12), s.Accepts .base → s.Free [d, a] →
    (s.Does (.li d i) fun t => s.Gives t d (i.signExtend 64) (s.pc + 4)) ∧
    (s.Does (.leaPc d i) fun t => s.Gives t d (s.pc + i.signExtend 64) (s.pc + 4)) ∧
    (s.Does (.leaReg d a o) fun t => s.Gives t d (s.g a + o.signExtend 64) (s.pc + 4))

/-- R108: the 16-bit integer forms: two operands with the destination the first, and the pc moves by two bytes. -/
def Clauses.ShortIntegerForms : Prop :=
  ∀ (s : State) (d a : Reg) (i : BitVec 6), s.Accepts .short → s.Free [d, a] →
    (s.Does (.add16 d a) fun t => s.Gives t d (s.g d + s.g a) (s.pc + 2)) ∧
    (s.Does (.sub16 d a) fun t => s.Gives t d (s.g d - s.g a) (s.pc + 2)) ∧
    (s.Does (.and16 d a) fun t => s.Gives t d (s.g d &&& s.g a) (s.pc + 2)) ∧
    (s.Does (.or16 d a) fun t => s.Gives t d (s.g d ||| s.g a) (s.pc + 2)) ∧
    (s.Does (.xor16 d a) fun t => s.Gives t d (s.g d ^^^ s.g a) (s.pc + 2)) ∧
    (s.Does (.addImm16 d i) fun t => s.Gives t d (s.g d + i.signExtend 64) (s.pc + 2)) ∧
    (s.Does (.li16 d i) fun t => s.Gives t d (i.signExtend 64) (s.pc + 2)) ∧
    (s.Does (.shl16 d i) fun t => s.Gives t d (s.g d <<< i.toNat) (s.pc + 2)) ∧
    (s.Does (.shr16 d i) fun t => s.Gives t d (s.g d >>> i.toNat) (s.pc + 2)) ∧
    (s.Does (.sar16 d i) fun t => s.Gives t d ((s.g d).sshiftRight i.toNat) (s.pc + 2)) ∧
    (s.Does .nop16 fun t => s.Goes t (s.pc + 2))

/-! ## Branches and jumps -/

/-- R161, R108: a conditional branch goes to its own address plus the offset when its condition holds, else past itself, and changes
nothing else. -/
def Clauses.ConditionalBranches : Prop :=
  ∀ (s : State) (a b : Reg), s.Free [a, b] →
    (∀ (c : Cond) (o : BitVec 11), s.Accepts .base →
      s.Does (c.branch a b o) fun t => s.Goes t (if c.holds (s.g a) (s.g b) then s.pc + (o ++ 0#1).signExtend 64 else s.pc + 4)) ∧
    (∀ o : BitVec 6, s.Accepts .short →
      (s.Does (.beq16 a o) fun t => s.Goes t (if s.g a = 0 then s.pc + (o ++ 0#1).signExtend 64 else s.pc + 2)) ∧
      (s.Does (.bne16 a o) fun t => s.Goes t (if s.g a = 0 then s.pc + 2 else s.pc + (o ++ 0#1).signExtend 64)))

/-- R162, R163, R108: the jumps; `jal` leaves the address of the next instruction in its register. -/
def Clauses.Jumps : Prop :=
  ∀ (s : State) (d a : Reg), s.Free [d, a] →
    (s.Accepts .base → ∀ (o : BitVec 19) (i : BitVec 12),
      (s.Does (.jal d o) fun t => s.Gives t d (s.pc + 4) (s.pc + (o ++ 0#1).signExtend 64)) ∧
      (s.Does (.b o) fun t => s.Goes t (s.pc + (o ++ 0#1).signExtend 64)) ∧
      (s.Does (.jr a i) fun t => s.Goes t (s.g a + i.signExtend 64))) ∧
    (s.Accepts .short → ∀ o : BitVec 11,
      (s.Does (.b16 o) fun t => s.Goes t (s.pc + (o ++ 0#1).signExtend 64)) ∧ (s.Does (.jr16 a) fun t => s.Goes t (s.g a)))

/-! ## System instructions -/

/-- R154: `krd` gives the value of a control register that exists, and traps ILL on a number that names none. -/
def Clauses.ReadControl : Prop :=
  ∀ (s : State) (d : Reg) (k : BitVec 8), s.Accepts .shared → s.Free [d] →
    (∀ x, s.controlReg k = some x → s.Does (.krd d k) fun t => s.Gives t d x (s.pc + 4)) ∧
    (s.controlReg k = none → exec (.krd d k) s = .next (s.takeTrap ⟨0x01, s.pc, 0, false, false⟩ true))

/-- R154, R151, R152, R116: `kwr` of a thread's registers writes the bits that exist and nothing else; of `knoise` and `kmember` at
task privilege, and of `kcnt`, `ksent` and `krecv` below firmware privilege, it traps PRIV. -/
def Clauses.WriteControl : Prop :=
  ∀ (s : State) (a : Reg), s.Accepts .shared → s.Free [a] →
    (s.Does (.kwr a 0x00) fun t =>
      t.thr.kstatus = (s.thr.kstatus &&& ~~~0x64C#64) ||| (s.g a &&& 0x64C#64) ∧
      s.Goes (t.modThr fun r => { r with kstatus := s.thr.kstatus }) (s.pc + 4)) ∧
    (s.Does (.kwr a 0x01) fun t =>
      t.thr.kcause = s.g a &&& 0xFF00F000FF#64 ∧
      s.Goes (t.modThr fun r => { r with kcause := s.thr.kcause }) (s.pc + 4)) ∧
    (s.Does (.kwr a 0x02) fun t =>
      t.thr.kaddr = s.g a ∧
      s.Goes (t.modThr fun r => { r with kaddr := s.thr.kaddr }) (s.pc + 4)) ∧
    (s.Does (.kwr a 0x03) fun t =>
      t.thr.kepc = s.g a ∧
      s.Goes (t.modThr fun r => { r with kepc := s.thr.kepc }) (s.pc + 4)) ∧
    (s.Does (.kwr a 0x04) fun t =>
      t.thr.kvec = s.g a &&& ~~~1#64 ∧
      s.Goes (t.modThr fun r => { r with kvec := s.thr.kvec }) (s.pc + 4)) ∧
    (s.Does (.kwr a 0x0B) fun t =>
      t.thr.kpfx = s.g a &&& 0xFFFFFF#64 ∧
      s.Goes (t.modThr fun r => { r with kpfx := s.thr.kpfx }) (s.pc + 4)) ∧
    (s.seq = .control → s.pm ≠ 2 → ∀ k ∈ [0x08#8, 0x09#8, 0x0A#8],
      exec (.kwr a k) s = .next (s.takeTrap ⟨0x02, s.pc, 0, false, false⟩ true)) ∧
    (s.seq = .control → s.pm = 0 → s.core.ms.opened = false → ∀ k ∈ [0x0C#8, 0x0D#8],
      exec (.kwr a k) s = .next (s.takeTrap ⟨0x02, s.pc, 0, false, false⟩ true))

/-- R165, R166, R181: `trap` and `ebrk` enter the handler of the thread: the cause with IMM, `kaddr` the instruction's address, `kepc`
the next instruction for `trap` and itself for `ebrk`, IE and PP saved in SIE and SPP, TT = 1. -/
def Clauses.SoftwareTraps : Prop :=
  ∀ (s : State) (i : BitVec 8), s.HasHandler → s.seq = .control ∨ s.seq = .routine →
    (s.Accepts .shared → s.Does (.trap i) fun t => s.Enters t 0x17 i s.pc (s.pc + 4)) ∧
    (((s.partOf (dieOf s.cur)).bind s.part).any (·.held) = false →
      (s.Accepts .shared → s.Does (.ebrk i) fun t => s.Enters t 0x12 i s.pc s.pc) ∧
      (s.Accepts { Form.shared with len := 2 } → ∃ t, exec .ebrk16 s = .next t ∧ t.pc = s.thr.kvec ∧ t.thr.kepc = s.pc ∧
        t.thr.kcause = causeWord 0x12 0 0 false false ∧ bit t.thr.kstatus 6 = true))

/-- R168: `kret` takes the pc from `kepc`, IE from SIE, PP from SPP, clears TT, and changes no register. -/
def Clauses.HandlerReturn : Prop :=
  ∀ s : State, s.Accepts .shared →
    s.Does .kret fun t => t.pc = s.thr.kepc ∧ bit t.thr.kstatus 3 = bit s.thr.kstatus 10 ∧ bit t.thr.kstatus 1 = bit s.thr.kstatus 9 ∧
      bit t.thr.kstatus 6 = false ∧ (∀ r, t.g r = s.g r) ∧ s.KeepsOutside t ∧ s.core.KeepsUnits t.core ∧
      (s.seq = .control → t.core.vs.frozen = false ∧ t.core.ms.frozen = false)

/-- R167, R169, R175: `nop`; `wait` when every counter is within its limit; `rend` of the control stream when both streams have ended,
which is an acquire, and of a stream whose accesses have their points, which ends. -/
def Clauses.NopWaitRend : Prop :=
  ∀ s : State,
    (s.Accepts .base → s.Does .nop fun t => s.Goes t (s.pc + 4)) ∧
    (∀ l m : BitVec 3, s.Accepts .shared → (l = 7 ∨ s.counters.ocl ≤ l.toNat) → (m = 7 ∨ s.counters.ocs ≤ m.toNat) →
      s.Does (.wait l m 7 7) fun t => s.Goes t (s.pc + 4)) ∧
    (s.seq = .control → s.tt = false → s.core.vs.opened = false → s.core.ms.opened = false →
      (s.Accepts { Form.base with inRoutine := false } → s.Does .rend fun t => t.core.mem.stash = s.acquired ∧ t.pc = s.pc + 4 ∧
        (∀ r, t.g r = s.g r) ∧ s.marked.KeepsOutside t) ∧
      (s.Accepts { Form.short with inRoutine := false } → s.Does .rend16 fun t => t.core.mem.stash = s.acquired ∧ t.pc = s.pc + 2 ∧
        (∀ r, t.g r = s.g r) ∧ s.marked.KeepsOutside t)) ∧
    (s.seq = .vector → s.released = true → s.Accepts { Form.base with inRoutine := false } →
      s.Does .rend fun t => t.core.vs = .reset ∧ t.core.ms = s.core.ms ∧ t.core.thr = s.core.thr ∧ s.KeepsOutside t) ∧
    (s.seq = .matrix → s.released = true → s.Accepts { Form.base with inRoutine := false } →
      s.Does .rend fun t => t.core.ms = .reset ∧ t.core.vs = s.core.vs ∧ t.core.thr = s.core.thr ∧ s.KeepsOutside t)

/-- R146, R169, R134: a `wait` that limits `occ` or `ocx` is an acquire: every V word of the stash goes to I, and no other. -/
def Clauses.WaitAcquires : Prop :=
  ∀ (s : State) (c x : BitVec 3), s.Accepts .shared → c ≠ 7 ∨ x ≠ 7 → (c = 7 ∨ s.counters.occ ≤ c.toNat) →
    (x = 7 ∨ s.counters.ocx ≤ x.toNat) →
    s.Does (.wait 7 7 c x) fun t => t.core.mem.stash = s.acquired ∧ t.pc = s.pc + 4 ∧ (∀ r, t.g r = s.g r) ∧ s.marked.KeepsOutside t

/-- R167, R463, R464: `halt` at firmware privilege stops the core, with an event of type 8 in its die's black box and in the event rings of
the mailboxes, outside which no byte of memory changes; at another privilege it ends the task as a program fault of its chamber. -/
def Clauses.Halt : Prop :=
  ∀ s : State,
    (s.pm = 2 → s.Accepts { Form.control with exchange := true } → s.MemoryWf →
      s.Does .halt fun t => t.core.ctl.run = .halted ∧ (∀ r, t.g r = s.g r) ∧
        s.Shows t (dieOf s.cur) ⟨8, 0, s.cur, s.ctx, s.cid, 0, 0⟩ ∧
        ∀ x, (∀ n < 2, x < s.mailbox n + 0x3000 ∨ s.mailbox n + 0x4000 ≤ x) → readByte t.mem x = readByte s.mem x) ∧
    (s.pm ≠ 2 → s.Accepts .control → exec .halt s = .next (s.failChamber s.ctx s.cid s.haltCode (s.who s.cur s.seq)))

/-- R173, R174: `fork`, when no register of the control stream waits for a value, starts the streams whose descriptors are not 0, each
with copies of the registers, at the address its descriptor gives; it refuses with ILL in a handler, on a length of 0 and on a stream
that is open. -/
def Clauses.Fork : Prop :=
  ∀ (s : State) (a b : Reg), s.Accepts { Form.control with inPair := false } → s.Free [a, b] → s.seq = .control →
    (s.tt = false → s.released = true → badDescriptor (s.g a) s.core.vs.opened = false →
      badDescriptor (s.g b) s.core.ms.opened = false → (∀ h ∈ s.core.ctl.holds, h.q = .control → h.ready = true) →
      s.Does (.fork a b) fun t => t.pc = s.pc + 4 ∧ (∀ r, t.g r = s.g r) ∧ (s.KeepsOutside t ∨ s.marked.KeepsOutside t) ∧
        (s.g a = 0 → t.core.vs = s.core.vs) ∧
        (s.g a ≠ 0 → t.core.vs.opened = true ∧ t.core.vs.pc = s.pc + (bits (s.g a) 0 48).signExtend 64 ∧ t.core.vs.g = s.core.thr.g ∧
          t.core.vs.i = s.core.ctl.idx ∧ t.core.vs.pp = false) ∧
        (s.g b = 0 → t.core.ms = s.core.ms) ∧
        (s.g b ≠ 0 → t.core.ms.opened = true ∧ t.core.ms.pc = s.pc + (bits (s.g b) 0 48).signExtend 64 ∧ t.core.ms.g = s.core.thr.g ∧
          t.core.ms.i = s.core.ctl.idx ∧ t.core.ms.pp = false)) ∧
    (s.tt = true ∨ badDescriptor (s.g a) s.core.vs.opened = true ∨ badDescriptor (s.g b) s.core.ms.opened = true →
      exec (.fork a b) s = .next (s.takeTrap ⟨0x01, s.pc, 0, false, false⟩ true))

/-- R115, R171: `fmt` sets the prefix latch of its sequencer with the fields of its word, past which the pc moves. -/
def Clauses.FormatPrefix : Prop :=
  ∀ (s : State) (f g h : BitVec 4) (t u : Reg) (e : BitVec 2), s.Accepts { Form.base with inRoutine := false } →
    s.Does (.fmt f g h t u e) fun n => n.core.pp s.seq = true ∧ n.pc = s.pc + 4 ∧ (∀ r, n.g r = s.g r) ∧ s.KeepsOutside n ∧
      prefixOf (n.core.pfx s.seq) = ⟨f, g, h, t, u, bit e 0, bit e 1⟩

/-! ## Scalar accesses -/

/-- R197, R198, R134: a load whose bytes the core holds gives them sign-extended, and changes nothing else; an acquire load, whose words
are all in V or all owned, also drops the V words of the stash. -/
def Clauses.LoadsHere : Prop :=
  ∀ (s : State) (z : BitVec 2) (d a : Reg) (o : BitVec 12) (pa : Nat), s.Accepts .shared → s.Free [d, a] →
    s.access (s.g a + o.signExtend 64) (2 ^ z.toNat) .load = .ok pa → s.Holds pa (2 ^ z.toNat) → s.sideEffect pa = false →
    let x := signed (8 * 2 ^ z.toNat) (BitVec.ofNat 64 (ofBytes (s.heldBytes pa (2 ^ z.toNat))))
    (s.Does (.ld z d a o) fun t => s.Gives t d x (s.pc + 4)) ∧
    ((∀ w ∈ wordsOf pa (2 ^ z.toNat), s.core.word w = some .V) ∨ (∀ w ∈ wordsOf pa (2 ^ z.toNat), s.core.word w ≠ some .V) →
      s.Does (.ldAcq z d a o) fun t => t.g d = written d x ∧ s.OnlyReg t d ∧ t.pc = s.pc + 4 ∧ s.marked.KeepsOutside t ∧
        t.core.mem.stash = s.acquired)

/-- R195, R198, R275: a load of which some byte is elsewhere retires once its requests are sent: `ocl` rises, its register is held, and no
register and no byte of memory changes yet. -/
def Clauses.LoadsAway : Prop :=
  ∀ (s : State) (z : BitVec 2) (d a : Reg) (o : BitVec 12) (pa : Nat), s.Accepts .shared → s.Free [d, a] →
    s.access (s.g a + o.signExtend 64) (2 ^ z.toNat) .load = .ok pa → s.route pa ≠ .here →
    (s.route pa = .stash → ∃ w ∈ wordsOf pa (2 ^ z.toNat), s.core.word w = none) → s.poisoned pa (2 ^ z.toNat) = false →
    s.pendingWord pa (2 ^ z.toNat) = false → s.sideEffect pa = false → (∀ x ∈ s.core.ctl.awaits, x.q ≠ s.seq) → s.oc.ocl < 32 →
    s.canPost s.unit (s.asked pa) 2 = true →
    ∀ i ∈ [Instr.ld z d a o, .ldAcq z d a o],
      s.Does i fun t => t.oc.ocl = s.oc.ocl + 1 ∧ (d ≠ 0 → t.held d = true) ∧ (∀ r, t.g r = s.g r) ∧ t.pc = s.pc + 4 ∧ t.mem = s.mem

/-- R197, R198, R424: a store to bytes that the core holds writes the low bytes of its register there, least significant first, and
no other byte. -/
def Clauses.StoresHere : Prop :=
  ∀ (s : State) (z : BitVec 2) (d a : Reg) (o : BitVec 12) (pa at_ : Nat), s.Free [d, a] → s.MemoryWf →
    s.core.pair = none → s.access (s.g a + o.signExtend 64) (2 ^ z.toNat) .store = .ok pa → s.localAt pa (2 ^ z.toNat) = some at_ →
    s.pendingWord pa (2 ^ z.toNat) = false →
    (s.Accepts .shared → s.Does (.st z d a o) fun t =>
      (∀ i < 2 ^ z.toNat, readByte t.mem (at_ + i) = byteOf (s.g d) i) ∧ s.KeepsBytes t at_ (2 ^ z.toNat) ∧
      (∀ r, t.g r = s.g r) ∧ t.pc = s.pc + 4) ∧
    (s.Accepts { Form.shared with exchange := true } → s.released = true → s.Does (.stRel z d a o) fun t =>
      (∀ i < 2 ^ z.toNat, readByte t.mem (at_ + i) = byteOf (s.g d) i) ∧ s.KeepsBytes t at_ (2 ^ z.toNat) ∧
      (∀ r, t.g r = s.g r) ∧ t.pc = s.pc + 4)

/-- R195, R198: a store to another unit retires once its requests are sent: `ocs` rises, and no register and no byte of memory changes
yet. -/
def Clauses.StoresAway : Prop :=
  ∀ (s : State) (z : BitVec 2) (d a : Reg) (o : BitVec 12) (pa : Nat) (u : UnitName), s.Accepts .shared → s.Free [d, a] →
    s.core.pair = none → s.access (s.g a + o.signExtend 64) (2 ^ z.toNat) .store = .ok pa → s.route pa = .away u →
    s.oc.ocs < 32 → s.canPost s.unit u 2 = true →
    (s.Does (.st z d a o) fun t => t.oc.ocs = s.oc.ocs + 1 ∧ (∀ r, t.g r = s.g r) ∧ t.pc = s.pc + 4 ∧ t.mem = s.mem) ∧
    (s.Accepts { Form.shared with exchange := true } → s.released = true → s.Does (.stRel z d a o) fun t =>
      t.oc.ocs = s.oc.ocs + 1 ∧ (∀ r, t.g r = s.g r) ∧ t.pc = s.pc + 4 ∧ t.mem = s.mem)

/-- R424: the leader of a hinge pair puts a store into its gate: no byte of memory changes and no request is sent. -/
def Clauses.GatedStores : Prop :=
  ∀ (s : State) (z : BitVec 2) (d a : Reg) (o : BitVec 12) (pa : Nat) (p : Pair), s.Accepts .shared → s.Free [d, a] →
    s.seq = .control → s.core.pair = some p → p.forces s.pc = false → p.gate.length < 128 →
    s.access (s.g a + o.signExtend 64) (2 ^ z.toNat) .store = .ok pa →
    s.Does (.st z d a o) fun t => s.KeepsOutside { t with fresh := s.fresh } ∧ (∀ r, t.g r = s.g r) ∧ t.pc = s.pc + 4 ∧
      (t.core.pair.map (·.gate)) = some (p.gate ++ [⟨s.fresh, s.g a + o.signExtend 64, [(pa, toBytes (2 ^ z.toNat) (s.g d).toNat)], s.place pa == .window⟩])

/-- R108: `ld.d` and `st.d` through g2 with the offset 8 times the field, in 16 bits. -/
def Clauses.ShortAccesses : Prop :=
  ∀ (s : State) (d : Reg) (i : BitVec 6) (pa : Nat), s.Accepts { Form.shared with len := 2 } → s.Free [d, 2] → s.route pa = .here →
    (s.access (s.g 2 + (i.setWidth 64 <<< 3)) 8 .load = .ok pa → s.poisoned pa 8 = false → s.core.pair = none →
      s.Does (.ld16 d i) fun t => s.Gives t d (readWord s.mem pa) (s.pc + 2)) ∧
    (s.access (s.g 2 + (i.setWidth 64 <<< 3)) 8 .store = .ok pa → s.MemoryWf → s.core.pair = none →
      s.Does (.st16 d i) fun t => (∀ j < 8, readByte t.mem (pa + j) = byteOf (s.g d) j) ∧ s.KeepsBytes t pa 8 ∧
        (∀ r, t.g r = s.g r) ∧ t.pc = s.pc + 2)

/-- R203, R136, R134: an atomic on bytes that the core holds gives the old value sign-extended, writes what R203 names and no other
byte; an acquire drops the V words of the stash. -/
def Clauses.AtomicsHere : Prop :=
  ∀ (s : State) (p : AmoOp) (q : AmoOrder) (w : Width) (d a b : Reg) (pa at_ : Nat), s.Accepts { Form.shared with exchange := true } →
    s.Free [d, a, b] → s.MemoryWf → s.access (s.g a) (p.bytes w) .atomic = .ok pa → s.place pa ≠ .host →
    s.localAt pa (p.bytes w) = some at_ → s.poisoned pa (p.bytes w) = false → s.pendingWord pa (p.bytes w) = false →
    (q = .rel → s.released = true) →
    s.Does (p.instr q w d a b) fun t =>
      t.g d = written d (signed (8 * p.bytes w) (BitVec.ofNat 64 (readNat s.mem at_ (p.bytes w)))) ∧ s.OnlyReg t d ∧
      t.pc = s.pc + 4 ∧ (if q = .acq then s.marked else s).KeepsBytes t at_ (p.bytes w) ∧
      t.mem = ((amoNew p (p.bytes w) (BitVec.ofNat 64 (readNat s.mem at_ (p.bytes w))) (s.g b) (s.g d)).elim s.mem
        fun x => writeNat s.mem at_ (p.bytes w) x.toNat) ∧
      t.core.mem.stash = if q = .acq then s.acquired else s.core.mem.stash

/-- R195, R203: an atomic on another unit's bytes retires once its request is sent: `ocl` rises and its register is held. -/
def Clauses.AtomicsAway : Prop :=
  ∀ (s : State) (p : AmoOp) (q : AmoOrder) (w : Width) (d a b : Reg) (pa : Nat) (u : UnitName),
    s.Accepts { Form.shared with exchange := true } → s.Free [d, a, b] → s.access (s.g a) (p.bytes w) .atomic = .ok pa →
    s.place pa ≠ .host → s.route pa = .away u → s.storing pa (p.bytes w) = false → (∀ x ∈ s.core.ctl.awaits, x.q ≠ s.seq) →
    s.oc.ocl < 32 → s.roomFor [pa] = true → (q = .rel → s.released = true) →
    s.Does (p.instr q w d a b) fun t => t.oc.ocl = s.oc.ocl + 1 ∧ (d ≠ 0 → t.held d = true) ∧ (∀ r, t.g r = s.g r) ∧
      t.pc = s.pc + 4 ∧ t.mem = s.mem

/-- R204, R134: the fences: each retires when what it waits for has come, and those that acquire drop the V words of the stash. -/
def Clauses.Fences : Prop :=
  ∀ s : State,
    (s.Accepts .shared → s.loaded = true →
      s.Does .fenceAcq fun t => t.core.mem.stash = s.acquired ∧ (∀ r, t.g r = s.g r) ∧ t.pc = s.pc + 4 ∧ s.marked.KeepsOutside t) ∧
    (s.Accepts { Form.shared with exchange := true } → s.released = true →
      (s.Does .fenceRel fun t => s.Goes t (s.pc + 4)) ∧
      (s.Does .fenceFull fun t => t.core.mem.stash = s.acquired ∧ (∀ r, t.g r = s.g r) ∧ t.pc = s.pc + 4 ∧ s.marked.KeepsOutside t))

/-- R206, R207, R208: `stash.map` with too few free pages gives 0 and changes nothing else; with enough it gives the count, with the frames
that were not mapped in free pages. `stash.wb` and `stash.unmap` retire once no word of the frames is owned or on its way and no write-back
is out, the latter with the frames unmapped. -/
def Clauses.StashPages : Prop :=
  ∀ (s : State) (d a b : Reg) (pages : List Word) (frames : List Nat), s.Free [d, a, b] →
    s.pageRange (s.g a) (s.g b) = .ok pages → s.framesOf pages = .ok frames →
    (s.Accepts .control →
      (s.core.freeList.length < ((frames.filter fun f => (s.core.stashPage f).isNone).eraseDups).length →
        s.Does (.stashMap d a b) fun t => s.Gives t d 0 (s.pc + 4)) ∧
      (((frames.filter fun f => (s.core.stashPage f).isNone).eraseDups).length ≤ s.core.freeList.length →
        s.Does (.stashMap d a b) fun t => t.g d = written d (s.g b) ∧ s.OnlyReg t d ∧ t.pc = s.pc + 4 ∧ s.KeepsOutside t ∧
          t.core.mem.pages = (s.core.mapStash
            (s.core.freeList.zip ((frames.filter fun f => (s.core.stashPage f).isNone).eraseDups))).mem.pages)) ∧
    (s.Accepts { Form.control with exchange := true } → (∀ w, s.pendingAnswer = some w → w.left = 0 ∧ w.status = 0) →
      (∀ e ∈ s.core.mem.stash, frames.contains (e.1 / 1024) = true → e.2 = .V) → (∀ f ∈ frames, s.pendingWord (4096 * f) 4096 = false) →
      (s.Does (.stashWb a b) fun t => s.Goes t (s.pc + 4)) ∧
      (s.Does (.stashUnmap a b) fun t => (∀ f ∈ frames, f < 2 ^ 52 → t.core.stashPage f = none) ∧
        t.core.mem.stash = (s.core.mem.stash.filter fun e => !frames.contains (e.1 / 1024) || (s.core.stashPage (e.1 / 1024)).isNone) ∧
        (∀ r, t.g r = s.g r) ∧ t.pc = s.pc + 4 ∧
        (s.spoilFills s.cur fun l => (frames.filter fun f => (s.core.stashPage f).isSome).contains (l / 32)).KeepsOutside t))

/-- R210, R211, R148: `spill` of one resident scratch page puts its bytes into the forwarding table and frees its local page; `fill` of one
page that is not resident puts its newest forwarded bytes, else those of its frame, into the first free local page, which the task's list
then names, and gives 1, or gives 0 when no page is free. -/
def Clauses.ScratchPages : Prop :=
  ∀ (s : State) (d a b : Reg) (i : Nat) (p : ScratchPage), s.Accepts { Form.control with exchange := true } → s.Free [d, a, b] →
    s.g b = 1 → (s.g a).toNat % 4096 = 0 → s.scratchOf (s.g a) = some (i, p) →
    (∀ n, p.page = some n → n < 128 → s.core.mem.spills.length < 8 →
      s.Does (.spill a b) fun t => t.pc = s.pc + 4 ∧ (∀ r, t.g r = s.g r) ∧ t.mem = s.mem ∧
        t.core.mem.spills = s.core.mem.spills ++ [⟨s.fresh, p.frame, readBytes s.mem (s.sramBase s.cur + 4096 * n) 4096⟩] ∧
        n ∈ t.core.freeList ∧ (t.core.ctl.task.bind fun k => k.scratch[i]?) = some { p with page := none }) ∧
    (p.page = none → s.core.freeList = [] → s.Does (.fill d a b) fun t => s.Gives t d 0 (s.pc + 4)) ∧
    (∀ n l, p.page = none → s.core.freeList = n :: l →
      s.Does (.fill d a b) fun t => t.g d = written d 1 ∧ s.OnlyReg t d ∧ t.pc = s.pc + 4 ∧
        t.mem = writeBytes s.mem (s.sramBase s.cur + 4096 * n)
          ((s.core.mem.spills.reverse.find? (·.frame == p.frame)).elim (readBytes s.mem p.frame 4096) (·.bytes)) ∧
        (t.core.ctl.task.bind fun k => k.scratch[i]?) = some { p with page := some n })

/-- R212, R213, R118: `tstate` gives a tile's entry; `tmld` from bytes that the core holds loads the tensor map and changes nothing else;
`tmst` to bytes that the core holds stores it there, into 32 bytes and no other, and to another unit's retires with its stores sent. -/
def Clauses.TilesAndMaps : Prop :=
  ∀ (s : State) (d a : Reg) (m : BitVec 4) (ps : List (Nat × Nat)) (pa : Nat), s.Free [d, a] →
    (s.Accepts .control → (s.g a).toNat < 64 →
      s.Does (.tstate d a) fun t => s.Gives t d (s.core.tile ((s.g a).setWidth 6)) (s.pc + 4)) ∧
    (s.Accepts { Form.control with inPair := false, withMatrix := false } → s.accessDwords (s.g a) 32 32 .load = .ok ps →
      s.HasPieces ps → s.pendingAnswer = none →
      s.Does (.tmld a m) fun t => t.core.vec.m.get m.toFin = BitVec.ofNat 256 (ofBytes (s.pieceBytes ps)) ∧
        (∀ n, n ≠ m → t.core.vec.m.get n.toFin = s.core.vec.m.get n.toFin) ∧ t.core.vec.v = s.core.vec.v ∧
        t.core.vec.p = s.core.vec.p ∧ (∀ r, t.g r = s.g r) ∧ t.pc = s.pc + 4 ∧ s.KeepsOutside t) ∧
    (s.Accepts .control → s.accessDwords (s.g a) 32 32 .store = .ok ps → ps.head?.map (·.1) = some pa → s.core.pair = none →
      (∀ b, s.localAt pa 32 = some b → s.pendingWord pa 32 = false → s.MemoryWf →
        s.Does (.tmst a m) fun t => readNat t.mem b 32 = (s.core.vec.m.get m.toFin).toNat ∧ s.KeepsBytes t b 32 ∧
          (∀ r, t.g r = s.g r) ∧ t.pc = s.pc + 4) ∧
      (∀ u, s.route pa = .away u → s.oc.ocs + 4 ≤ 32 → s.canPost s.unit u 8 = true →
        s.Does (.tmst a m) fun t => t.oc.ocs = s.oc.ocs + 4 ∧ t.mem = s.mem ∧ (∀ r, t.g r = s.g r) ∧ t.pc = s.pc + 4))

/-! ## Scheduling -/

/-- R230, R54: `spawn` whose record is read: 2 where the record's chamber takes no records, 1 where the deque is full, BUDGET where the
charge is not allowed, and else, once earlier stores have their points, 0, with the charge made and the record pushed at the bottom of
the deque. -/
def Clauses.Spawn : Prop :=
  ∀ (s : State) (d a b : Reg) (bs : List Byte), s.Accepts .sched → s.Free [d, a, b] → s.readRecord (s.g a) 64 = .ok (.inl bs) →
    (s.takesRecords (recCid (recOf bs)) = false → s.Does (.spawn d a b) fun t => s.Gives t d 2 (s.pc + 4)) ∧
    (s.takesRecords (recCid (recOf bs)) = true → 256 ≤ s.core.sched.deque.length →
      s.Does (.spawn d a b) fun t => s.Gives t d 1 (s.pc + 4)) ∧
    (s.takesRecords (recCid (recOf bs)) = true → s.core.sched.deque.length < 256 →
      (s.budget (recCid (recOf bs)) (s.g b).toNat ≠ .ok () →
        exec (.spawn d a b) s = .next (s.takeTrap ⟨0x11, 0, 0, false, false⟩ true)) ∧
      (s.budget (recCid (recOf bs)) (s.g b).toNat = .ok () → s.released = true → s.Does (.spawn d a b) fun t =>
        t = (((s.charge s.ctx (recCid (recOf bs)) (pagesOf (s.g b).toNat)).pushSlot s.cur
          ⟨recOf bs, s.cid, false, false, 0, s.ctx⟩ false).setG d 0).next 4 ∧
        ⟨recOf bs, s.cid, false, false, 0, s.ctx⟩ ∈ t.core.sched.deque))

/-- R231: `spawnt` gives 3 for a core that the context may not use and 2 for a chamber that takes no records; else, once earlier stores
have their points, it sends one PUSH with the record to the core and waits, and then gives the word that the core answered. -/
def Clauses.SpawnAt : Prop :=
  ∀ (s : State) (d a b : Reg) (bs : List Byte), s.Accepts .sched → s.Free [d, a, b] → bits (s.g b) 16 48 = 0 →
    (s.sentAnswer = none → s.readRecord (s.g a) 64 = .ok (.inl bs) →
      (s.fits s.ctx ((s.g b).setWidth 16) = false → s.Does (.spawnt d a b) fun t => s.Gives t d 3 (s.pc + 4)) ∧
      (s.fits s.ctx ((s.g b).setWidth 16) = true → s.takesRecords (recCid (recOf bs)) = false →
        s.Does (.spawnt d a b) fun t => s.Gives t d 2 (s.pc + 4)) ∧
      (s.fits s.ctx ((s.g b).setWidth 16) = true → s.takesRecords (recCid (recOf bs)) = true → s.released = true →
        s.canPost s.unit (coreUnit s ((s.g b).setWidth 16)) 1 = true → s.Does (.spawnt d a b) fun t =>
          s.Asks t (coreUnit s ((s.g b).setWidth 16)) 20 (.push ⟨recOf bs, s.cid, false, false, 0, s.ctx⟩ (s.features.setWidth 6)) ∧
          t.sentAnswer.isSome = true ∧ t.pc = s.pc ∧ (∀ r, t.g r = s.g r) ∧ t.mem = s.mem)) ∧
    (∀ w, s.sentAnswer = some w → w.left = 0 → w.status = 0 →
      s.Does (.spawnt d a b) fun t => s.Gives t d (BitVec.ofNat 64 (ofBytes ((assocGet 0 w.got).getD []))) (s.pc + 4))

/-- R232, R239, R430: `retire` of a task that holds no window, has nothing outstanding and owes no basin read ends it; with a window held
it traps MSOVER, with `kaddr` the handle. `yield` puts the task, at the next instruction, into the resume list, and only retires when the
list is full. In a hinge pair each first acts as `unpair`: the checker's core goes back, with its own copy of the registers. -/
def Clauses.RetireAndYield : Prop :=
  ∀ (s : State) (k : Task), s.Accepts .sched → s.seq = .control → s.core.ctl.task = some k → s.tt = false →
    (s.core.pair = none →
      (s.core.vs.opened = false → s.core.ms.opened = false →
        (k.windows = [] → s.core.ctl.oc.isZero = true → s.owedBy (recArg k.record 3) (recOwed k.record) = 0 → s.released = true →
          exec .retire s = .next (s.retire.endRunning s.cur)) ∧
        (∀ w l, k.windows = w :: l → exec .retire s = .next (s.takeTrap ⟨0x16, s.handle w, 0, false, false⟩ true))) ∧
      (32 ≤ s.core.sched.resume.length → s.Does .yield fun t => s.Goes t (s.pc + 4)) ∧
      (s.core.sched.resume.length < 32 → s.core.quiet = true → s.core.matrixBusy = false →
        exec .yield s = .next ((s.next 4).intoResume s.cur true))) ∧
    (∀ p, s.core.pair = some p → s.released = true → ∀ i ∈ [Instr.retire, .yield],
      s.Does i fun t => t.core.pair = none ∧ t.pc = s.pc ∧ t.core.ctl.task = some k ∧ (p.partner ≠ s.cur →
        (t.getCore p.partner).ctl.run = .idle ∧ (t.getCore p.partner).thr.g = p.own.thr.g ∧ (t.getCore p.partner).vec = p.own.vec ∧
        (t.getCore p.partner).ctl.k.kcnt = p.kcnt))

/-- R233, R234, R54: `chopen` gives the reason for which it refuses an RCB, traps BUDGET where its charge is not allowed, and else opens
the chamber and gives its CID; `chclose` gives 2 for a chamber that is not open, waits, in CST 2, while something of the chamber or its
descendants lives, and else closes them and gives 0, or 1 for a chamber that had failed; the close is an acquire. -/
def Clauses.OpenAndClose : Prop :=
  ∀ (s : State) (d a b : Reg) (c : Context), s.Accepts .sched → s.Free [d, a, b] → s.findCtx s.ctx = some c →
    (∀ bs, s.readRecord (s.g a) 256 = .ok (.inl bs) →
      (s.refuseChamber c bs ≠ 0 → s.Does (.chopen d a b) fun t =>
        s.Gives t d (0x8000000000000000#64 ||| BitVec.ofNat 64 (s.refuseChamber c bs)) (s.pc + 4)) ∧
      (∀ pa, s.refuseChamber c bs = 0 → s.translate (s.g a) .load = .ok pa →
        let parent := (s.deviceTranslate c.ctx (BitVec.ofNat 64 (field bs 0 8)) .load).bind fun p => c.chambers.find? (·.rcb == p)
        let line := chamberOf bs pa c.freshCid 0 :: parent.elim [] fun h => s.lineOf c.ctx h.cid
        (s.g b ≠ 0 → s.mayCharge c line (pagesOf (s.g b).toNat) = false →
          exec (.chopen d a b) s = .next (s.takeTrap ⟨0x11, 0, 0, false, false⟩ true)) ∧
        (s.g b = 0 ∨ s.mayCharge c line (pagesOf (s.g b).toNat) = true → s.released = true → s.Does (.chopen d a b) fun t =>
          t = ((s.openChamber c bs pa (pagesOf (s.g b).toNat)).setG d (c.freshCid.setWidth 64)).next 4 ∧
          (t.chamber c.ctx c.freshCid).isSome = true))) ∧
    (∀ cid, s.cidOf (s.g a) = .ok cid → s.isWithin s.ctx s.cid cid = false →
      ((s.chamber s.ctx cid).filter (·.isOpen) = none → s.Does (.chclose d a) fun t => s.Gives t d 2 (s.pc + 4)) ∧
      (∀ h, (s.chamber s.ctx cid).filter (·.isOpen) = some h →
        let u := if h.cst = 1 then s.modChamber s.ctx cid fun h => { h with cst := 2 } else s
        (h.cst = 1 ∨ h.cst = 2 → s.lifeless s.ctx cid = false → s.Does (.chclose d a) fun t => t.pc = u.pc ∧ t.mem = u.mem ∧
          t.work = u.work ∧ t.agenda = u.agenda ∧ ∀ r, t.g r = u.g r) ∧
        (h.cst = 4 ∨ ((h.cst = 1 ∨ h.cst = 2) ∧ s.lifeless s.ctx cid = true) → s.Does (.chclose d a) fun t =>
          t = (((((u.closeBelow s.ctx cid).closeChamber s.ctx cid).modCtx s.ctx fun c => { c with
            chambers := c.chambers.filter fun k => k.cid != cid }).acquire).setG d (ofBool (h.cst == 4))).next 4 ∧
          t.chamber s.ctx cid = none ∧ (∀ e ∈ t.core.mem.stash, e.2 ≠ .V))))

/-- R235: `chbudget` gives the value it is asked for; `chprio` gives the priority, which a value up to 15 replaces and all ones leaves; each
gives all ones for a chamber that is not open, `chprio` also for one that is not the task's own chamber or below it. -/
def Clauses.ChamberValues : Prop :=
  ∀ (s : State) (d a b : Reg) (cid : W32), s.Accepts .sched → s.Free [d, a, b] → s.cidOf (s.g a) = .ok cid →
    ((s.g b).toNat ≤ 14 →
      ((s.chamber s.ctx cid).filter (·.isOpen) = none →
        s.Does (.chbudget d a b) fun t => s.Gives t d (BitVec.allOnes 64) (s.pc + 4)) ∧
      (∀ h, (s.chamber s.ctx cid).filter (·.isOpen) = some h →
        s.Does (.chbudget d a b) fun t => s.Gives t d (BitVec.ofNat 64 (s.budgetValue h (s.g b).toNat)) (s.pc + 4))) ∧
    ((s.g b).toNat ≤ 15 ∨ s.g b = BitVec.allOnes 64 →
      ((s.chamber s.ctx cid).filter (fun h => h.isOpen && s.isWithin s.ctx cid s.cid) = none →
        s.Does (.chprio d a b) fun t => s.Gives t d (BitVec.allOnes 64) (s.pc + 4)) ∧
      (∀ h, (s.chamber s.ctx cid).filter (fun h => h.isOpen && s.isWithin s.ctx cid s.cid) = some h →
        (s.g b = BitVec.allOnes 64 →
          s.Does (.chprio d a b) fun t => s.Gives t d (BitVec.ofNat 64 (s.prio s.ctx cid)) (s.pc + 4)) ∧
        ((s.g b).toNat ≤ 15 → s.Does (.chprio d a b) fun t => t.g d = written d (BitVec.ofNat 64 (s.prio s.ctx cid)) ∧ s.OnlyReg t d ∧
          t.pc = s.pc + 4 ∧ (t.chamber s.ctx cid).map (·.prio) = some (s.g b).toNat)))

/-- R236, R237: `nest` gives 3 for a chamber that is not open or not the task's own or below it, 1 while a nest of it has iterations left, 2
for 2^64 iterations, and else publishes the nest with a new generation; `nextit` with iterations left of its chunk takes the next, unpacked
into `i0` to `i3`; else it sends one CLAIM to the nest's home and waits, takes the first iteration of the chunk it is given, and goes to its
target when it is given none. -/
def Clauses.LoopNests : Prop :=
  ∀ (s : State) (d a b : Reg) (o : BitVec 19), s.Accepts .sched →
    (s.Free [d, a, b] → ∀ cid, s.cidOf (s.g b) = .ok cid →
      ((s.chamber s.ctx cid).filter (fun h => h.isOpen && s.isWithin s.ctx cid s.cid) = none →
        s.Does (.nest d a b) fun t => s.Gives t d 3 (s.pc + 4)) ∧
      (∀ h, (s.chamber s.ctx cid).filter (fun h => h.isOpen && s.isWithin s.ctx cid s.cid) = some h →
        (h.nest.act = true → h.nest.next < h.nest.total → s.Does (.nest d a b) fun t => s.Gives t d 1 (s.pc + 4)) ∧
        (h.nest.act = false ∨ h.nest.total ≤ h.nest.next →
          let n := extent (s.g a) 0 * extent (s.g a) 1 * extent (s.g a) 2 * extent (s.g a) 3
          (n = 2 ^ 64 → s.Does (.nest d a b) fun t => s.Gives t d 2 (s.pc + 4)) ∧
          (n ≠ 2 ^ 64 → s.Does (.nest d a b) fun t => t.g d = 0 ∧ s.OnlyReg t d ∧ t.pc = s.pc + 4 ∧
            (t.chamber s.ctx cid).map (·.nest) = some ⟨h.nest.gen + 1, true, s.g a, n, 0⟩)))) ∧
    (s.seq = .control → ∀ k, s.core.ctl.task = some k → k.team = none →
      (k.fetcher.next ≠ k.fetcher.fin → s.Does (.nextit o) fun t => t.core.ctl.idx = unpack k.fetcher.ext k.fetcher.next.toNat ∧
        (t.core.ctl.task.map fun k => k.fetcher.next) = some (k.fetcher.next + 1) ∧ t.pc = s.pc + 4 ∧ (∀ r, t.g r = s.g r) ∧
        s.KeepsOutside t) ∧
      (k.fetcher.next = k.fetcher.fin → s.sentAnswer = none → s.canPost s.unit (s.nestHome s.cid) 1 = true → s.Does (.nextit o) fun t =>
        s.Asks t (s.nestHome s.cid) 21 (.claim s.ctx s.cid) ∧ t.sentAnswer.isSome = true ∧ t.pc = s.pc ∧ (∀ r, t.g r = s.g r) ∧
        t.core.ctl.idx = s.core.ctl.idx ∧ t.mem = s.mem) ∧
      (∀ w bs, k.fetcher.next = k.fetcher.fin → s.sentAnswer = some w → w.left = 0 → w.status = 0 → (assocGet 0 w.got).getD [] = bs →
        (bs = [] → s.Does (.nextit o) fun t => s.Goes t (s.pc + (o ++ 0#1).signExtend 64)) ∧
        (bs ≠ [] → s.Does (.nextit o) fun t => t.core.ctl.idx = unpack (BitVec.ofNat 64 (field bs 16 8)) (field bs 0 8 % 2 ^ 64) ∧
          (t.core.ctl.task.map fun k => k.fetcher) = some ⟨BitVec.ofNat 64 (field bs 0 8) + 1, BitVec.ofNat 64 (field bs 8 8),
            BitVec.ofNat 64 (field bs 16 8), BitVec.ofNat 32 (field bs 24 4)⟩ ∧ t.pc = s.pc + 4 ∧ (∀ r, t.g r = s.g r) ∧
          s.KeepsOutside t)))

/-! ## Vectors -/

/-- R245, R246, R247, R249, R242: the lane operations on integers, `vslide`, `vperm` and `vsel`: each active lane of `v[d]` takes what the
rule gives it, an inactive lane keeps its value, and nothing else changes; a shift by the lane width or more traps ILL. -/
def Obligations.VectorIntegers : Prop :=
  ∀ (s : State) (l : Lane) (p : Option (BitVec 3)) (d a b : Reg), s.Accepts .vec →
    (s.Does (.vadd l p d a b) fun t => s.GivesLanes t l p d fun k => s.elem l a k + s.elem l b k) ∧
    (s.Does (.vsub l p d a b) fun t => s.GivesLanes t l p d fun k => s.elem l a k - s.elem l b k) ∧
    (s.Does (.vmul l p d a b) fun t => s.GivesLanes t l p d fun k => s.elem l a k * s.elem l b k) ∧
    (s.Does (.vmin l p d a b) fun t => s.GivesLanes t l p d fun k =>
      if (s.elem l a k).slt (s.elem l b k) then s.elem l a k else s.elem l b k) ∧
    (s.Does (.vmax l p d a b) fun t => s.GivesLanes t l p d fun k =>
      if (s.elem l a k).slt (s.elem l b k) then s.elem l b k else s.elem l a k) ∧
    (s.Does (.vand l p d a b) fun t => s.GivesLanes t l p d fun k => s.elem l a k &&& s.elem l b k) ∧
    (s.Does (.vor l p d a b) fun t => s.GivesLanes t l p d fun k => s.elem l a k ||| s.elem l b k) ∧
    (s.Does (.vxor l p d a b) fun t => s.GivesLanes t l p d fun k => s.elem l a k ^^^ s.elem l b k) ∧
    (s.Does (.vsadd l p d a b) fun t => s.GivesLanes t l p d fun k => saturate _ ((s.elem l a k).toInt + (s.elem l b k).toInt)) ∧
    (s.Does (.vssub l p d a b) fun t => s.GivesLanes t l p d fun k => saturate _ ((s.elem l a k).toInt - (s.elem l b k).toInt)) ∧
    (s.Does (.vabs l p d a) fun t => s.GivesLanes t l p d fun k => if (s.elem l a k).msb then -s.elem l a k else s.elem l a k) ∧
    (s.Does (.vneg l p d a) fun t => s.GivesLanes t l p d fun k => -s.elem l a k) ∧
    (∀ n : BitVec 5,
      (n.toNat < laneBits l →
        (s.Does (.vshl l p d a n) fun t => s.GivesLanes t l p d fun k => s.elem l a k <<< n.toNat) ∧
        (s.Does (.vshr l p d a n) fun t => s.GivesLanes t l p d fun k => s.elem l a k >>> n.toNat) ∧
        (s.Does (.vsar l p d a n) fun t => s.GivesLanes t l p d fun k => (s.elem l a k).sshiftRight n.toNat)) ∧
      (laneBits l ≤ n.toNat → ∀ i ∈ [Instr.vshl l p d a n, .vshr l p d a n, .vsar l p d a n],
        exec i s = .next ((s.useGroup .vec).takeTrap ⟨0x01, s.pc, 0, false, false⟩ true)) ∧
      (s.Does (.vslide l p d a n) fun t => s.GivesLanes t l p d fun k => BitVec.ofNat _ (lane (s.lanes l a) (k + n.toNat)))) ∧
    (s.Does (.vperm l p d a b) fun t => s.GivesLanes t l p d fun k => BitVec.ofNat _ (lane (s.lanes l a) (s.elem l b k).toNat)) ∧
    (∀ q : BitVec 3, s.Does (.vsel l q d a b) fun t => s.GivesLanes t l none d fun k =>
      if s.active l (some q) k then s.elem l a k else s.elem l b k)

/-- R250: `vbcast` puts the low bits of a general register into every active lane; `vextr` gives lane g[b] sign-extended, and zero for a
lane that does not exist. -/
def Clauses.VectorAndGeneral : Prop :=
  ∀ (s : State) (l : Lane) (p : Option (BitVec 3)) (d a b : Reg), s.Accepts .vec →
    (s.Free [a] → s.Does (.vbcast l p d a) fun t => s.GivesLanes t l p d fun _ => BitVec.ofNat _ (s.g a).toNat) ∧
    (s.Free [d, b] → s.Does (.vextr l d a b) fun t => s.Gives t d
      (if (s.g b).toNat < laneCount l then (s.elem l a (s.g b).toNat).signExtend 64 else 0) (s.pc + 4))

/-- R243, R244, R253: the lane operations on numbers: the lanes are decoded in the format in force; the exact result of an arithmetic
operation is rounded once into it, and that of `vexp2`, `vrcp` and `vrsq` is the one that their steps give; an inactive lane keeps its
value. A format that the lanes do not take traps ILL, and so do those three on bytes. -/
def Clauses.VectorNumbers : Prop :=
  ∀ (s : State) (l : Lane) (p : Option (BitVec 3)) (d a b : Reg), s.Accepts .vecPfx →
    (∀ f, s.laneFmt l = .ok f →
      (s.Does (.vfadd l p d a b) fun t => s.GivesLanes t l p d fun k => s.laneOf f l ((s.num f l a k).add (s.num f l b k))) ∧
      (s.Does (.vfsub l p d a b) fun t => s.GivesLanes t l p d fun k => s.laneOf f l ((s.num f l a k).add (s.num f l b k).minus)) ∧
      (s.Does (.vfmul l p d a b) fun t => s.GivesLanes t l p d fun k => s.laneOf f l ((s.num f l a k).mul (s.num f l b k))) ∧
      (s.Does (.vfma l p d a b) fun t => s.GivesLanes t l p d fun k =>
        s.laneOf f l ((s.num f l d k).add ((s.num f l a k).mul (s.num f l b k)))) ∧
      (s.Does (.vfms l p d a b) fun t => s.GivesLanes t l p d fun k =>
        s.laneOf f l ((s.num f l d k).add ((s.num f l a k).mul (s.num f l b k)).minus)) ∧
      (s.Does (.vfmin l p d a b) fun t => s.GivesLanes t l p d fun k => s.laneOf f l (Machine.Num.pick false (s.num f l a k) (s.num f l b k))) ∧
      (s.Does (.vfmax l p d a b) fun t => s.GivesLanes t l p d fun k => s.laneOf f l (Machine.Num.pick true (s.num f l a k) (s.num f l b k))) ∧
      (s.Does (.vfabs l p d a) fun t => s.GivesLanes t l p d fun k => s.laneOf f l (s.num f l a k).abs) ∧
      (l ≠ .b8 →
        (s.Does (.vexp2 l p d a) fun t => s.GivesLanes t l p d fun k =>
          BitVec.ofNat _ (encodeNum f false false (exp2Of (decodeNum f false (lane (s.lanes l a) k))))) ∧
        (s.Does (.vrcp l p d a) fun t => s.GivesLanes t l p d fun k =>
          BitVec.ofNat _ (encodeNum f false false (rcpOf (decodeNum f false (lane (s.lanes l a) k))))) ∧
        (s.Does (.vrsq l p d a) fun t => s.GivesLanes t l p d fun k =>
          BitVec.ofNat _ (encodeNum f false false (rsqOf (decodeNum f false (lane (s.lanes l a) k))))))) ∧
    (s.laneFmt l = illegal s → ∀ i ∈ [Instr.vfadd l p d a b, .vfsub l p d a b, .vfmul l p d a b, .vfma l p d a b, .vfms l p d a b,
        .vfmin l p d a b, .vfmax l p d a b, .vfabs l p d a, .vexp2 l p d a, .vrcp l p d a, .vrsq l p d a],
      exec i s = .next ((s.useGroup .vecPfx).takeTrap ⟨0x01, s.pc, 0, false, false⟩ true)) ∧
    (l = .b8 → ∀ i ∈ [Instr.vexp2 l p d a, .vrcp l p d a, .vrsq l p d a], exec i s = .next ((s.useGroup .vecPfx).takeTrap ⟨0x01, s.pc, 0, false, false⟩ true))

/-- R247, R240: the compares write one mask, with the bits that R240 gives each lane; a NaN compares false, and -0 equals +0. -/
def Clauses.VectorCompares : Prop :=
  (∀ x y : Machine.Num, x.isNaN = true ∨ y.isNaN = true → x.eq y = false ∧ x.lt y = false) ∧
  (∀ n m : Bool, (Machine.Num.zero n).eq (.zero m) = true ∧ (Machine.Num.zero n).lt (.zero m) = false) ∧
  ∀ (s : State) (l : Lane) (p : Option (BitVec 3)) (d : BitVec 3) (a b : Reg),
    (s.Accepts .vec →
      (s.Does (.vcmpeq l p d a b) fun t => s.GivesMask t d (s.comparison l p fun k => s.elem l a k == s.elem l b k)) ∧
      (s.Does (.vcmplt l p d a b) fun t => s.GivesMask t d (s.comparison l p fun k => (s.elem l a k).slt (s.elem l b k))) ∧
      (s.Does (.vcmple l p d a b) fun t => s.GivesMask t d (s.comparison l p fun k => (s.elem l a k).sle (s.elem l b k)))) ∧
    (s.Accepts .vecPfx → ∀ f, s.laneFmt l = .ok f →
      (s.Does (.vfcmpeq l p d a b) fun t => s.GivesMask t d (s.comparison l p fun k => (s.num f l a k).eq (s.num f l b k))) ∧
      (s.Does (.vfcmplt l p d a b) fun t => s.GivesMask t d (s.comparison l p fun k => (s.num f l a k).lt (s.num f l b k))) ∧
      (s.Does (.vfcmple l p d a b) fun t => s.GivesMask t d (s.comparison l p fun k =>
        (s.num f l a k).lt (s.num f l b k) || (s.num f l a k).eq (s.num f l b k))))

/-- R248: an integer reduction folds the active lanes, sign-extended, in lane order into the low 64 bits of v[b], and clears the rest of
v[d]; a floating one converts the active lanes to FD, puts the operation's identity into the others, folds them by the tree of
neighbours and then with element 0 of v[b], and clears the rest. -/
def Clauses.VectorReductions : Prop :=
  ∀ (s : State) (l : Lane) (p : Option (BitVec 3)) (d a b : Reg),
    (s.Accepts .vec → ∀ e ∈ [(Instr.vredsum l p d a b, fun x y : Word => x + y), (.vredmax l p d a b, fun x y => if x.slt y then y else x),
        (.vredmin l p d a b, fun x y => if x.slt y then x else y)],
      s.Does e.1 fun t => t.v d = (((List.range (laneCount l)).filter (s.active l p)).foldl
        (fun acc k => e.2 acc ((s.elem l a k).signExtend 64)) ((s.v b).setWidth 64)).setWidth 1024 ∧ s.OnlyV t d) ∧
    (s.Accepts .vecPfx → ∀ fa fd, s.laneFmt l = .ok fa →
      ((s.pending = none ∧ fd = fa) ∨ (∃ x, s.pending = some x ∧ fmtOf x.fd = some fd ∧ (fd = fa ∨ fd = .fp32))) →
      ∀ e ∈ [(Instr.vfredsum l p d a b, Machine.Num.zero true, Machine.Num.add), (.vfredmax l p d a b, .quiet, Machine.Num.pick true),
        (.vfredmin l p d a b, .quiet, Machine.Num.pick false)],
      s.Does e.1 fun t => s.OnlyV t d ∧ t.v d =
        (let op (x y : Nat) : Nat := encodeNum fd s.ns false (e.2.2 (decodeNum fd s.ns x) (decodeNum fd s.ns y))
         BitVec.ofNat 1024 (op (treeFold op (Nat.log2 (laneCount l)) ((List.range (laneCount l)).map fun k =>
           encodeNum fd s.ns false (if s.active l p k then s.num fa l a k else e.2.1))) ((s.v b).toNat % 2 ^ fd.width))))

/-- R251, R252: `vcvt` converts each active lane, of as many as the wider format has, its narrower elements taken from or put into part
`u`, and keeps every other element of v[d]; `vcvts` encodes blocks of 32 elements, with their scales into v[b], and decodes them. -/
def Clauses.VectorConversions : Prop :=
  ∀ (s : State) (l : Lane) (p : Option (BitVec 3)) (d a b : Reg) (fa fd : Fmt), s.Accepts .vecPfx →
    (∀ (r : Bool) (u : BitVec 3), s.convFmts .fp32 .fp16 = .ok (fa, fd) → convertible fa fd r = true →
      laneBits l = Nat.max fa.width fd.width → u.toNat < Nat.max fa.width fd.width / Nat.min fa.width fd.width →
      s.Does (.vcvt l p d a r u) fun t => s.OnlyV t d ∧ ∀ j < 1024 / fd.width,
        let n := 1024 / Nat.max fa.width fd.width
        let from_ := if fa.width < fd.width then u.toNat * n else 0
        let to_ := if fd.width < fa.width then u.toNat * n else 0
        ((t.v d).toNat >>> (fd.width * j)) % 2 ^ fd.width =
          if to_ ≤ j ∧ j < to_ + n ∧ s.active l p (j - to_) then
            convert fa fd s.ns r (((s.v a).toNat >>> (fa.width * (from_ + (j - to_)))) % 2 ^ fa.width) % 2 ^ fd.width
          else ((s.v d).toNat >>> (fd.width * j)) % 2 ^ fd.width) ∧
    (b ≠ d → s.convFmts .fp16 .m8 = .ok (fa, fd) →
      (fa.isWide = true → fd = .m8 ∨ fd = .m4 → laneBits l = fa.width → s.Does (.vcvts l d a b) fun t =>
        (∀ r, r ≠ d → r ≠ b → t.v r = s.v r) ∧ t.core.vec.p = s.core.vec.p ∧ (∀ r, t.g r = s.g r) ∧ s.PlainVec t ∧
        (let bs := (List.range (laneCount l / 32)).map fun q => encodeBlock (fd == .m4) s.ns
          ((((elements fa.width (laneCount l) (s.v a)).map (decodeNum fa false)).drop (32 * q)).take 32)
         t.v d = replaceLow fd.width (s.v d) (bs.flatMap (·.2)) ∧ t.v b = replaceLow 8 (s.v b) (bs.map (·.1.toNat)))) ∧
      (fa = .m8 ∨ fa = .m4 → fd.isWide = true → laneBits l = fd.width → s.Does (.vcvts l d a b) fun t => s.OnlyV t d ∧
        ∀ k < laneCount l, t.elem l d k =
          (let e := lane (elements 8 (laneCount l / 32) (s.v b)) (k / 32)
           s.laneOf fd l (if e = 255 then .quiet
            else (decodeNum fa s.ns (lane (elements fa.width (laneCount l) (s.v a)) k)).scale ((e : Int) - 127)))))

/-- R257, R198, R195: `vld` from bytes that the core holds loads 128 bytes, least significant first; `vst` to bytes that it holds
stores them there and nowhere else, and to bytes of other units retires with its requests sent and `ocs` raised by one. The bytes lie in
the segments `(offset, address, length)` that the access is cut into. -/
def Clauses.VectorAccesses : Prop :=
  ∀ (s : State) (d a : Reg) (o : BitVec 12) (segs : List (Nat × Nat × Nat)), s.Accepts .vec → s.Free [a] → s.core.pair = none →
    (s.accessSegs (s.g a + o.signExtend 64) 128 4 .load = .ok segs → s.pendingAnswer = none →
      s.HasPieces (segPieces segs) →
      s.Does (.vld d a o) fun t => s.OnlyV t d ∧ t.v d = BitVec.ofNat 1024 (ofBytes (s.pieceBytes (segPieces segs)))) ∧
    (s.accessSegs (s.g a + o.signExtend 64) 128 4 .store = .ok segs → s.oc.ocs < 32 →
      (∀ g ∈ segs, ∃ u, s.route g.2.1 = .away u ∧ s.canPost s.unit u 32 = true) →
      s.Does (.vst d a o) fun t => t.oc.ocs = s.oc.ocs + 1 ∧ t.core.vec = s.core.vec ∧ (∀ r, t.g r = s.g r) ∧ t.pc = s.pc + 4 ∧
        t.mem = s.mem) ∧
    (s.accessSegs (s.g a + o.signExtend 64) 128 4 .store = .ok segs → s.MemoryWf →
      (∀ g ∈ segs, (s.localAt g.2.1 g.2.2).isSome = true ∧ s.pendingWord g.2.1 g.2.2 = false) →
      s.Does (.vst d a o) fun t => t.core.vec = s.core.vec ∧ (∀ r, t.g r = s.g r) ∧ t.pc = s.pc + 4 ∧
        s.KeepsOutside { t with mem := s.mem } ∧
        t.mem = segs.foldl (fun m g => writeBytes m ((s.localAt g.2.1 g.2.2).getD 0)
          (((toBytes 128 (s.v d).toNat).drop g.1).take g.2.2)) s.mem ∧
        ∀ x, (∀ g ∈ segs, ∀ b, s.localAt g.2.1 g.2.2 = some b → x < b ∨ b + g.2.2 ≤ x) → readByte t.mem x = readByte s.mem x)

/-- R261, R263, R264, R265: the page extension once its reads have come: `kvdec` decodes 64 channels of one token, with +0 in every lane
where the page does not have the token; `kvscore` moves v[d] up by one element and puts the page's score into element 0, and traps NSMIS
where the header's NS is not the one in force; both trap ILL on a header that is not accepted; `topk` keeps the best K candidates in rank
order, and leaves the other entries empty. -/
def Obligations.PageExtension : Prop :=
  ∀ (s : State) (p : Option (BitVec 3)) (d a b : Reg) (bs : List Byte), s.Accepts .page → s.Free [a, b] →
    (∀ (tok h : Nat) (f : Fmt), s.g b = BitVec.ofNat 64 (tok + 256 * h) → tok < 224 → h < 2 →
      ((s.pending = none ∧ f = .fp16) ∨ (∃ x, s.pending = some x ∧ fmtOf x.fd = some f ∧ (f = .fp16 ∨ f = .bf16))) →
      (s.g a).toNat % 16384 = 0 →
      s.readRuns (s.g a) [headerRun, (0x140 + 4 * tok, 4), (0x4C0 + 64 * tok + 32 * h, 32)] = .ok (.inl bs) →
      (pageOk bs = true → s.Does (.kvdec p d a b) fun t => s.GivesLanes t .h16 p d fun k =>
        if byteAt bs 3 ≤ tok then 0
        else
          let e := byteAt (bs.drop 20) (2 * h + k / 32)
          let v := byteAt (bs.drop 24) (k / 2) / 16 ^ (k % 2) % 16
          BitVec.ofNat 16 (encodeNum f false false (if e = 255 then .quiet else (decodeM4 v).scale ((e : Int) - 127)))) ∧
      (pageOk bs = false → exec (.kvdec p d a b) s = .next ((s.useGroup .page).takeTrap ⟨0x01, s.pc, 0, false, false⟩ true))) ∧
    (∀ f : Fmt, bit a 0 = false →
      ((s.pending = none ∧ f = .fp16) ∨ (∃ x, s.pending = some x ∧ fmtOf x.fa = some f ∧ (f = .fp16 ∨ f = .bf16))) →
      (s.g b).toNat % 16384 = 0 → s.readRuns (s.g b) [headerRun, (0x40, 256)] = .ok (.inl bs) →
      (pageOk bs = true → (byteAt bs 17 % 2 == 1) = s.ns → s.Does (.kvscore d a b) fun t => s.OnlyV t d ∧ t.v d =
        BitVec.ofNat 1024 ((s.v d).toNat * 2 ^ 32 + (scoreOf
          ((elements 16 64 (s.v a) ++ elements 16 64 (s.v (a + 1))).map (decodeNum f false))
          (((bs.drop 20).map fun x => decodeM8 s.ns x.toNat).take 128) (((bs.drop 20).map fun x => decodeM8 s.ns x.toNat).drop 128)
          (byteAt bs 16)).toNat)) ∧
      (pageOk bs = true → (byteAt bs 17 % 2 == 1) = !s.ns →
        exec (.kvscore d a b) s = .next ((s.useGroup .page).takeTrap ⟨0x06, s.g b, 0, false, false⟩ true)) ∧
      (pageOk bs = false → exec (.kvscore d a b) s = .next ((s.useGroup .page).takeTrap ⟨0x01, s.pc, 0, false, false⟩ true))) ∧
    (∀ n k : Nat, s.g b = BitVec.ofNat 64 (n + 2 ^ 32 * k) → n < 2 ^ 32 → 1 ≤ k → k ≤ 32 → bit d 0 = false →
      s.Does (.topk p d a b) fun t => (∀ r, r ≠ d → r ≠ d + 1 → t.v r = s.v r) ∧ t.core.vec.p = s.core.vec.p ∧
        (∀ r, t.g r = s.g r) ∧ s.PlainVec t ∧
        (let of (tag x : Nat) : Ranked := ⟨decodeNum .fp32 false x, x, tag⟩
         let old := (List.range k).map fun i => of (lane (s.lanes .w32 d) i) (lane (s.lanes .w32 (d + 1)) i)
         let new := ((List.range 32).filter (s.active .w32 p)).map fun i => of ((n + i) % 2 ^ 32) (lane (s.lanes .w32 a) i)
         let best := (rankAll ((old ++ new).filter fun c => !c.score.isNaN)).take k
         ∀ i < 32, t.elem .w32 d i = BitVec.ofNat _ (((best[i]?).map (·.tag)).getD 0xFFFFFFFF) ∧
           t.elem .w32 (d + 1) i = BitVec.ofNat _ (((best[i]?).map (·.bits)).getD 0x7FC00000)))

/-! ## Messages -/

/-- R296, R299: `send` and `sendd` inject one class message with their arguments, and `sendd` with 128 bytes of data that the core holds;
`ocs` rises, the register is held, and `ksent` rises unless the message is held or completed at a fence. A word that names no core of the
partition traps PGF, a service core at task privilege traps PRIV, and a package that cannot be reached gives 4. A class below 64, a word
with reserved bits, and arguments past g31 trap ILL. -/
def Obligations.Sending : Prop :=
  ∀ (s : State) (d a b : Reg), s.Accepts { Form.message with inRoutine := true } →
    (s.Free [a] → s.checkSend (s.g a) b = illegal s →
      ∀ i ∈ [Instr.send d a b, .sendd d a b], exec i s = .next (s.takeTrap ⟨0x01, s.pc, 0, false, false⟩ true)) ∧
    (s.Free [d, a, b, b + 1, b + 2, b + 3] → s.checkSend (s.g a) b = .ok () → ∀ segs data,
      let fenced := bits (s.g a) 54 10 = s.mgmt.domain.pkg ∧ mapSt (s.mapEntry (bits (s.g a) 49 5).toNat) ≠ 0
      ∀ i, (i = Instr.send d a b ∧ data = []) ∨ (i = .sendd d a b ∧ s.accessSegs (s.g (b + 3)) 128 4 .load = .ok segs ∧
          s.pendingAnswer = none ∧ s.HasPieces (segPieces segs) ∧ data = packWords 16 (s.pieceBytes (segPieces segs))) →
        (s.unreachable (s.g a) = true → s.released = true → s.oc.ocs < 32 → s.Does i fun t => s.Gives t d 4 (s.pc + 4)) ∧
        (s.unreachable (s.g a) = false → s.inPartition (s.g a) = false →
          exec i s = .next (s.takeTrap ⟨0x05, s.g a, 0, false, false⟩ true)) ∧
        (s.unreachable (s.g a) = false → s.inPartition (s.g a) = true → isService (wordCore (s.g a)) = true → s.pm = 0 →
          exec i s = .next (s.takeTrap ⟨0x02, s.pc, 0, false, false⟩ true)) ∧
        (s.unreachable (s.g a) = false → s.inPartition (s.g a) = true → (isService (wordCore (s.g a)) = true → s.pm ≠ 0) →
          s.released = true → s.oc.ocs < 32 → s.canPost s.unit (wordUnit (s.g a)) 1 = true → s.Does i fun t =>
          s.Asks t (wordUnit (s.g a)) (bits (s.g a) 0 10) (.msg [s.g b, s.g (b + 1), s.g (b + 2), s.g (b + 3)] data) ∧
          t.oc.ocs = s.oc.ocs + 1 ∧ (¬fenced → t.core.ctl.k.ksent = s.core.ctl.k.ksent + 1) ∧
          (fenced → t.core.ctl.k.ksent = s.core.ctl.k.ksent) ∧ (d ≠ 0 → t.held d = true) ∧ (∀ r, t.g r = s.g r) ∧
          t.pc = s.pc + 4 ∧ t.mem = s.mem))

/-- R283, R284, R285: `cbind` gives 3 for a block that breaks the rules, and 2 for a class that another task polls, or, asked to poll, for
one bound to routines; else it begins an install on every core and waits. `cunbind` gives 1 where nothing is bound and 2 for a class that
another task polls, and else begins a removal and waits. Once every core has the install or removal and the routines of the old binding
have ended, `cbind` gives whether a binding stood, and `cunbind` 0. -/
def Obligations.Binding : Prop :=
  ∀ (s : State) (d a b : Reg) (cls : BitVec 10), s.Accepts .message → s.Free [d, a, b] → s.classOf (s.g a) = .ok cls →
    (s.sentAnswer = none →
      (∀ bs, s.readBlock (s.g b) 32 8 = .ok (.inl bs) →
        (s.blockRing (bit (s.g a) 10) bs = .ok none → s.Does (.cbind d a b) fun t => s.Gives t d 3 (s.pc + 4)) ∧
        (∀ ring, s.blockRing (bit (s.g a) 10) bs = .ok (some ring) →
          ((s.core.binding s.ctx cls).any (fun e => (e.polled && e.task != s.taskId) || (bit (s.g a) 10 && !e.polled)) = true →
            s.Does (.cbind d a b) fun t => s.Gives t d 2 (s.pc + 4)) ∧
          ((s.core.binding s.ctx cls).any (fun e => (e.polled && e.task != s.taskId) || (bit (s.g a) 10 && !e.polled)) = false →
            s.released = true → s.Does (.cbind d a b) fun t => t.pc = s.pc ∧ (∀ r, t.g r = s.g r) ∧ t.mem = s.mem ∧
              ∃ i, t.fab.installs = s.fab.installs ++ [i] ∧ i.remove = false ∧ i.core = s.cur ∧ i.done = [] ∧ i.bind.ctx = s.ctx ∧
                i.bind.cls = cls ∧ i.bind.polled = bit (s.g a) 10 ∧ i.bind.entry = BitVec.ofNat 64 (field bs 0 8) ∧
                i.bind.handler = BitVec.ofNat 64 (field bs 8 8) ∧ i.bind.buf = ring))) ∧
      (s.core.binding s.ctx cls = none → s.Does (.cunbind d a) fun t => s.Gives t d 1 (s.pc + 4)) ∧
      (∀ e, s.core.binding s.ctx cls = some e →
        (e.polled = true → e.task ≠ s.taskId → s.Does (.cunbind d a) fun t => s.Gives t d 2 (s.pc + 4)) ∧
        (e.polled = false ∨ e.task = s.taskId → s.released = true → s.Does (.cunbind d a) fun t => t.pc = s.pc ∧ (∀ r, t.g r = s.g r) ∧
          ∃ i, t.fab.installs = s.fab.installs ++ [i] ∧ i.remove = true ∧ i.core = s.cur ∧ i.done = [] ∧ i.bind.ctx = e.ctx ∧
            i.bind.cls = e.cls))) ∧
    (∀ w i, s.sentAnswer = some w → s.installing = some i → s.coreCount s.cur ≤ i.done.length → s.oldRoutines i.bind = false →
      ∀ x ∈ [Instr.cbind d a b, .cunbind d a],
        s.Does x fun t => t.g d = written d (ofBool (!i.remove && i.was)) ∧ s.OnlyReg t d ∧ t.pc = s.pc + 4 ∧ t.mem = s.mem ∧
          t.fab.installs = s.fab.installs.filter fun j => j.bind.id != i.bind.id)

/-- R293, R298: `mpoll` gives 2 where the task does not poll the class and 0 with no message; else it takes the oldest message into g[b] to
g[b+3] and its source into g[d], as an acquire, and `krecv` rises, but for a message that carries the other NS, which traps NSMIS; `mret`,
once what the routine has outstanding is done, ends the routine and frees its bank, and in any other sequencer traps ILL. -/
def Obligations.Taking : Prop :=
  ∀ (s : State) (d a b : Reg),
    (s.Accepts .message → s.seq = .control → s.Free [d, a, b, b + 1, b + 2, b + 3] → bits (s.g a) 10 54 = 0 →
      64 ≤ (bits (s.g a) 0 10).toNat → b.toNat ≤ 28 →
      ((s.core.binding s.ctx (bits (s.g a) 0 10)).filter (fun e => e.polled && e.task == s.taskId) = none →
        s.Does (.mpoll d a b) fun t => s.Gives t d 2 (s.pc + 4)) ∧
      (∀ e, (s.core.binding s.ctx (bits (s.g a) 0 10)).filter (fun e => e.polled && e.task == s.taskId) = some e →
        (s.oldestMessage e = none → s.Does (.mpoll d a b) fun t => s.Gives t d 0 (s.pc + 4)) ∧
        (∀ src args nw ns u, s.oldestMessage e = some (src, args, nw, ns, u) →
          (nw = false ∨ ns = bit s.thr.kstatus 2 → s.Does (.mpoll d a b) fun t =>
            t.g d = written d (src ||| 1) ∧ (∀ i < 4, b + BitVec.ofNat 5 i ≠ d →
              t.g (b + BitVec.ofNat 5 i) = written (b + BitVec.ofNat 5 i) ((args[i]?).getD 0)) ∧
            (∀ r, r ≠ d → (∀ i < 4, r ≠ b + BitVec.ofNat 5 i) → t.g r = s.g r) ∧ t.pc = s.pc + 4 ∧
            t.core.mem.stash = u.core.mem.stash.filter (fun e => e.2 != .V) ∧ t.mem = u.mem ∧ t.core.msg.fast = u.core.msg.fast ∧
            t.core.ctl.k.krecv = s.core.ctl.k.krecv + 1) ∧
          (nw = true → ns ≠ bit s.thr.kstatus 2 →
            exec (.mpoll d a b) s = .next (s.takeTrap ⟨0x06, src &&& ~~~0x3FF#64, 0, false, false⟩ true))))) ∧
    (s.seq = .routine → s.Accepts .shared → s.oc.ocl = 0 → s.oc.ocs = 0 → s.released = true → s.tt = false →
      s.Does .mret fun t => t.core.msg.bank = none ∧ t.core.msg.inbox = s.core.msg.inbox ∧ t.core.thr = s.core.thr ∧
        t.core.ctl.k = s.core.ctl.k ∧ t.cores = s.cores ∧ t.mem = s.mem ∧ t.fab.flits = s.fab.flits) ∧
    (s.seq ≠ .routine → s.Accepts .shared → exec .mret s = .next (s.takeTrap ⟨0x01, s.pc, 0, false, false⟩ true))

/-- R288, R286, R284, R296: the dispatcher: a routine starts with its message's arguments in g3 to g6, its source in g7, its data in g8
to g23, g1 zero, and the pc at its entry, at the binding's privilege and NS with interrupts enabled; a message of the unbound queue whose
time is up completes NOCLASS; an install that reaches a core of the partition replaces or removes its binding; the completion of a
message that a task sent gives its word to the register that waits, and `ocs` falls. -/
def Obligations.Dispatching : Prop :=
  ∀ (s : State) (c : CoreName) (k : Nat),
    (∀ m rest b, (s.getCore c).msg.inbox = m :: rest → m.bind = some b → (s.getCore c).msg.bank = none →
      (s.getCore c).ctl.stopped = false → s.dieHalted (dieOf c) = false →
      s.Does (.routineStart c) fun t => (t.getCore c).msg.inbox = rest ∧ t.mem = s.mem ∧ t.fab = s.fab ∧
        (t.getCore c).ctl.k.krecv = (s.getCore c).ctl.k.krecv + 1 ∧
        ∃ r, (t.getCore c).msg.bank = some r ∧ r.bind = b ∧ r.thr.pc = b.entry ∧ r.thr.kvec = b.handler &&& ~~~1#64 ∧
          (∀ i < 4, regGet r.thr.g (BitVec.ofNat 5 (3 + i)) = (m.args[i]?).getD 0) ∧ regGet r.thr.g 7 = m.g7 ∧
          (∀ i < 16, regGet r.thr.g (BitVec.ofNat 5 (8 + i)) = (m.data[i]?).getD 0) ∧ regGet r.thr.g 1 = 0 ∧
          bit r.thr.kstatus 3 = true ∧ bits r.thr.kstatus 4 2 = b.pm ∧ bit r.thr.kstatus 2 = b.ns) ∧
    (∀ m, (s.getCore c).msg.unbound[k]? = some m →
      s.Does (.unboundHoldExpiry c k) fun t => (t.getCore c).msg.unbound = dropAt k (s.getCore c).msg.unbound ∧
        (t.getCore c).ctl.k.krecv = (s.getCore c).ctl.k.krecv + 1 ∧ s.Completes t m.src m.dst m.epoch m.seq 0x10 (.value [0])) ∧
    (∀ i, s.fab.installs[k / 4096]? = some i → i.done.contains (BitVec.ofNat 16 (k % 4096)) = false →
      (((s.partOf (dieOf i.core)).bind s.part).any fun p => p.dies.contains (dieOf (BitVec.ofNat 16 (k % 4096)))) = true →
      s.Does (.classInstall k) fun t =>
        (t.getCore (BitVec.ofNat 16 (k % 4096))).binding i.bind.ctx i.bind.cls = if i.remove then none else some i.bind) ∧
    (∀ o q r dw task id w ws, s.fab.outst[k]? = some o → o.answer = some (0, .value (w :: ws)) →
      o.purpose = .send c q r dw task id → q = .control → (s.getCore c).ctl.task.any (·.id == task) = true → r ≠ 0 →
      s.Does (.messageCompletion k) fun t => regGet (t.getCore c).thr.g r = w ∧
        (∀ x, x ≠ r → regGet (t.getCore c).thr.g x = regGet (s.getCore c).thr.g x) ∧ t.mem = s.mem ∧
        (t.getCore c).ctl.oc.ocs = (s.getCore c).ctl.oc.ocs - 1)

/-! ## Streamer -/

/-- R312, R313, R314, R315, R316, R319: `copy`, `copym`, `cfill` and `kvmove` whose operands pass their checks and which may issue put one
operation into the core's table, with the pieces of their ranges; ranges are (engine, destination, base, bytes). -/
def Obligations.Copies : Prop :=
  ∀ (s : State) (d : Reg) (t : TileNo) (u : Reg), s.Accepts .streamer → s.Free [d, u, u + 1] → u.toNat + 2 ≤ 32 →
    (∀ off out n e pa, s.controlWord (s.g (u + 1)) false = .ok (off, out, n) → s.readyTile t = .ok e → (s.g u).toNat % 4 = 0 →
      off + n ≤ tileBytes e → s.engineSpan (s.g u) n (if out then .engineWrite else .engineRead) = .ok pa →
      s.mayIssue false [(.copy, !out, s.tileAddr t + off, n), (.copy, out, pa, n)] = .ok () →
      s.roomForUnits (if out then [] else (s.askUnit pa).map (·.1)) = .ok () →
      s.Does (.copy d t u) fun x => s.Issues x d false [(.copy, !out, s.tileAddr t + off, n), (.copy, out, pa, n)]
        (if out then .copyOut else .copyIn) (some t) (if out then
          s.movesOut (s.g u) pa 0 (readBytes s.mem (s.tileAddr t + off) n) (some (s.tileAddr t + off, 1))
          else movesIn (s.g u) pa (s.tileAddr t + off) 0 n)) ∧
    (∀ m off out n e, s.controlWord (s.g (u + 1)) true = .ok (off, out, n) → s.readyTile t = .ok e →
      mapTileOk (s.core.vec.m.get m.toFin) (s.g u) = true →
      off + mapRows (s.core.vec.m.get m.toFin) * mapRowBytes (s.core.vec.m.get m.toFin) ≤ tileBytes e →
      let map := s.core.vec.m.get m.toFin
      let rb := mapRowBytes map
      let rows := (List.range (mapRows map)).map fun y => (y, rowSpan map (s.g u) y)
      let ta := s.tileAddr t + off
      let used := rows.filterMap fun r => r.2.map fun x => (BitVec.ofNat 64 (ta + r.1 * rb), x.2)
      let own := if out then (boundsOf used).elim [] fun b => [(Eng.copy, false, b.1, b.2 - b.1)]
        else [(Eng.copy, true, ta, mapRows map * rb)]
      (boundsOf (rows.filterMap (·.2)) = none → s.mayIssue false own = .ok () →
        s.Does (.copym d t u m) fun x => s.Issues x d false own (if out then .copyOut else .copyIn) (some t)
          (if out then [] else zeroPieces ta 0 (mapRows map * rb))) ∧
      (∀ lo hi pa, boundsOf (rows.filterMap (·.2)) = some (lo, hi) →
        s.engineSpan (BitVec.ofNat 64 lo) (hi - lo) (if out then .engineWrite else .engineRead) = .ok pa →
        s.mayIssue false (own ++ [(.copy, out, pa, hi - lo)]) = .ok () →
        s.roomForUnits (if out then [] else (s.askUnit pa).map (·.1)) = .ok () →
        s.Does (.copym d t u m) fun x => s.Issues x d false (own ++ [(.copy, out, pa, hi - lo)]) (if out then .copyOut else .copyIn) (some t)
          (if out then rows.flatMap fun r => r.2.elim [] fun x =>
              s.movesOut x.1 (pa + (x.1.toNat - lo)) (x.1.toNat - lo) (readBytes s.mem (ta + r.1 * rb) x.2) (some (ta + r.1 * rb, 1))
            else rows.flatMap fun r =>
              (r.2.elim [] fun x => movesIn x.1 (pa + (x.1.toNat - lo)) (ta + r.1 * rb) (r.1 * rb) x.2) ++
              zeroPieces (ta + r.1 * rb + r.2.elim 0 (·.2)) (r.1 * rb + r.2.elim 0 (·.2)) (rb - r.2.elim 0 (·.2))))) ∧
    (u.toNat + 3 ≤ 32 → s.held (u + 2) = false →
      (∀ n pa, s.controlWord (s.g (u + 1)) false = .ok (0, false, n) → (s.g u).toNat % 4 = 0 →
        s.engineSpan (s.g u) n .engineWrite = .ok pa → s.mayIssue false [(.copy, true, pa, n)] = .ok () →
        s.roomForUnits ((s.askUnit pa).map (·.1)) = .ok () →
        s.Does (.cfill d u) fun x => s.Issues x d false [(.copy, true, pa, n)] .fill none
          (s.movesOut (s.g u) pa 0 ((List.range n).map fun i => byteOf (s.g (u + 2)) (i % 8)) none)) ∧
      (∀ pa sa, bits (s.g (u + 1)) 9 22 = 0 → bit (s.g (u + 1)) 31 = false → t = 0 → bits (s.g (u + 1)) 32 32 = 0 →
        bits (s.g (u + 1)) 0 9 = 0 → (s.g u).toNat % 16384 = 0 → (s.g (u + 2)).toNat % 16384 = 0 →
        s.engineSpan (s.g u) 16384 .engineWrite = .ok pa → s.engineSpan (s.g (u + 2)) 16384 .engineRead = .ok sa →
        s.mayIssue false [(.copy, false, sa, 16384), (.copy, true, pa, 16384)] = .ok () →
        s.roomForUnits (if s.place sa = .hole then [] else [s.ownerUnit sa]) = .ok () →
        s.Does (.kvmove d t u) fun x => s.Issues x d false [(.copy, false, sa, 16384), (.copy, true, pa, 16384)] .kvmove none
          ((List.range 128).map fun i => ⟨some (sa + 128 * i), some (pa + 128 * i), s.g u + BitVec.ofNat 64 (128 * i), 128, 128 * i, [],
            false, .todo⟩)) ∧
      (∀ e pa, bits (s.g (u + 1)) 9 22 = 0 → bit (s.g (u + 1)) 31 = true → s.readyTile t = .ok e →
        1 ≤ (bits (s.g (u + 1)) 0 8).toNat → (bits (s.g (u + 1)) 0 8).toNat ≤ 224 → 57344 ≤ tileBytes e → (s.g u).toNat % 16384 = 0 →
        s.engineSpan (s.g u) 16384 .engineWrite = .ok pa →
        s.mayIssue false [(.copy, false, s.tileAddr t, 57344), (.copy, true, pa, 16384)] = .ok () →
        s.Does (.kvmove d t u) fun x => s.Issues x d false [(.copy, false, s.tileAddr t, 57344), (.copy, true, pa, 16384)] .copyOut (some t)
          ((s.movesOut (s.g u) pa 0 (packPage (readBytes s.mem (s.tileAddr t) 57344) (bits (s.g (u + 1)) 8 1).toNat
            (bits (s.g (u + 1)) 0 8).toNat (bits (s.g (u + 1)) 32 16).toNat (bits (s.g (u + 1)) 48 16).toNat (s.g (u + 2)).toNat s.ns)
            none).map fun y : Move => { y with src := s.packBad t (bits (s.g (u + 1)) 0 8).toNat (y.offset / 128) })))

/-- R317, R318, R323, R324: `gather` and `scatter` whose rows translate issue with one piece list, in list order; `stripe.upd` and
`stripe.rec` of groups in range issue with one request; at task privilege `stripe.rec`, and `stripe.upd` of another context's region, trap
PRIV. -/
def Obligations.GatherAndParity : Prop :=
  ∀ (s : State) (d : Reg), s.Accepts .streamer →
    (∀ t i m e ei rows, s.Free [d] → t ≠ i → s.readyTile t = .ok e → s.readyTile i = .ok ei →
      let map := s.core.vec.m.get m.toFin
      let n := mapCols map * mapWidth map / 8
      let ta := s.tileAddr t
      let range := (Eng.gather, true, ta, mapRows map * mapRowBytes map)
      let from_ := (Eng.gather, false, ta, mapRows map * mapRowBytes map)
      mapOk map = true → mapCols map ≤ mapExt map 0 + 1 → mapCols map * mapWidth map % 32 = 0 → bits map 0 2 = 0 → bits map 128 2 = 0 →
      4 * mapRows map ≤ tileBytes ei → mapRows map * mapRowBytes map ≤ tileBytes e →
      (s.translateRows n .engineRead (s.listRows map i) = .ok rows →
        let moves := rows.flatMap fun r => match r.2 with
          | some (va, pa) => movesIn va pa (ta + r.1 * mapRowBytes map) (r.1 * mapRowBytes map) n
          | none => zeroPieces (ta + r.1 * mapRowBytes map) (r.1 * mapRowBytes map) n
        let units := (s.listRequests moves (mapRowBytes map) false).map (·.1)
        s.countersInUse + units.eraseDups.length ≤ 64 → s.mayIssue false [range] = .ok () → s.roomForUnits units = .ok () →
        s.Does (.gather d t i m) fun x => s.Issues x d false [range] .gather (some t) moves) ∧
      (s.translateRows n .engineWrite (s.listRows map i) = .ok rows →
        let moves := rows.flatMap fun r => match r.2 with
          | some (va, pa) => s.movesOut va pa (r.1 * mapRowBytes map) (readBytes s.mem (ta + r.1 * mapRowBytes map) n)
              (some (ta + r.1 * mapRowBytes map, 1))
          | none => []
        let units := (s.listRequests moves (mapRowBytes map) true).map (·.1)
        s.countersInUse + units.eraseDups.length ≤ 64 → s.mayIssue false [from_] = .ok () → s.roomForUnits units = .ok () →
        s.Does (.scatter d t i m) fun x => s.Issues x d false [from_] .scatter (some t) moves)) ∧
    (∀ u r first n, u.toNat + 2 ≤ 32 → s.Free [d, u, u + 1] → s.groupsOf (s.g u) (s.g (u + 1)) = .ok (r, first, n) →
      (s.pm ≠ 0 ∨ r.ctx = s.ctx → s.mayIssue false [] = .ok () → s.roomForUnits [s.ownerUnit (r.base 4)] = .ok () →
        s.Does (.stripeUpd d u) fun x => s.Issues x d false [] (.stripeUpd r.rid first n) none [] ∧
          s.Asks x (s.ownerUnit (r.base 4)) 9 (.copyq s.cur s.fresh)) ∧
      (s.pm = 0 → r.ctx ≠ s.ctx → exec (.stripeUpd d u) s = .next (s.takeTrap ⟨0x02, s.pc, 0, false, false⟩ true)) ∧
      (s.pm ≠ 0 → u.toNat + 3 ≤ 32 → s.held (u + 2) = false → ∀ k l, (List.range 6).filter (bit (s.g (u + 2)) ·) = k :: l → l.length ≤ 1 → bits (s.g (u + 2)) 6 58 = 0 →
        s.mayIssue false [] = .ok () → s.roomForUnits [s.ownerUnit (r.base k)] = .ok () →
        s.Does (.stripeRec d u) fun x => s.Issues x d false [] (.stripeRec r.rid first n (bits (s.g (u + 2)) 0 6)) none [] ∧
          s.Asks x (s.ownerUnit (r.base k)) 9 (.copyq s.cur s.fresh)) ∧
      (s.pm = 0 → u.toNat + 3 ≤ 32 → s.held (u + 2) = false → exec (.stripeRec d u) s = .next (s.takeTrap ⟨0x02, s.pc, 0, false, false⟩ true)))

/-- R303, R304, R310, R318, R321, R325, R411: what the units do with the requests of the streamer: a read piece is pushed to the core in a
COPYD, from where its line is now, and a request for an operation that has ended completes, as does one that the unit refuses, with the
cause; a line that reaches its core, or the unit that serves it, is written there, and only there, and answered; one whose line has
moved is redirected; a scatter's piece is written; a delta is applied to its shard. -/
def Obligations.StreamerUnits : Prop :=
  ∀ (s : State) (k id : Nat) (c : CoreName) (r : Recv),
    (s.request k [9] = some r → r.body = .copyq c id → s.findOp c id = none → s.Does (.copyq k) fun t => s.Answers t r 0 .none) ∧
    (∀ o m i d a b rows, s.findOp c id = some o → (o.moves[i]? : Option Move) = some m → m.st = .todo → m.src = some a → m.dst = some d →
      (∀ x ∈ o.moves, x.st = .todo ∧ ∀ y, x.src = some y → s.engineStatus c y x.bytes = 0) →
      (∀ e, (s.request k [9] = some r ∧ r.body = .copyq c id ∧ o.kind = .copyIn ∧ i = 0 ∧ e = Instr.copyq k) ∨
        (s.request k [11] = some r ∧ r.body = .gsub c id rows ∧ rows.flatten.head? = some i ∧ o.kind = .gather ∧ e = .gsub k) →
        (s.atUnit r.dst a = .redir b → s.Does e fun t => s.Answers t r 0 (.redir b) ∧ t.mem = s.mem) ∧
        (s.atUnit r.dst a = .here b → s.homeSt b = 0 → s.canPost r.dst (coreUnit s c) 1 = true →
          s.Does e fun t => t.mem = s.mem ∧ ∃ x, t.fab.outst = s.fab.outst ++ [x] ∧ x.src = r.dst ∧ x.dst = coreUnit s c ∧ x.cls = 10 ∧
            x.body = .copyd c id i d (s.readLine b m.bytes) (s.unreadable b m.bytes)))) ∧
    (∀ o m a, s.request k [11] = some r → r.body = .gsub c id [[0]] → s.findOp c id = some o → o.kind = .gather → o.moves = [m] →
      m.st = .todo → m.src = some a → s.ownerUnit a = r.dst → s.engineStatus c a m.bytes ≠ 0 →
      s.Does (.gsub k) fun t => s.Answers t r (s.engineStatus c a m.bytes) .none ∧ t.mem = s.mem) ∧
    (∀ o m d bs i p, s.request k [10] = some r → r.body = .copyd c id i d bs p → s.findOp c id = some o → (o.moves[i]? : Option Move) = some m →
      s.MemoryWf →
      (r.dst = coreUnit s c → o.kind ≠ .kvmove → (m.st = .todo ∨ m.st = .sent) → s.codedStall d bs.length = false →
        s.deltaRoom r.dst d bs.length = true →
        (p = true → o.tile ≠ none → (s.getCore c).ctl.task.any (·.id == o.task) = true) → s.Does (.copyd k) fun t => s.Answers t r 0 .none ∧
        (∀ j < bs.length, readByte t.mem (d + j) = (bs[j]?).getD 0) ∧
        ∀ x, x < d ∨ d + bs.length ≤ x → readByte t.mem x = readByte s.mem x) ∧
      (r.dst ≠ coreUnit s c ∨ o.kind = .kvmove → s.refusal c o i d bs.length = 0 →
        (∀ a, s.atUnit r.dst d = .redir a → s.Does (.copyd k) fun t => s.Answers t r 0 (.redir a) ∧ t.mem = s.mem) ∧
        (∀ a, s.atUnit r.dst d = .here a → s.homeSt a = 0 → s.codedStall a bs.length = false → s.deltaRoom r.dst a bs.length = true →
          (s.place a ≠ .memory ∨ s.reclaim (a / 128) (wordMask a bs.length) 0 = none) →
          s.Does (.copyd k) fun t => s.Answers t r 0 .none ∧ (∀ j < bs.length, readByte t.mem (a + j) = (bs[j]?).getD 0) ∧
            ∀ x, x < a ∨ a + bs.length ≤ x → readByte t.mem x = readByte s.mem x))) ∧
    (∀ o m i d rows, s.request k [12] = some r → r.body = .ssub c id rows → rows.flatten.head? = some i → s.findOp c id = some o →
      (o.moves[i]? : Option Move) = some m → o.kind = .scatter →
      m.st = .todo → m.dst = some d → (∀ x ∈ o.moves, x.st = .todo ∧ ∀ y, x.dst = some y → s.engineStatus c y x.bytes = 0) →
      ∀ a, s.atUnit r.dst d = .here a → s.homeSt a = 0 → s.codedStall a m.data.length = false → s.deltaRoom r.dst a m.data.length = true →
      (s.place a ≠ .memory ∨ s.reclaim (a / 128) (wordMask a m.data.length) 0 = none) →
      s.MemoryWf → s.Does (.ssub k) fun t => (∀ j < m.data.length, readByte t.mem (a + j) = (m.data[j]?).getD 0) ∧
        ∀ x, x < a ∨ a + m.data.length ≤ x → readByte t.mem x = readByte s.mem x) ∧
    (∀ pa delta, s.request k [25] = some r → r.body = .stripe pa delta → delta.length = 128 → s.lostAt pa = false →
      (s.place pa ≠ .memory ∨ s.reclaim (pa / 128) 0xFFFFFFFF#32 0 = none) → s.MemoryWf →
      s.Does (.stripe k) fun t => s.Answers t r 0 .none ∧
        (∀ j < 128, readByte t.mem (pa + j) = readByte s.mem (pa + j) ^^^ (delta[j]?).getD 0) ∧
        ∀ x, x < pa ∨ pa + 128 ≤ x → readByte t.mem x = readByte s.mem x) ∧
    (∀ g, s.Does (.lostClear g) fun t => (∀ x ∈ t.stripes, x.rid = g → x.lost = 0) ∧ t.core = s.core ∧ t.cores = s.cores ∧ t.mem = s.mem)

/-! ## Basin -/

/-- R338, R339, R340, R344, R345, R346: the basin's scalar instructions: `bpart`, `bforfeit` and `bquery` ask a slice and give its
answer, or a word known without asking where no slice has the name; `balloc` in the local form claims the lowest free run of pages,
cleared to zero, or gives 4, and in the basin form binds its tile to the handle the slice grants; `bforfeit.t` frees its tile. -/
def Obligations.BasinAnswers : Prop :=
  ∀ (s : State) (d u : Reg) (t : TileNo), s.Accepts .basin → s.Free [d, u] →
    (bits (s.g u) 60 3 = 0 → bits (s.g u) 10 27 = 0 →
      (bit (s.g u) 63 = true → bits (s.g u) 0 10 = 0 →
        (s.partSlice (wordPart (s.g u)) = none →
          s.Does (.bpart d u) fun x => s.Gives x d 0x8000000000000004#64 (s.pc + 4)) ∧
        (∀ v, s.partSlice (wordPart (s.g u)) = some v → s.Exchanges (.bpart d u) d v (.destroy (wordPart (s.g u)) s.cid))) ∧
      (bit (s.g u) 63 = false → wordPart (s.g u) = 0 → 1 ≤ (bits (s.g u) 0 10).toNat → (bits (s.g u) 0 10).toNat ≤ 512 →
        s.Exchanges (.bpart d u) d (sliceUnit s.mgmt.domain.pkg (dieOf s.cur) (cluster s.cur))
          (.create (bits (s.g u) 0 10).toNat s.cid (effBasin (s.lineOf s.ctx s.cid))))) ∧
    (∀ k : Task, s.core.ctl.task = some k →
      ((s.g u).toNat ≤ 255 →
        (recOwed k.record = 0 ∨ s.partSlice (wordPart (recArg k.record 3)) = none →
          s.Does (.bforfeit d u) fun x => s.Gives x d 0 (s.pc + 4)) ∧
        (∀ v, recOwed k.record ≠ 0 → s.partSlice (wordPart (recArg k.record 3)) = some v →
          s.Exchanges (.bforfeit d u) d v (.forfeit (recArg k.record 3) (recOwed k.record) (s.g u).toNat))) ∧
      (∀ v, recOwed k.record ≠ 0 → s.partSlice (wordPart (recArg k.record 3)) = some v →
        s.Exchanges (.bquery d 0 3) d v (.query 3 (recArg k.record 3) (recOwed k.record)))) ∧
    (∀ sel : BitVec 4, sel.toNat ≤ 4 → sel ≠ 3 →
      (s.partSlice (wordPart (s.g u)) = none → s.Does (.bquery d u sel) fun x => s.Gives x d (BitVec.allOnes 64) (s.pc + 4)) ∧
      (∀ v, s.partSlice (wordPart (s.g u)) = some v → s.Exchanges (.bquery d u sel) d v (.query sel.toNat (s.g u) 0))) ∧
    (bits (s.g u) 60 3 = 0 → bits (s.g u) 16 21 = 0 → bits (s.g u) 4 4 = 0 →
      (bit (s.g u) 63 = true → wordPart (s.g u) = 0 → bits (s.g u) 8 8 = 0 → tileState (s.core.tile t) = 0 →
        (s.core.freeRun ((bits (s.g u) 0 4).toNat + 1) = none →
          s.Does (.balloc d t u) fun x => s.Gives x d 0x8000000000000004#64 (s.pc + 4)) ∧
        (∀ b, s.core.freeRun ((bits (s.g u) 0 4).toNat + 1) = some b → s.MemoryWf → s.Does (.balloc d t u) fun x =>
          x.g d = 0 ∧ s.OnlyReg x d ∧ x.pc = s.pc + 4 ∧ x.core.tile t = readyEntry b ((bits (s.g u) 0 4).toNat + 1) ∧
          (∀ y, y ≠ t → x.core.tile y = s.core.tile y) ∧
          (∀ i < 4096 * ((bits (s.g u) 0 4).toNat + 1), readByte x.mem (s.sramBase s.cur + 4096 * b + i) = 0) ∧
          s.BytesOutside x (s.sramBase s.cur + 4096 * b) (4096 * ((bits (s.g u) 0 4).toNat + 1)))) ∧
      (∀ e, bit (s.g u) 63 = false → bits (s.g u) 8 8 ≠ 0 → bits (s.g u) 0 4 = 0 → s.readyTile t = .ok e → bit e 34 = false →
        (s.partSlice (wordPart (s.g u)) = none →
          s.Does (.balloc d t u) fun x => s.Gives x d 0x8000000000000001#64 (s.pc + 4)) ∧
        (∀ v, s.partSlice (wordPart (s.g u)) = some v →
          (s.sentAnswer = none → s.canPost s.unit v 1 = true → s.Does (.balloc d t u) fun x => x.pc = s.pc ∧ (∀ r, x.g r = s.g r) ∧
            s.Asks x v 22 (.basin (.alloc (wordPart (s.g u)) (tileBytes e / 4096) (bits (s.g u) 8 8).toNat s.cid s.taskId t))) ∧
          (∀ w h, s.sentAnswer = some w → w.left = 0 → w.status = 0 → h = BitVec.ofNat 64 (ofBytes (((assocGet 0 w.got).getD []).take 8)) →
            (bit h 63 = true → s.Does (.balloc d t u) fun x => s.Gives x d h (s.pc + 4)) ∧
            (bit h 63 = false → s.Does (.balloc d t u) fun x => x.g d = written d h ∧ s.OnlyReg x d ∧ x.pc = s.pc + 4 ∧
              x.core.tile t = boundEntry e h ∧ (∀ y, y ≠ t → x.core.tile y = s.core.tile y) ∧ x.mem = s.mem))))) ∧
    (tileState (s.core.tile t) = 2 → bit (s.core.tile t) 34 = false → s.unseen t = false →
      s.core.locked (s.tileAddr t) (tileBytes (s.core.tile t)) = false →
      s.Does (.bforfeitT t) fun x => x.core.tile t = 0 ∧ (∀ y, y ≠ t → x.core.tile y = s.core.tile y) ∧ (∀ r, x.g r = s.g r) ∧
        x.pc = s.pc + 4 ∧ s.KeepsOutside x ∧
        ∀ (n : Nat) (h : n < 128), (x.core.mem.pages[n]) =
          if n ∈ tilePages (s.core.tile t) then ⟨.free, 0, false, false, 0⟩ else s.core.mem.pages[n])

/-- R341, R342, R340: `bseal` of a bound tile sends its lines to the slice and leaves it sealing, there and on the core; one whose basin
tile is gone ends PGF; `bld` asks for the next read its task owes and leaves its tile loading, and where the task owes none, or no slice
has the name, it asks nobody and its operation ends OVERREAD. At the slice a grant gives the next sequence, takes the pages and answers
the handle; a read of a sealed tile moves its lane's cursor on, is counted and served, and the slice sends its lines to the core. -/
def Obligations.BasinTransfers : Prop :=
  ∀ (s : State) (d : Reg) (t : TileNo),
    (∀ e, s.Accepts .basin → s.Free [d] → s.readyTile t = .ok e →
      (∀ b v, bit e 34 = true → s.boundTile s.taskId t e = some b → s.partSlice (bits e 41 23) = some v →
        s.mayIssue true [(.basin, false, s.tileAddr t, tileBytes e)] = .ok () →
        s.Does (.bseal d t) fun x => s.Issues x d true [(.basin, false, s.tileAddr t, tileBytes e)] (.bseal v (bits e 41 23) b.seq) (some t)
            (s.tileOut t e) ∧ tileState (x.core.tile t) = 3 ∧ x.mem = s.mem ∧
          (∀ q, x.basin (bits e 41 23) = some q → ∀ y ∈ q.tiles, y.seq = b.seq → y.state = .sealing) ∧
          (s.canPost s.unit v 1 = true → ∃ o ∈ x.fab.outst, o.src = s.unit ∧ o.dst = v ∧ o.cls = 22 ∧
            o.body = .basin (.fill (bits e 41 23) b.seq s.taskId t 0 (s.readLine (s.tileAddr t) 128) (s.poisoned (s.tileAddr t) 128)))) ∧
      (bit e 34 = true → s.boundTile s.taskId t e = none ∨ s.partSlice (bits e 41 23) = none →
        s.mayIssue true [(.basin, false, s.tileAddr t, tileBytes e)] = .ok () →
        s.Does (.bseal d t) fun x => tileState (x.core.tile t) = 3 ∧ x.mem = s.mem ∧ x.fab = s.fab ∧
          ∃ o ∈ x.core.mem.ops, o.id = s.fresh ∧ o.code = 0x05) ∧
      (∀ k v, bit e 34 = false → s.core.ctl.task = some k → recOwed k.record ≠ 0 → s.partSlice (wordPart (recArg k.record 3)) = some v →
        s.mayIssue true [(.basin, true, s.tileAddr t, tileBytes e)] = .ok () → s.roomForUnits [v] = .ok () →
        s.Does (.bld d t) fun x => s.Issues x d true [(.basin, true, s.tileAddr t, tileBytes e)] .bld (some t) (s.tileIn t e) ∧
          tileState (x.core.tile t) = 1 ∧ x.mem = s.mem ∧
          s.Asks x v 22 (.basin (.read (recArg k.record 3) (recOwed k.record) (tileBytes e / 4096) k.id s.fresh))) ∧
      (∀ k, bit e 34 = false → s.core.ctl.task = some k → recOwed k.record = 0 ∨ s.partSlice (wordPart (recArg k.record 3)) = none →
        s.mayIssue true [(.basin, true, s.tileAddr t, tileBytes e)] = .ok () →
        s.Does (.bld d t) fun x => s.Issues x d true [(.basin, true, s.tileAddr t, tileBytes e)] .bld (some t) (s.tileIn t e) ∧
          tileState (x.core.tile t) = 1 ∧ x.mem = s.mem ∧ x.fab = s.fab ∧ ∃ o ∈ x.core.mem.ops, o.id = s.fresh ∧ o.code = 0x07)) ∧
    (∀ slice part b a rest r, s.basin (s.partName slice part) = some b → b.queue = a :: rest → s.canGrant b = true →
      s.recvOf a.key = some r →
      s.Does (.basinAllocGrant slice part) fun x =>
        s.Answers x r 0 (.value [partWord (s.partName slice part) ||| b.next.setWidth 64]) ∧ x.core.thr = s.core.thr ∧
        (s.homes.registry = [] → s.MemoryWf → ∀ z, (∀ h ∈ s.lineOf b.ctx a.cid, z < h.rcb ∨ h.rcb + 256 ≤ z) → readByte x.mem z = readByte s.mem z) ∧
        ∃ y, x.basin (s.partName slice part) = some y ∧ y.next = b.next + 1 ∧ y.queue = rest ∧ y.used = b.used + a.pages ∧
          ∃ z, y.tiles = b.tiles ++ [z] ∧ z.seq = b.next ∧ z.pages = a.pages ∧ z.state = .opened ∧ z.poison = false ∧ z.holder = a.holder) ∧
    (∀ (r : Recv) debt owed room task op b y q, s.basin (wordPart debt) = some b → seqMax (b.lane (debtLane debt)).cursor (wordSeq debt) = q →
      seqBefore (b.lane (debtLane debt)).cursor (wordSeq debt) = false → 0 < owed → seqBefore q (wordSeq debt + BitVec.ofNat 32 owed) = true →
      b.tile q = some y → y.state = .sealed → y.poison = false → y.pages ≤ room → 1 < y.reads →
      s.recvOf (r.src, r.epoch, r.seq) = some r →
      let x := s.acceptRead r debt owed room task op
      x.mem = s.mem ∧ (∃ z, x.basin (wordPart debt) = some z ∧ (z.lane (debtLane debt)).cursor = q + 1 ∧
        (z.tile q).map (·.reads) = some (y.reads - 1)) ∧
      ∃ v ∈ x.fab.rxq, v.same r = true ∧ v.body = .basin (.serving (wordPart debt) q op y.data 0 (y.data.length / 128))) ∧
    (∀ slice part n r p q op data sent left, (s.servedReads (s.partName slice part))[n]? = some r →
      r.body = .basin (.serving p q op data sent left) → 128 * (sent + 1) ≤ data.length → s.canPost r.dst r.src 1 = true →
      s.Does (.basinReadServe slice part n) fun x => s.OnlyFabric x ∧ ∃ o ∈ x.fab.outst, o.src = r.dst ∧ o.dst = r.src ∧ o.cls = 22 ∧
        o.body = .basin (.line (unitCore r.src) op sent ((data.drop (128 * sent)).take 128)))

/-! ## Matrix unit -/

/-- R352, R354, R371: `mldb` and `mlda` of a ready tile whose map fits load the panel into their slot or bank, converted as R92 says, and
issue one operation that holds the tile; memory and the other registers keep what they hold. -/
def Obligations.MatrixLoads : Prop :=
  ∀ (s : State) (t : TileNo) (u : Reg) (m : BitVec 4) (d : BitVec 5) (f : Fmt) (e : Word), s.Accepts (.matrix true) → s.MatrixOn →
    s.Free [u] → s.readyTile t = .ok e → mapOk (s.core.vec.m.get m.toFin) = true → mapFmt (s.core.vec.m.get m.toFin) = some f →
    let map := s.core.vec.m.get m.toFin
    (s.operandFmt (·.fb) true = .ok f → d.toNat ≤ 7 → f.width = 8 ∨ d.toNat ≤ 3 → f ≠ .pair ∨ s.pending.any (·.esB) = false →
      mapRows map ≤ 128 → mapCols map ≤ 64 →
      let n := mapRows map * mapRowBytes map + if s.pending.any (·.esB) then 64 * ((mapRows map + 31) / 32) else 0
      n ≤ tileBytes e → s.mayIssue true [(.matrix, false, s.tileAddr t, n)] = .ok () →
      s.Does (.mldb t u m d) fun x => x.mem = s.mem ∧ x.core.vec = s.core.vec ∧
        s.Issues x u true [(.matrix, false, s.tileAddr t, n)] (.mldb (if f.width = 16 then [d.toNat, d.toNat + 4] else [d.toNat])) (some t)
          (s.loadOp (.mldb []) u 2 t n).moves ∧
        x.core.mat = s.core.mat.fillSlots d.toNat f (readBytes s.mem (s.tileAddr t) n) (s.core.ns s.seq) (s.pending.any (·.esB))
          (s.poisoned (s.tileAddr t) n) (mapRowBytes map) (mapRows map) (mapCols map)) ∧
    (s.operandFmt (·.fa) false = .ok f → d.toNat ≤ 1 → mapRows map ≤ 256 → mapCols map ≤ 128 →
      let n := mapRows map * mapRowBytes map + if s.pending.any (·.esA) then 4 * mapRows map else 0
      n ≤ tileBytes e → s.mayIssue true [(.matrix, false, s.tileAddr t, n)] = .ok () →
      s.Does (.mlda t u m d) fun x => x.mem = s.mem ∧ x.core.vec = s.core.vec ∧
        s.Issues x u true [(.matrix, false, s.tileAddr t, n)] (.mlda d.toNat) (some t) (s.loadOp (.mlda 0) u 3 t n).moves ∧
        x.core.mat = s.core.mat.setBank d.toNat ⟨descOf 1 (s.poisoned (s.tileAddr t) n) (s.pending.any (·.esA)) false f.code (mapCols map)
          (rowsField (mapRows map)), loadA (readBytes s.mem (s.tileAddr t) n) f (s.core.ns s.seq) (s.pending.any (·.esA))
          (mapRowBytes map) (mapRows map) (mapCols map), false⟩)

/-- R372, R364, R373, R374, R375: `mma` adds the panel product into its accumulator tile, counts its checks, and changes no byte outside
the tile; a poisoned operand or a failed check poisons the accumulator and takes ECCU or CHKSUM; `mzero` clears a tile; `mst` issues the
writing out of an accumulator; `mchk` gives a slot's check, poisoning the slot that fails it, a record, a descriptor or the team. -/
def Obligations.Accumulators : Prop :=
  ∀ (s : State) (t : TileNo) (u : Reg) (e : Word), s.MatrixOn → s.Free [u] →
    (s.readyTile t = .ok e → s.core.locked (s.tileAddr t) (tileBytes e) = false → s.mmatOn (some t) = false → s.MemoryWf →
      (∀ (d : BitVec 5) rows cause l, s.Accepts (.matrix true) → d.toNat ≤ 7 → bits (s.g u) 56 8 = 0 → bits (s.g u) 41 15 = 0 →
        bits (s.g u) 32 8 = 0 →
        s.productFmt (bits (s.g u) 40 1).toNat d.toNat = true →
        productOk e (s.core.mat.bank (bits (s.g u) 40 1).toNat).desc (s.core.mat.slot d.toNat).desc = true →
        s.loadsDone (s.core.mat.panelSlots d.toNat) (some (bits (s.g u) 40 1).toNat) = true →
        s.product (bits (s.g u) 40 1).toNat d.toNat = (rows, cause, l) →
        (cause = 0 → s.Does (.mma t u d) fun x => x.mem = addRows s.mem (s.tileAddr t) (tileBytes e) rows ∧
          s.BytesOutside x (s.tileAddr t) (tileBytes e) ∧ x.core.ctl.k.kchk = countChecks s.core.ctl.k.kchk l ∧ x.core.mat = s.core.mat ∧
          x.core.vec = s.core.vec ∧ (∀ r, x.g r = s.g r) ∧ x.pc = s.pc + 4) ∧
        (cause ≠ 0 → exec (.mma t u d) s = .next ((((((s.modK fun k => { k with kchk := countChecks k.kchk l }).noteChecksum s.cur cause
          (s.tileAddr t)).poisonAcc s.cur t).meetError cause (BitVec.ofNat 64 (s.tileAddr t)) true)).useGroup (.matrix true)))) ∧
      (s.Accepts (.matrix false) → s.Does (.mzero t) fun x =>
        (∀ i < tileBytes e, readByte x.mem (s.tileAddr t + i) = 0) ∧ s.BytesOutside x (s.tileAddr t) (tileBytes e) ∧
        (x.core.mat.record t = none ∨ s.core.mat.reorder.any (fun p => p.tile == t) = true) ∧ x.core.mat.slots = s.core.mat.slots ∧
        x.core.mat.banks = s.core.mat.banks ∧ (∀ r, x.g r = s.g r) ∧ x.pc = s.pc + 4)) ∧
    (∀ (d : Reg) (m : BitVec 4) (f : Fmt), s.Accepts (.matrix true) → s.held d = false →
      (s.pending.elim (f = .fp32) fun p => fmtOf p.fd = some f ∧ f ∈ [Fmt.fp32, .fp16, .bf16, .m8]) → s.readyTile t = .ok e →
      let sa := s.pending.elim 0 (·.sa)
      let sb := s.pending.elim 0 (·.sb)
      let own := (Eng.matrix, false, s.tileAddr t, tileBytes e)
      s.Free [sa, sb] →
      let map := s.core.vec.m.get m.toFin
      let rows := (List.range (mapRows map)).filterMap fun y => (rowSpan map (s.g u) y).map fun r => (y, r)
      mapTileOk map (s.g u) = true → mapFmt map = some f → mapCols map ≤ 64 → 256 * mapRows map ≤ tileBytes e →
      (boundsOf (rows.map (·.2)) = none → s.mayIssue true [own] = .ok () →
        s.Does (.mst d t u m) fun x => s.Issues x d true [own] .mst (some t) []) ∧
      (∀ lo hi pa, boundsOf (rows.map (·.2)) = some (lo, hi) → s.engineSpan (BitVec.ofNat 64 lo) (hi - lo) .engineWrite = .ok pa →
        s.mayIssue true [own, (.matrix, true, pa, hi - lo)] = .ok () →
        s.Does (.mst d t u m) fun x => s.Issues x d true [own, (.matrix, true, pa, hi - lo)] .mst (some t)
          (rows.flatMap fun r => s.movesOut r.2.1 (pa + (r.2.1.toNat - lo)) (r.2.1.toNat - lo)
            ((List.range (r.2.2 / (f.width / 8))).flatMap fun y => toBytes (f.width / 8) (writeOut f (s.core.ns s.seq)
              (fmul32 (s.scale sa) (s.scale sb)) (BitVec.ofNat 32 (readNat s.mem (s.tileAddr t + 256 * r.1 + 4 * y) 4))))
            (some (s.tileAddr t + 256 * r.1, 4 / (f.width / 8)))))) ∧
    (∀ d : Reg, s.Accepts (.matrix true) → s.held d = false →
      ((s.g u).toNat ≤ 7 → (s.pending.all fun p => (fmtOf p.fb).isSome) = true →
        s.loadsDone (s.core.mat.panelSlots (s.g u).toNat) none = true →
        (s.scrub (s.g u).toNat ≠ 1 → s.Does (.mchk d u 0) fun x => s.Gives x d (s.scrub (s.g u).toNat) (s.pc + 4)) ∧
        (s.scrub (s.g u).toNat = 1 → s.Does (.mchk d u 0) fun x => x.g d = written d 1 ∧ s.OnlyReg x d ∧ x.pc = s.pc + 4 ∧
          s.KeepsOutside x ∧ descPoison (x.core.mat.slot (s.g u).toNat).desc = true ∧
          (x.core.mat.slot (s.g u).toNat).panel = (s.core.mat.slot (s.g u).toNat).panel ∧
          ∀ n < 8, n ≠ (s.g u).toNat → x.core.mat.slot n = s.core.mat.slot n)) ∧
      ((s.g u).toNat ≤ 63 → s.Does (.mchk d u 1) fun x =>
        s.Gives x d ((s.core.mat.record (BitVec.ofNat 6 (s.g u).toNat)).getD 0) (s.pc + 4)) ∧
      ((s.g u).toNat < 8 → s.loadsDone [(s.g u).toNat] none = true →
        s.Does (.mchk d u 2) fun x => s.Gives x d (s.core.mat.slot (s.g u).toNat).desc (s.pc + 4)) ∧
      (8 ≤ (s.g u).toNat → (s.g u).toNat ≤ 9 → s.loadsDone [] (some ((s.g u).toNat - 8)) = true →
        s.Does (.mchk d u 2) fun x => s.Gives x d (s.core.mat.bank ((s.g u).toNat - 8)).desc (s.pc + 4)) ∧
      (s.g u = 0 → s.Does (.mchk d u 3) fun x => s.Gives x d s.core.mat.team (s.pc + 4)))

/-- R360, R361, R362, R369, R370, R372, R378: a task in no team joins a team of one; a member waits, and when every member has issued the
same word each has its descriptor; `mteam.leave` empties the records; `mmat` issues its partial; a partial for a step that is not open
waits at its owner, and one for no team of the owner is refused; the bound of R378 ends every outstanding `mmat` of the team. -/
def Obligations.Teams : Prop :=
  ∀ (s : State),
    (∀ (d u : Reg) (k : Task), s.Accepts (.matrix false) → s.MatrixOn → s.Free [d, u] → s.core.ctl.task = some k →
      (s.core.mat.inTeam = false → bits (s.g u) 4 60 = 0 → (bits (s.g u) 1 3).toNat < (recTeam k.record).1 →
        (k.team = none → s.Does (.mteamJoin d u) fun x => x.core.mat = { s.core.mat with team := teamWord (s.g u) 1 1 0 0 } ∧
          x.g d = 0 ∧ s.OnlyReg x d ∧ x.pc = s.pc + 4 ∧ s.KeepsOutside x) ∧
        (∀ p, k.team = some p → s.Does (.mteamJoin d u) fun x => x.core.mat = { s.core.mat with join := some ⟨s.g u, d, s.seq⟩ } ∧
          (∀ r, x.g r = s.g r) ∧ x.pc = s.pc ∧ s.KeepsOutside x)) ∧
      (s.core.mat.inTeam = false → s.Does (.mteamLeave d) fun x => s.Gives x d 1 (s.pc + 4)) ∧
      (s.core.mat.inTeam = true → s.mmatOn none = false → s.Does (.mteamLeave d) fun x =>
        x.core.mat = { s.core.mat with team := 0, accs := [], reorder := [] } ∧ x.g d = 0 ∧ s.OnlyReg x d ∧ x.pc = s.pc + 4 ∧
        s.KeepsOutside x)) ∧
    (∀ (c : CoreName) (k : Task) (p : Member), (s.getCore c).ctl.task = some k → k.team = some p → (s.teamCores p.gang).Nodup →
      (s.teamCores p.gang).length = recSize k.record →
      (∀ x ∈ s.teamCores p.gang, (s.getCore x).ctl.stopped = false ∧ (s.getCore x).ctl.run = .task ∧
        (s.getCore x).mat.join.map (·.word) = (s.getCore c).mat.join.map (·.word) ∧ (s.getCore x).mat.join.isSome = true) →
      s.Does (.mteamJoinComplete c) fun t => ∀ x ∈ s.teamCores p.gang, (t.getCore x).mat.join = none ∧
        ∀ j y z, (s.getCore x).mat.join = some j → (s.getCore x).ctl.task = some y → y.team = some z →
          (t.getCore x).mat.team = teamWord j.word (recTeam y.record).1 (recTeam y.record).2 z.row z.col) ∧
    (∀ (t : TileNo) (u : Reg) (d : BitVec 5) e rows cause l, s.Accepts (.matrix true) → s.MatrixOn → s.Free [u] → d.toNat ≤ 7 →
      s.readyTile t = .ok e → bits (s.g u) 56 8 ≠ 0 → bits (s.g u) 41 15 = 0 → bits (s.g u) 32 8 = 0 → s.core.mat.inTeam = true →
      s.productFmt (bits (s.g u) 40 1).toNat d.toNat = true →
      productOk e (s.core.mat.bank (bits (s.g u) 40 1).toNat).desc (s.core.mat.slot d.toNat).desc = true →
      s.product (bits (s.g u) 40 1).toNat d.toNat = (rows, cause, l) →
      (s.core.mat.owns = true → (s.core.mat.needRecord t).isSome = true ∧ s.mmatOn (some t) = false) →
      s.mayIssue true (if s.core.mat.owns then [(.matrix, true, s.tileAddr t, 256 * rows.length)] else []) = .ok () →
      s.Does (.mmat t u d) fun x => x.core.ctl.k.kchk = countChecks s.core.ctl.k.kchk l ∧
        ∃ p : Partial, p.src = s.cur ∧ p.op = s.fresh ∧ p.tile = t ∧ p.step = (bits (s.g u) 56 8).toNat ∧ p.kbase = bits (s.g u) 0 32 ∧
          p.data = padRows rows ∧ p.poison = (cause != 0) ∧
          s.Issues x 0 true (if s.core.mat.owns then [(.matrix, true, s.tileAddr t, 256 * rows.length)] else [])
            (.mmat p s.core.mat.owns cause) (some t) (p.sends s.core.mat.owns)) ∧
    (∀ (c : CoreName) k o p i, (s.getCore c).mem.ops[k]? = some o → o.kind = .mmat p false 0 → s.taskEnded c o = false →
      o.moves = p.sends false → p.data.length * p.groups = 1 → i = (s.getCore c).mat.team →
      s.canPost (coreUnit s c) (coreUnit s (memberCore c (bits i 50 3).toNat (bits i 59 3).toNat)) 1 = true →
      ((s.getCore c).mem.ops.map (·.id)).Nodup →
      s.Does (.engineComplete c k) fun x => x.mem = s.mem ∧ ∃ y ∈ x.fab.outst, y.src = coreUnit s c ∧ y.cls = 17 ∧
        y.dst = coreUnit s (memberCore c (bits i 50 3).toNat (bits i 59 3).toNat) ∧ y.body = .psum (p.message 0)) ∧
    (∀ n r y p, s.request n [17] = some r → r.body = .psum y → (s.findOp y.src y.op).isSome = true →
      (s.getCore (unitCore r.dst)).mat.reorder.any (·.op == y.op) = false →
      (gathered (s.psumsOf r.dst y) y = none → s.Does (.psum n) fun x => x.mem = s.mem ∧ x.cores = s.cores ∧ x.core = s.core ∧
        x.fab.flits = s.fab.flits) ∧
      (gathered (s.psumsOf r.dst y) y = some p → p.src = y.src → p.op = y.op →
       ((s.getCore (unitCore r.dst)).mat.inTeam = false → s.Does (.psum n) fun x => x.mem = s.mem ∧
        ∀ z ∈ s.fab.rxq, z.dst = r.dst → (∃ q, z.body = .psum q ∧ q.src = y.src ∧ q.op = y.op) → s.Answers x z 0x01 .none) ∧
       (∀ w, (s.getCore (unitCore r.dst)).mat.inTeam = true → (s.getCore (unitCore r.dst)).mat.record p.tile = some w →
        ((s.getCore (unitCore r.dst)).ctl.task.any fun k => p.src == unitCore r.dst || k.team.any (·.gang == p.gang)) = true →
        precedes p.step w = false →
        (((s.getCore (unitCore r.dst)).mat.ofStep p.tile p.step).any fun q => q.row == p.row && q.col == p.col) = false →
        s.openSteps (unitCore r.dst) p.tile = [] →
        s.Does (.psum n) fun x => (x.getCore (unitCore r.dst)).mat.reorder = (s.getCore (unitCore r.dst)).mat.reorder ++ [p] ∧
          x.mem = s.mem ∧ x.fab.flits = s.fab.flits))) ∧
    (∀ c, s.deferred c = true →
      (s.leavers c).any (fun d => (s.getCore d).ctl.due.preempt || (s.getCore d).ctl.due.brk || (s.getCore d).ctl.run == .leaving ||
        (s.getCore d).ctl.leave.isSome) = true →
      s.Does (.teamPreemptTimeout c) fun x => ∀ d ∈ s.leavers c, (x.getCore d).mmatOut = false)

/-- R359, R368, R31, R146, R308: a matrix instruction (`mzero`) traps BUDGET in a class that does not run the unit, and wakes a unit that
sleeps; the governor grants the oldest wake, which ends with the unit awake; an idle unit sleeps. An engine operation whose pieces have
ended, none in error, leaves the table with its ranges, lowers its counter and writes its status word, and no word of the stash that its
destination ranges overlap stays in V. -/
def Clauses.PowerAndCompletion : Prop :=
  ∀ (s : State) (c : CoreName),
    (∀ t : TileNo, s.Accepts (.matrix false) →
      ((bits s.core.ctl.k.kpower 0 2).toNat < 2 → exec (.mzero t) s = .next ((s.useGroup (.matrix false)).takeTrap ⟨0x11, 0, 0, false, false⟩ true)) ∧
      (2 ≤ (bits s.core.ctl.k.kpower 0 2).toNat → s.core.mat.power = .asleep → s.Does (.mzero t) fun x =>
        x.core.mat.power = .queued ∧ x.pc = s.pc ∧ x.mem = s.mem ∧ (∀ r, x.g r = s.g r) ∧
        (dieOf s.cur < 16 → (x.gov (dieOf s.cur)).wakes = (s.gov (dieOf s.cur)).wakes ++ [s.cur]))) ∧
    (∀ die rest, die < 16 → (s.gov die).wakes = c :: rest → s.Does (.wakeBegin die) fun x =>
      (x.getCore c).mat = { (s.getCore c).mat with power := .waking } ∧ (x.gov die).wakes = rest ∧ x.mem = s.mem) ∧
    ((s.getCore c).mat.power = .waking → s.Does (.wakeComplete c) fun x =>
      (x.getCore c).mat = { (s.getCore c).mat with power := .awake } ∧ x.mem = s.mem) ∧
    ((s.getCore c).mat.power = .awake → (s.getCore c).ctl.oc.ocx = 0 → s.Does (.matrixSleep c) fun x =>
      (x.getCore c).mat = { (s.getCore c).mat with power := .asleep } ∧ x.mem = s.mem) ∧
    (∀ k o, (s.getCore c).mem.ops[k]? = some o → (∀ p w y, o.kind ≠ .mmat p w y) → o.kind.onTile = false →
      (∀ m ∈ o.moves, m.st.ended = true) → s.opQuiet c o.id = true → (s.getCore c).ctl.task.any (·.id == o.task) = true →
      o.q = .control → o.reg ≠ 0 → isDetected o.result.1 = false →
      s.Does (.engineComplete c k) fun x => regGet (x.getCore c).thr.g o.reg = statusWord o.result.1 o.fn (s.countOf o) ∧
        (∀ r, r ≠ o.reg → regGet (x.getCore c).thr.g r = regGet (s.getCore c).thr.g r) ∧ x.mem = s.mem ∧
        (x.getCore c).mem.ops = (s.getCore c).mem.ops.filter (·.id != o.id) ∧
        (∀ l ∈ (x.getCore c).mem.locks, o.id ∉ l.ops) ∧
        (∀ e ∈ (s.getCore c).mem.stash, e.2 ≠ .V → e ∈ (x.getCore c).mem.stash) ∧
        (∀ e ∈ (x.getCore c).mem.stash, e ∈ (s.getCore c).mem.stash ∧ (e.2 = .V → ∀ l ∈ (s.getCore c).mem.locks, l.dst = true →
          o.id ∈ l.ops → 4 * e.1 + 4 ≤ l.base ∨ l.base + l.bytes ≤ 4 * e.1)) ∧
        (x.getCore c).ctl.oc = if o.ocx then { (s.getCore c).ctl.oc with ocx := (s.getCore c).ctl.oc.ocx - 1 }
          else { (s.getCore c).ctl.oc with occ := (s.getCore c).ctl.oc.occ - 1 })

/-! ## Noise -/

/-- R383, R387, R390, R391, R392, R393: `nkey` exchanges the key; `mmember` alone writes the member, and else forms the working panel of
two slots in the other pair of slots; `ngen` puts the draws of 64 or 32 indexes into a vector register, and `ngrad` the gradients of R393. -/
def Clauses.Noise : Prop :=
  ∀ (s : State) (d u : Reg), s.MatrixOn → s.held u = false →
    (s.Accepts .nkey → s.held d = false → s.Does (.nkey d u) fun x => x.g d = written d s.core.ctl.k.knoise ∧ s.OnlyReg x d ∧ x.pc = s.pc + 4 ∧
      x.core.ctl.k.knoise = s.g u ∧ s.KeepsOutside x ∧ s.core.KeepsUnits x.core) ∧
    (s.Accepts (.matrix false) → bits (s.g u) 17 15 = 0 →
      (bit (s.g u) 16 = true → s.Does (.mmember u 0) fun x => x.core.ctl.k.kmember = (bits (s.g u) 0 16).setWidth 64 ∧
        (∀ r, x.g r = s.g r) ∧ x.pc = s.pc + 4 ∧ s.KeepsOutside x ∧ s.core.KeepsUnits x.core) ∧
      (∀ n : BitVec 5, bit (s.g u) 16 = false → n.toNat ≤ 3 → descValid (s.core.mat.slot n.toNat).desc = true →
        descKind (s.core.mat.slot n.toNat).desc = 4 → descValid (s.core.mat.slot (n.toNat + 4)).desc = true →
        descKind (s.core.mat.slot (n.toNat + 4)).desc = 5 → s.loadsDone [n.toNat, n.toNat + 4] none = true →
        s.Does (.mmember u n) fun x => x.core.ctl.k.kmember = (bits (s.g u) 0 16).setWidth 64 ∧ (∀ r, x.g r = s.g r) ∧
          x.pc = s.pc + 4 ∧ s.KeepsOutside x ∧ x.core.mat.slot n.toNat = s.core.mat.slot n.toNat ∧
          (x.core.mat.slot (n.toNat ^^^ 1)).panel = workPanel (s.core.mat.slot n.toNat).panel (s.core.mat.slot (n.toNat + 4)).panel s.ns
            (descK (s.core.mat.slot n.toNat).desc) (descN (s.core.mat.slot n.toNat).desc)
            (gauss s.core.ctl.k.knoise (bits (s.g u) 0 16)) (bits (s.g u) 32 32))) ∧
    (s.Accepts .ngen → bits (s.g u) 0 32 = 0 →
      (s.pending = none ∨ (∃ p, s.pending = some p ∧ p.fd = 1) → s.Does (.ngen d u) fun x => s.OnlyV x d ∧
        ∀ k < 64, (x.elem .h16 d k).toNat = (s.draw (bits (s.g u) 32 32 + BitVec.ofNat 32 k)).toNat) ∧
      (∀ p, s.pending = some p → p.fd = 0 → s.Does (.ngen d u) fun x => s.OnlyV x d ∧
        ∀ k < 32, (x.elem .w32 d k).toNat = (rne32 (drawn (s.draw (bits (s.g u) 32 32 + BitVec.ofNat 32 k)))).toNat) ∧
      (d.toNat % 2 = 0 → (∀ p, s.pending = some p → p.fa = 0 ∧ p.fd = 0) → s.Does (.ngrad d u) fun x => s.OnlyV x d ∧
        ∀ k < 32, (x.elem .w32 d k).toNat = (gradOf (s.elem .w32 d k) (BitVec.ofNat 8 (lane (elements 16 64 (s.v (d + 1))) k))
          (s.draw (bits (s.g u) 32 32 + BitVec.ofNat 32 k))).toNat))

/-! ## Hinge pairs -/

/-- R421, R423, R426, R428, R429, R430, R431: `pair` gives 1 in a pair, 3 where the partner is not to be used, 2 where it is busy with work
of as high a priority, and else reserves the partner and waits; once the partner is idle it begins the pair, at the agreed point, with the
lower of the two cores as its leader and the same registers on both. `unpair`, `fpx` and `pstat` with and without a pair. An exchange that is due agrees again where the fingerprints are equal and nothing is gated, and
the first time that they differ goes back to the agreed point. -/
def Obligations.HingePairs : Prop :=
  ∀ (s : State) (d a : Reg), s.Free [d, a] →
    (s.Accepts .control → ∀ k : Task, s.core.ctl.task = some k → s.seq = .control →
      (∀ p, s.core.pair = some p → s.Does (.pair d) fun x => s.Gives x d 1 (s.pc + 4)) ∧
      (s.core.pair = none → s.tt = false → s.core.vs.opened = false → s.core.ms.opened = false → k.team = none →
        (s.core.mem.tiles.toList.all fun e => tileState e == 0) = true → s.core.ctl.oc.isZero = true →
        (isWorker s.partner = false ∨ s.lists k.ctx s.partner = false → s.Does (.pair d) fun x => s.Gives x d 3 (s.pc + 4)) ∧
        (isWorker s.partner = true → s.lists k.ctx s.partner = true →
          (s.getCore s.partner).sched.reserved ≠ some (.pair s.cur) →
          let other := s.getCore s.partner
          let w := weight (recPcls k.record)
          ((s.busyWith s.partner).any (s.prio k.ctx k.cid ≤ ·) = true → s.Does (.pair d) fun x => s.Gives x d 2 (s.pc + 4)) ∧
          ((s.busyWith s.partner).any (s.prio k.ctx k.cid ≤ ·) = false → other.sched.resume.length < 32 → other.pair = none →
            other.ctl.run ≠ .checker → (s.gov (dieOf s.cur)).sum + w ≤ (s.gov (dieOf s.cur)).budget →
            s.mayRun k.ctx k.cid 1 w = true → s.Does (.pair d) fun x => (∀ r, x.g r = s.g r) ∧ x.pc = s.pc ∧ x.mem = s.mem ∧
              x.core.pair = none ∧ (x.getCore s.partner).sched.reserved = some (.pair s.cur))) ∧
        (isWorker s.partner = true → s.lists k.ctx s.partner = true →
          (s.getCore s.partner).sched.reserved = some (.pair s.cur) → (s.getCore s.partner).ctl.run = .idle → s.released = true →
          (s.cur.toNat < s.partner.toNat →
            s.Does (.pair d) fun x => x.g d = 0 ∧ s.OnlyReg x d ∧ x.pc = s.pc + 4 ∧ (x.getCore s.partner).ctl.run = .checker ∧
              (x.getCore s.partner).thr.g = x.core.thr.g ∧ (x.getCore s.partner).vec = x.core.vec ∧
              ∃ p, x.core.pair = some p ∧ p.partner = s.partner ∧ p.gate = [] ∧ p.count = 0 ∧ p.agreedAt.thr = x.core.thr) ∧
          (s.partner.toNat < s.cur.toNat →
            s.Does (.pair d) fun x => x.g d = 0 ∧ s.OnlyReg x d ∧ x.core.ctl.run = .checker ∧ x.core.ctl.task = none ∧
              (x.getCore s.partner).ctl.run = .task ∧ (x.getCore s.partner).ctl.task.map (·.id) = some k.id ∧
              (x.getCore s.partner).thr.pc = s.pc + 4 ∧ (x.getCore s.partner).thr.g = x.core.thr.g ∧ (x.getCore s.partner).vec = x.core.vec ∧
              ∃ p, (x.getCore s.partner).pair = some p ∧ p.partner = s.cur ∧ p.gate = [] ∧ p.count = 0)))) ∧
    (s.Accepts { Form.control with exchange := true } → s.core.pair = none →
      (s.Does (.unpair d) fun x => s.Gives x d 1 (s.pc + 4)) ∧ (s.Does (.fpx d) fun x => s.Gives x d 1 (s.pc + 4))) ∧
    (∀ p, s.Accepts { Form.control with exchange := true } → s.seq = .control → s.core.pair = some p →
      (s.Does (.fpx d) fun x => x.g d = 0 ∧ s.OnlyReg x d ∧ x.pc = s.pc + 4 ∧ s.KeepsOutside x) ∧
      (∀ k, p.partner = s.partner → s.core.ctl.task = some k → s.released = true → s.Does (.unpair d) fun x => x.core.pair = none ∧
        (x.getCore s.partner).ctl.run = .idle ∧ (x.getCore s.partner).thr.g = p.own.thr.g ∧ x.g d = 0 ∧ s.OnlyReg x d ∧ x.pc = s.pc + 4 ∧ x.core.vec = s.core.vec ∧
        (s.homes.registry = [] → s.MemoryWf → ∀ a, (∀ h ∈ s.lineOf k.ctx k.cid, a < h.rcb ∨ h.rcb + 256 ≤ a) → readByte x.mem a = readByte s.mem a))) ∧
    (s.Accepts .control → (s.g a).toNat ≤ 2 →
      s.Does (.pstat d a) fun x => s.Gives x d (s.core.pair.elim 0 fun p => p.status (s.g a).toNat) (s.pc + 4)) ∧
    (∀ c p, (s.getCore c).pair = some p → (s.getCore c).ctl.stopped = false → 4096 ≤ p.count → p.draining = false →
      p.passed ≠ some (s.getCore c).thr.pc →
      (s.getCore c).mem.loads = [] →
      (p.fp = p.fpPartner → p.gate = [] → s.Does (.fingerprintExchange c) fun x => x.mem = s.mem ∧
        (x.getCore c).thr = (s.getCore c).thr ∧ ∃ y, (x.getCore c).pair = some y ∧ y.count = 0 ∧ y.fp = 0 ∧ y.fpPartner = 0 ∧
          y.agreed = p.agreed + 1 ∧ y.agreedAt = (s.getCore c).pairRegs ∧ y.retry = false) ∧
      (p.fp ≠ p.fpPartner → p.retry = false → s.Does (.fingerprintExchange c) fun x => x.mem = s.mem ∧
        (x.getCore c).thr.g = p.agreedAt.thr.g ∧ (x.getCore c).thr.pc = p.agreedAt.thr.pc ∧ (x.getCore c).vec = p.agreedAt.vec ∧
        ∃ y, (x.getCore c).pair = some y ∧ y.count = 0 ∧ y.gate = [] ∧ y.rolled = p.rolled + 1 ∧ y.retry = true))

/-! ## Translation -/

/-- R414, R415, R399: below firmware privilege the instructions of the walk group trap PRIV. `tlbw` sets the miss ring, writes the cluster
TLB, or sends a fill to a core of the cluster or to the core of a token, and refuses with 1, 2 or 3; it gives 0 once its fill has been
taken. -/
def Obligations.TlbWrites : Prop :=
  ∀ (s : State) (d a b : Reg), s.Accepts .walk →
    (s.pm ≠ 2 → ∀ i ∈ [Instr.tlbw d a b, .tlbi d a b, .tlbig d b, .ship d a b, .migrBegin d a b, .migrEnd d a],
      exec i s = .next ((s.useGroup .walk).takeTrap ⟨0x02, s.pc, 0, false, false⟩ true)) ∧
    (s.pm = 2 → s.Free [d, a, a + 1, b] → a.toNat + 2 ≤ 32 →
      (∀ w, s.sentAnswer = some w → w.left = 0 → w.status = 0 → s.Does (.tlbw d a b) fun x => s.Gives x d 0 (s.pc + 4)) ∧
      (s.sentAnswer = none → bits (s.g b) 42 6 = 0 → bits (s.g b) 18 17 = 0 →
        let e : TlbEntry := ⟨bits (s.g b) 48 16, s.g a, s.g (a + 1)⟩
        let good := bit (s.g a) 63 = true ∧ e.malformed = false ∧ s.frameHole e = false
        let bad := bit (s.g a) 63 = true ∧ (e.malformed = true ∨ s.frameHole e = true)
        let core : CoreName := bits (s.g b) 0 16
        (bits (s.g b) 16 2 = 3 → bit (s.g b) 35 = false → core = 0 → bits (s.g a) 0 12 = 0 → s.g (a + 1) = 0 →
          s.Does (.tlbw d a b) fun x => (x.service s.cur).ring = (s.g a).toNat ∧ (x.service s.cur).tlb = (s.service s.cur).tlb ∧
            x.g d = 0 ∧ s.OnlyReg x d ∧ x.pc = s.pc + 4 ∧ x.mem = s.mem) ∧
        (bits (s.g b) 16 2 = 1 → bit (s.g b) 35 = false → core = 0 →
          (good → s.Does (.tlbw d a b) fun x => (x.service s.cur).tlb = tlbPut (s.service s.cur).tlb 2048 s.fresh e ∧ x.g d = 0 ∧
            s.OnlyReg x d ∧ x.pc = s.pc + 4 ∧ x.mem = s.mem) ∧
          (bad → s.Does (.tlbw d a b) fun x => s.Gives x d 3 (s.pc + 4)) ∧
          (bit (s.g a) 63 = false → s.Does (.tlbw d a b) fun x => s.Gives x d 0 (s.pc + 4))) ∧
        (∀ k : BitVec 2, bits (s.g b) 16 2 = k → k = 0 ∨ k = 2 →
          let put (x : State) : Prop := (x.service s.cur).tlb =
            if k = 2 ∧ bit (s.g a) 63 = true then tlbPut (s.service s.cur).tlb 2048 s.fresh e else (s.service s.cur).tlb
          (bit (s.g b) 35 = false →
            (s.ofCluster core = false → s.Does (.tlbw d a b) fun x => s.Gives x d 2 (s.pc + 4)) ∧
            (s.ofCluster core = true → bad → s.Does (.tlbw d a b) fun x => s.Gives x d 3 (s.pc + 4)) ∧
            (s.ofCluster core = true → bit (s.g a) 63 = false → s.Does (.tlbw d a b) fun x => s.Gives x d 0 (s.pc + 4)) ∧
            (s.ofCluster core = true → good → s.canPost s.unit (coreUnit s core) 1 = true → s.Does (.tlbw d a b) fun x =>
              s.Asks x (coreUnit s core) 15 (.tlbf (some e) none 0) ∧ x.pc = s.pc ∧ (∀ r, x.g r = s.g r) ∧ x.mem = s.mem ∧
                put x)) ∧
          (bit (s.g b) 35 = true → core = 0 →
            ((s.service s.cur).tokens.find? (·.num == (bits (s.g b) 36 6).toNat) = none →
              s.Does (.tlbw d a b) fun x => s.Gives x d 1 (s.pc + 4)) ∧
            (∀ t, (s.service s.cur).tokens.find? (·.num == (bits (s.g b) 36 6).toNat) = some t →
              (bad → s.Does (.tlbw d a b) fun x => s.Gives x d 3 (s.pc + 4)) ∧
              (good ∨ bit (s.g a) 63 = false → s.canPost s.unit (coreUnit s t.core) 1 = true → s.Does (.tlbw d a b) fun x =>
                s.Asks x (coreUnit s t.core) 15 (.tlbf (if bit (s.g a) 63 then some e else none) (some t.q) t.req.va) ∧ x.pc = s.pc ∧
                  (∀ r, x.g r = s.g r) ∧ x.mem = s.mem ∧ put x ∧
                  (x.service s.cur).tokens = (s.service s.cur).tokens.filter (·.num != t.num)))))))

/-- R416, R418, R419: `tlbi` and `tlbig` remove the entries they name from every TLB in scope and wait for what used them, and then give
the number removed; `migr.begin` gives a free migration or refuses, `migr.end` waits for the last line and ends one; `pgreq` gives the
number of pages already mapped, and writes nothing when all are. -/
def Obligations.RemovalAndMigration : Prop :=
  ∀ (s : State) (d a b : Reg),
    (s.Accepts .walk → s.pm = 2 → s.Free [d, a, a + 1, b] →
      (∀ (i : Instr) (f : TlbEntry → Bool),
        ((i = .tlbi d a b ∧ bits (s.g b) 33 15 = 0 ∧ 1 ≤ (bits (s.g b) 0 32).toNat ∧ (s.g a).toNat % 16384 = 0 ∧
            (s.g a).toNat + 16384 * (bits (s.g b) 0 32).toNat ≤ 2 ^ 57 ∧
            f = fun e => e.ctx == bits (s.g b) 48 16 && decide (
              e.dw0.toNat % 2 ^ 57 / 2 ^ e.shift * 2 ^ e.shift < (s.g a).toNat + 16384 * (bits (s.g b) 0 32).toNat ∧
              (s.g a).toNat < e.dw0.toNat % 2 ^ 57 / 2 ^ e.shift * 2 ^ e.shift + 2 ^ e.shift)) ∨
          (i = .tlbig d b ∧ bits (s.g b) 33 15 = 0 ∧ bits (s.g b) 10 22 = 0 ∧
            ((bits (s.g b) 8 2 = 0 ∧ f = fun e => e.ctx == bits (s.g b) 48 16 && !genNotBefore e.gen (bits (s.g b) 0 8).toNat &&
                decide (((bits (s.g b) 0 8).toNat + 256 - e.gen) % 256 < 128)) ∨
             (bits (s.g b) 8 2 = 1 ∧ f = fun e => e.ctx == bits (s.g b) 48 16) ∨
             (bits (s.g b) 8 2 = 2 ∧ bits (s.g b) 48 16 = 0 ∧ f = fun _ => true)))) →
        (s.sentAnswer = none → (∀ o ∈ s.fab.outst, ¬(o.src = s.unit ∧ o.cls = 15 ∧ o.answer = none)) →
          s.Does i fun x => x.pc = s.pc ∧ (∀ r, x.g r = s.g r) ∧ x.mem = s.mem ∧ x.sentAnswer.isSome = true ∧
            ∀ c ∈ s.tlbScope (bit (s.g b) 32), (x.getCore c).mem.tlb = (s.getCore c).mem.tlb.filter (fun e => !f e) ∧
              (isService c = true → (x.service c).tlb = (s.service c).tlb.filter fun e => !f e)) ∧
        (∀ w, s.sentAnswer = some w → (∀ n ∈ w.got.drop 1, s.pendingName (s.tlbScope (bit (s.g b) 32)) (.ofKept n) = false) →
          s.Does i fun x => s.Gives x d (BitVec.ofNat 64 (Nat.min (w.got.head?.elim 0 (·.1)) 0xFFFFFFFF)) (s.pc + 4))) ∧
      (a.toNat + 2 ≤ 32 → 1 ≤ (s.g b).toNat → (s.g b).toNat ≤ 32768 → (s.g a).toNat % 16384 = 0 → (s.g (a + 1)).toNat % 16384 = 0 →
        let n := 16384 * (s.g b).toNat
        let fits := s.oneUnit (s.g a).toNat n = true ∧ s.oneUnit (s.g (a + 1)).toNat n = true ∧
          ((s.g a).toNat + n ≤ (s.g (a + 1)).toNat ∨ (s.g (a + 1)).toNat + n ≤ (s.g a).toNat)
        (¬fits → s.Does (.migrBegin d a b) fun x => s.Gives x d 0x8000000000000002#64 (s.pc + 4)) ∧
        (∀ p, fits → s.partOf (dieOf s.cur) = some p → (∀ j < 8, ∃ m ∈ s.homes.migrations, m.part = p ∧ m.num = j) →
          s.Does (.migrBegin d a b) fun x => s.Gives x d 0x8000000000000001#64 (s.pc + 4)) ∧
        (∀ p i, fits → s.partOf (dieOf s.cur) = some p → i < 8 → (∀ m ∈ s.homes.migrations, m.part = p → m.num ≠ i) →
          (∀ j < i, ∃ m ∈ s.homes.migrations, m.part = p ∧ m.num = j) → s.Does (.migrBegin d a b) fun x =>
            x.homes.migrations = s.homes.migrations ++ [⟨p, i, (s.g a).toNat, (s.g (a + 1)).toNat, n / 128, 0⟩] ∧
            x.g d = written d (BitVec.ofNat 64 i) ∧ s.OnlyReg x d ∧ x.pc = s.pc + 4 ∧ x.mem = s.mem)) ∧
      (∀ p, bits (s.g a) 3 61 = 0 → s.partOf (dieOf s.cur) = some p →
        (s.homes.migrations.find? (fun m => m.part == p && m.num == (s.g a).toNat) = none →
          s.Does (.migrEnd d a) fun x => s.Gives x d 1 (s.pc + 4)) ∧
        (∀ m, s.homes.migrations.find? (fun m => m.part == p && m.num == (s.g a).toNat) = some m → m.lines ≤ m.moved →
          s.Does (.migrEnd d a) fun x => x.g d = 0 ∧ s.OnlyReg x d ∧ x.pc = s.pc + 4 ∧ x.mem = s.mem ∧
            ∀ y ∈ x.homes.migrations, ¬(y.part = p ∧ y.num = m.num)))) ∧
    (s.Accepts { Form.control with exchange := true } → s.Free [d, a, b] → 1 ≤ (s.g b).toNat → (s.g b).toNat ≤ 64 →
      (s.g a).toNat % 16384 = 0 →
      let here (p : Word) : Bool := ((winner s.core.mem.tlb s.ctx p).any (·.permits .load)) ||
        (s.clusterHit (serviceOf s.cur) s.ctx p 0).isSome
      ((∀ i < (s.g b).toNat, here (s.g a + BitVec.ofNat 64 (16384 * i)) = true) →
        s.Does (.pgreq d a b) fun x => s.Gives x d (s.g b) (s.pc + 4)) ∧
      (∀ r, s.g b = 1 → here (s.g a) = false → (s.service (serviceOf s.cur)).ring = r → s.ringRoom r = true → s.MemoryWf →
        s.Does (.pgreq d a b) fun x => x.g d = 0 ∧ s.OnlyReg x d ∧ x.pc = s.pc + 4 ∧
          readWord x.mem (r + 8) = BitVec.ofNat 64 (ofBytes (s.currents (r + 8) 8)) + 1))

/-- R405, R407, R408, R417: `ship` gives 1 for no such token or park, 5 for a routine's miss, and a parked task's refusal; a task whose
counters are zero is parked, and one that runs or is parked goes in one SHIP message to the worker it is sent to; the instruction gives 0
once that core has taken it. -/
def Obligations.Shipping : Prop :=
  ∀ (s : State) (d a b : Reg), s.Accepts .walk → s.pm = 2 → s.Free [d, a, b] →
    (∀ w, s.sentAnswer = some w → w.left = 0 → w.status = 0 → bits (s.g a) 6 57 = 0 → bits (s.g b) 17 47 = 0 →
      bit (s.g b) 16 = false → s.Does (.ship d a b) fun x => s.Gives x d 0 (s.pc + 4)) ∧
    (s.sentAnswer = none → bits (s.g a) 6 57 = 0 → bits (s.g b) 17 47 = 0 →
      (bit (s.g b) 16 = false → bit (s.g a) 63 = true → (s.service s.cur).parks.find? (·.1 == (bits (s.g a) 0 6).toNat) = none →
        s.Does (.ship d a b) fun x => s.Gives x d 0x8000000000000001#64 (s.pc + 4)) ∧
      (∀ i h, bit (s.g b) 16 = false → bit (s.g a) 63 = true →
        (s.service s.cur).parks.find? (·.1 == (bits (s.g a) 0 6).toNat) = some (i, h) →
        let entry := winner (s.service s.cur).tlb h.saved.task.ctx h.va
        let dest := s.shipDest (bits (s.g b) 0 16) s.cur h.saved.task.groups entry h.va h.tiles
        (∀ y, dest = .inr y → s.Does (.ship d a b) fun x => s.Gives x d y (s.pc + 4)) ∧
        (∀ v, dest = .inl v → s.canPost s.unit (coreUnit s v) 1 = true → s.Does (.ship d a b) fun x =>
          s.Asks x (coreUnit s v) 16 (.ship (Ship.of h.saved entry h.tiles h.va)) ∧ x.pc = s.pc ∧ (∀ r, x.g r = s.g r) ∧ x.mem = s.mem ∧
            (x.service s.cur).parks = (s.service s.cur).parks.filter (·.1 != (bits (s.g a) 0 6).toNat))) ∧
      (bit (s.g a) 63 = false → bit (s.g b) 16 = false ∨ bits (s.g b) 0 16 = 0 →
        ((s.service s.cur).tokens.find? (·.num == (bits (s.g a) 0 6).toNat) = none →
          s.Does (.ship d a b) fun x => s.Gives x d 0x8000000000000001#64 (s.pc + 4)) ∧
        (∀ t, (s.service s.cur).tokens.find? (·.num == (bits (s.g a) 0 6).toNat) = some t →
          (t.req.q = .routine → s.Does (.ship d a b) fun x => s.Gives x d 0x8000000000000005#64 (s.pc + 4)) ∧
          (∀ k, t.req.q ≠ .routine → t.core ≠ s.cur → (s.getCore t.core).pair = none → (s.getCore t.core).ctl.task = some k →
            (s.getCore t.core).drained = true → s.NoAlloc t.core →
            (∀ n, bit (s.g b) 16 = true → s.deferred t.core = false → leastFree ((s.service s.cur).parks.map (·.1)) = some n →
              s.Does (.ship d a b) fun x => x.g d = written d (BitVec.ofNat 64 n) ∧ s.OnlyReg x d ∧ x.pc = s.pc + 4 ∧
                (x.getCore t.core).ctl.task = none ∧ (x.getCore t.core).ctl.run = .idle ∧
                ∃ h, (x.service s.cur).parks = (s.service s.cur).parks ++ [(n, h)] ∧ h.saved.task.id = k.id ∧ h.va = t.req.va) ∧
            (∀ v, bit (s.g b) 16 = false → k.team = none →
              s.shipDest (bits (s.g b) 0 16) t.core k.groups (winner (s.service s.cur).tlb t.ctx t.req.va) t.req.va
                (s.tileContents t.core ((s.getCore t.core).saved k)) = .inl v →
              s.canPost (coreUnit s t.core) (coreUnit s v) 1 = true → s.Does (.ship d a b) fun x => x.pc = s.pc ∧
                (∀ r, x.g r = s.g r) ∧ (x.getCore t.core).ctl.task = none ∧ (x.getCore t.core).ctl.run = .idle ∧
                ∃ o ∈ x.fab.outst, ∃ h, o.src = coreUnit s t.core ∧ o.dst = coreUnit s v ∧ o.cls = 16 ∧ o.body = .ship h ∧
                  h.saved.task.id = k.id)))))

/-- R401, R403, R405, R111, R411, R412: what follows a miss: the service core answers it from its cluster TLB with a fill, or gives it a
token and a record; a fill is installed and the miss ends, and a fault answer marks it; a shipped task enters the resume list; a task that
met a page opcode leaves for a page core; a redirected request goes out again to the new unit; a line of a migrating page moves. -/
def Obligations.MissesAndMoves : Prop :=
  ∀ (s : State) (n : Nat),
    (∀ r m, s.request n [14] = some r → r.body = .tlbm m →
      (s.missWaits (unitCore r.src) m = false → s.Does (.tlbm n) fun x => s.Answers x r 0 .none ∧ x.mem = s.mem) ∧
      (∀ e, s.missWaits (unitCore r.src) m = true → s.clusterHit (unitCore r.dst) r.ctx m.va m.kind = some e →
        s.canPost r.dst r.src 1 = true → s.Does (.tlbm n) fun x => s.Answers x r 0 .none ∧ x.mem = s.mem ∧
          ∃ o, x.fab.outst = s.fab.outst ++ [o] ∧ o.src = r.dst ∧ o.dst = r.src ∧ o.cls = 15 ∧ o.body = .tlbf (some e) (some m.q) m.va) ∧
      (∀ ring i, s.missWaits (unitCore r.src) m = true → n = 0 → s.clusterHit (unitCore r.dst) r.ctx m.va m.kind = none →
        (s.service (unitCore r.dst)).ring = ring → leastFree ((s.service (unitCore r.dst)).tokens.map (·.num)) = some i →
        s.ringRoom ring = true → s.MemoryWf → s.Does (.tlbm n) fun x => s.Answers x r 0 .none ∧
          (x.service (unitCore r.dst)).tokens =
            (s.service (unitCore r.dst)).tokens ++ [⟨i, unitCore r.src, m.q, r.ctx, m⟩] ∧
          readWord x.mem (ring + 8) = BitVec.ofNat 64 (ofBytes (s.currents (ring + 8) 8)) + 1)) ∧
    (∀ r e q va, s.request n [15] = some r → r.body = .tlbf e (some q) va →
      s.Does (.tlbf n) fun x => s.Answers x r 0 .none ∧ x.mem = s.mem ∧
        (∀ z ∈ (s.getCore (unitCore r.dst)).ctl.misses, z.q ≠ q ∨ z.va ≠ va → z ∈ (x.getCore (unitCore r.dst)).ctl.misses) ∧
        (∀ y, e = some y → (x.getCore (unitCore r.dst)).mem.tlb = tlbPut (s.getCore (unitCore r.dst)).mem.tlb 64 s.fresh y ∧
          ∀ z ∈ (x.getCore (unitCore r.dst)).ctl.misses, z.q = q → z.va = va → z.faulted = true) ∧
        (e = none → (x.getCore (unitCore r.dst)).mem.tlb = (s.getCore (unitCore r.dst)).mem.tlb ∧
          ∀ z ∈ (x.getCore (unitCore r.dst)).ctl.misses, z.q = q → z.va = va → z.faulted = true)) ∧
    (∀ r h, s.request n [16] = some r → r.body = .ship h → shipSound h.record = true → s.takesShip (unitCore r.dst) h.tiles = true →
      s.Does (.shipArrival n) fun x => s.Answers x r 0 .none ∧ ∃ v, v.saved.task = h.saved.task ∧ v.saved.thr = h.saved.thr ∧
        (x.getCore (unitCore r.dst)).sched.resume = (s.getCore (unitCore r.dst)).sched.resume ++ [v]) ∧
    (∀ c d k, (s.getCore c).ctl.task = some k → (s.getCore c).ctl.run = .task → (s.getCore c).ctl.stopped = false → k.team = none →
      ((s.getCore c).ctl.stalls.any fun e => e.1 == .control && e.2 == .migration) = true → (s.getCore c).drained = true →
      ((coresOf (dieOf c)).find? fun d => (isWorker d && bit (coreGroups d) 4 && decide ((s.getCore d).sched.resume.length < 32)) &&
        cluster d == cluster c) = some d → s.canPost (coreUnit s c) (coreUnit s d) 1 = true →
      s.Does (.migration c) fun x => (x.getCore c).ctl.task = none ∧ (x.getCore c).ctl.run = .idle ∧
        ∃ o ∈ x.fab.outst, ∃ h, o.src = coreUnit s c ∧ o.dst = coreUnit s d ∧ o.cls = 16 ∧ o.body = .ship h ∧ h.saved.task.id = k.id) ∧
    (∀ o st a, s.fab.outst[n]? = some o → o.answer = some (st, .redir a) → (∀ c i l m, o.purpose ≠ .reg c i l m) →
      s.canPost o.src (s.newUnit o.body a) 1 = true → s.Does (.redir n) fun x => x.mem = s.mem ∧
        ∃ l y, x.fab.outst = l ++ [y] ∧ y.src = o.src ∧ y.dst = s.newUnit o.body a ∧ y.cls = o.cls ∧ y.body = o.body.moveTo a ∧
          y.purpose = o.purpose) ∧
    (∀ m, s.homes.migrations[n]? = some m → m.moved < m.lines → s.codedStall (m.new + 128 * m.moved) 128 = false →
      s.deltaRoom (s.ownerUnit (m.old + 128 * m.moved)) (m.new + 128 * m.moved) 128 = true → s.MemoryWf →
      (∀ x ∈ [m.old + 128 * m.moved, m.new + 128 * m.moved],
        s.place x ≠ .memory ∨ s.reclaim (x / 128) 0xFFFFFFFF#32 0 = none) →
      s.Does (.lineMove n) fun x => x.homes.migrations[n]? = some { m with moved := m.moved + 1 } ∧
        (∀ i < 128, readByte x.mem (m.new + 128 * m.moved + i) = ((s.readLine (m.old + 128 * m.moved) 128)[i]?).getD 0) ∧
        s.BytesOutside x (m.new + 128 * m.moved) 128)

/-! ## Must-save extents -/

/-- R451, R452, R453, R454, R441, R434: `msdecl` of a range that is no frame of memory gives 2, one refused its charge traps BUDGET, and else
it gives what the controller answers, a new extent among those declared; windows open up to four to a task, and close with a new
generation; `msquery` reads. At the loss of supply the latch is set, every core stops with PWRF, and an image is sealed. -/
def Obligations.MustSave : Prop :=
  ∀ (s : State) (d a b : Reg),
    (s.Accepts .reserve → s.Free [d, a, a + 1, b] →
      (a.toNat ≤ 30 → bits (s.g (a + 1)) 32 31 = 0 → (bits (s.g (a + 1)) 0 32).toNat ≠ 0 →
        (bits (s.g (a + 1)) 0 32).toNat % 4096 = 0 → (bits (s.g (a + 1)) 0 32).toNat ≤ 2 ^ 28 → (s.g a).toNat % 4096 = 0 →
        let n := (bits (s.g (a + 1)) 0 32).toNat
        (s.extentFrame (s.g a) n = .ok none → s.Does (.msdecl d a b) fun x => s.Gives x d 0x8000000000000002#64 (s.pc + 4)) ∧
        (∀ pa c, s.extentFrame (s.g a) n = .ok (some pa) → s.findCtx s.ctx = some c → addrPkg pa = s.mgmt.domain.pkg.toNat →
          (s.declare c s.cid (s.g a) pa n (s.g b) (bit (s.g (a + 1)) 63) = none →
            exec (.msdecl d a b) s = .next (s.takeTrap ⟨0x11, 0, 0, false, false⟩ true)) ∧
          (∀ w u, s.declare c s.cid (s.g a) pa n (s.g b) (bit (s.g (a + 1)) 63) = some (w, u) →
            s.Does (.msdecl d a b) fun x => x.g d = written d w ∧ s.OnlyReg x d ∧ x.pc = s.pc + 4 ∧ x.mem = u.mem ∧ x.mgmt = u.mgmt ∧
              (bit (s.g (a + 1)) 63 = false → (∀ e ∈ s.mgmt.reserve.extents, ¬(e.ctx = c.ctx ∧ e.tag = s.g b)) →
                s.mgmt.reserve.extents.length < 4096 →
                (s.homes.registry = [] → s.MemoryWf → ∀ z, (∀ h ∈ s.lineOf s.ctx s.cid, z < h.rcb ∨ h.rcb + 256 ≤ z) →
                  readByte x.mem z = readByte s.mem z) ∧
                ∃ e, x.mgmt.reserve.extents = s.mgmt.reserve.extents ++ [e] ∧ e.tag = s.g b ∧ e.frame = pa ∧ e.pages = n / 4096 ∧
                  e.opens = 0 ∧ e.dirty = false ∧ e.gen = 0 ∧ e.ctx = c.ctx ∧ e.cid = s.cid ∧ e.va = s.g a)))) ∧
      (s.handleExtent (s.g a) = .ok none →
        (s.Does (.msopen d a) fun x => s.Gives x d 0x8000000000000001#64 (s.pc + 4)) ∧
        (s.Does (.msclose d a) fun x => s.Gives x d 0x8000000000000001#64 (s.pc + 4)) ∧
        (s.g b = 0 → s.Does (.msquery d a b) fun x => s.Gives x d 0 (s.pc + 4))) ∧
      (∀ e k, s.handleExtent (s.g a) = .ok (some e) → s.core.ctl.task = some k →
        (s.g b = 0 → s.Does (.msquery d a b) fun x => s.Gives x d e.word (s.pc + 4)) ∧
        (4 ≤ k.windows.length → exec (.msopen d a) s = .next (s.takeTrap ⟨0x16, s.g a, 0, false, false⟩ true)) ∧
        (k.windows.length < 4 → e.opens = 127 →
          s.Does (.msopen d a) fun x => s.Gives x d 0x8000000000000002#64 (s.pc + 4)) ∧
        (k.windows.length < 4 → e.opens ≠ 127 → s.Does (.msopen d a) fun x => x.g d = 0 ∧ s.OnlyReg x d ∧ x.pc = s.pc + 4 ∧
          x.mem = s.mem ∧ (x.core.ctl.task.map (·.windows)) = some (k.windows ++ [BitVec.ofNat 12 e.num]) ∧
          (x.extent e.num).map (·.opens) = some (e.opens + 1)) ∧
        (k.windows.contains (BitVec.ofNat 12 e.num) = false →
          s.Does (.msclose d a) fun x => s.Gives x d 0x8000000000000001#64 (s.pc + 4)) ∧
        (k.windows.contains (BitVec.ofNat 12 e.num) = true → s.released = true → s.Does (.msclose d a) fun x =>
          x.g d = written d ((e.gen + 1).setWidth 64) ∧ s.OnlyReg x d ∧ x.pc = s.pc + 4 ∧ x.mem = s.mem ∧
          (x.core.ctl.task.map (·.windows)) = some (k.windows.erase (BitVec.ofNat 12 e.num)) ∧
          x.extent e.num = some { e with opens := e.opens - 1, gen := e.gen + 1, dirty := e.dirty && e.opens != 1 })) ∧
      (∀ cid : W32, s.g b = 1 → cid = (if s.g a = 0 then s.cid else (s.g a).setWidth 32) →
        (∀ h, bits (s.g a) 32 32 = 0 → s.isWithin s.ctx cid s.cid = true → (s.chamber s.ctx cid).filter (·.isOpen) = some h →
          s.Does (.msquery d a b) fun x => s.Gives x d (pairWord h.own h.decl) (s.pc + 4)) ∧
        (bits (s.g a) 32 32 ≠ 0 ∨ s.isWithin s.ctx cid s.cid = false ∨ (s.chamber s.ctx cid).filter (·.isOpen) = none →
          s.Does (.msquery d a b) fun x => s.Gives x d (BitVec.allOnes 64) (s.pc + 4))) ∧
      (∀ c p, s.g b = 2 → s.g a = 0 → s.findCtx s.ctx = some c → s.part c.part = some p →
        s.Does (.msquery d a b) fun x => s.Gives x d (pairWord p.share p.charged) (s.pc + 4)) ∧
      (s.g b = 3 → s.offeredRecords (s.g a) = [] → s.Does (.msquery d a b) fun x => s.Gives x d 0 (s.pc + 4)) ∧
      (∀ i r l, s.g b = 3 → s.offeredRecords (s.g a) = (i, r) :: l → s.Does (.msquery d a b) fun x =>
        s.Gives x d (savedWord r) (s.pc + 4))) ∧
    (s.mgmt.reserve.stop = false →
      (s.Does .supplyLoss fun x => x.mgmt.reserve.stop = true ∧ x.mgmt.reserve.sluices = s.mgmt.reserve.sluices + 1 ∧
        ∀ c ∈ s.knownCores, (x.getCore c).ctl.run = .off ∧ bits (x.getCore c).thr.kcause 0 8 = 0x0C ∧ (x.getCore c).thr.kaddr = 0 ∧
          (x.getCore c).thr.g = (s.getCore c).thr.g ∧ (x.getCore c).mem.ops = []) ∧
      (∀ q, s.Does (.reserveSelfTest ⟨q, false⟩) fun x => x.mgmt.reserve.charge = q ∧ x.mgmt.reserve.capacity = capacityOf q))

/-! ## Homes, agents and owners -/

/-- R127, R131, R136, R143, R203, R411: requests for bytes at the unit that serves them: a load gives the bytes, or the words of its line
that nobody owns, or is forwarded to the one owner of its words, or is redirected, or refused; a store or an atomic is performed and answered once no owner holds its words, at its own
bytes only, and waits while one does. -/
def Obligations.HomeRequests : Prop :=
  ∀ (s : State) (k : Nat) (r : Recv),
    (∀ pa n fill, s.request k [1] = some r → r.body = .ld pa n fill →
      (∀ a, s.moving pa = .moved a → s.Does (.ldRequest k) fun t => s.Answers t r 0 (.redir a) ∧ t.mem = s.mem) ∧
      (s.moving pa = .serve → s.place pa = .memory → s.unreadable pa n = true →
        (s.ownersOf (pa / 128) (wordMask pa n)).foldl (fun m e => m &&& ~~~e.mask) (wordMask pa n) ≠ 0 → s.Does (.ldRequest k) fun t => s.Answers t r 0x0A .none ∧ t.mem = s.mem) ∧
      (s.moving pa = .serve → s.place pa = .memory → s.unreadable pa n = false → s.ownersOf (pa / 128) (wordMask pa n) = [] →
        (fill = false → s.Does (.ldRequest k) fun t => s.Answers t r 0 (valueOf (s.servedBytes pa n)) ∧ t.mem = s.mem) ∧
        (fill = true → s.Does (.ldRequest k) fun t => t.mem = s.mem ∧ s.AnswersLine t r (pa / 128)
          (s.fillWords (pa / 128) (wordMask pa n)).1 (s.fillWords (pa / 128) (wordMask pa n)).2)) ∧
      (∀ e, s.moving pa = .serve → s.place pa = .memory →
        s.ownersOf (pa / 128) (wordMask pa n) = [e] → (e.mask &&& wordMask pa n) = wordMask pa n → e.owner.die ≠ 31 →
        s.forwarded r = false → s.canPost r.dst e.owner 1 = true → s.Does (.ldRequest k) fun t => t.mem = s.mem ∧
          ∃ o, t.fab.outst = s.fab.outst ++ [o] ∧ o.src = r.dst ∧ o.dst = e.owner ∧ o.cls = 8 ∧
            o.body = .fwd (pa / 4 * 4) (4 * (wordsOf pa n).length) ∧ o.purpose = .fwd r.src r.dst r.epoch r.seq) ∧
      (s.moving pa = .serve → s.place pa ≠ .memory →
        (s.agentStatus pa n ≠ 0 → s.Does (.ldRequest k) fun t => s.Answers t r (s.agentStatus pa n) .none ∧ t.mem = s.mem) ∧
        (s.agentStatus pa n = 0 → s.unreadable pa n = true →
          s.Does (.ldRequest k) fun t => s.Answers t r 0x0A .none ∧ t.mem = s.mem) ∧
        (s.agentStatus pa n = 0 → s.unreadable pa n = false →
          s.Does (.ldRequest k) fun t => s.Answers t r 0 (valueOf (s.servedBytes pa n)) ∧ t.mem = s.mem))) ∧
    (∀ i pa bs, (i = Instr.stRequest k ∧ s.request k [2] = some r ∧ ∃ v : Word, r.body = .st pa bs.length v ∧ bs = toBytes bs.length v.toNat) ∨
        (i = .stl k ∧ s.request k [3] = some r ∧ r.body = .stl pa bs) →
      s.lostAt pa = false → s.moving pa = .serve →
      ((s.place pa = .memory → s.reclaim (pa / 128) (wordMask pa bs.length) (wholeWords pa bs.length) = none) →
        (s.place pa ≠ .memory → s.agentStatus pa bs.length = 0) → s.place pa ≠ .window → s.place pa ≠ .mailbox → s.MemoryWf →
        s.Does i fun t => s.Answers t r 0 .none ∧ (∀ j < bs.length, readByte t.mem (pa + j) = (bs[j]?).getD 0) ∧
          s.BytesOutside t pa bs.length) ∧
      (∀ u, s.place pa = .memory → s.reclaim (pa / 128) (wordMask pa bs.length) (wholeWords pa bs.length) = some u →
        s.Does i fun t => t.mem = s.mem ∧ ∃ x ∈ t.fab.rxq, x.same r = true ∧ x.held = true) ∧
      (s.place pa ≠ .memory → s.agentStatus pa bs.length ≠ 0 →
        s.Does i fun t => s.Answers t r (s.agentStatus pa bs.length) .none ∧ t.mem = s.mem)) ∧
    (∀ op pa n y cmp, s.request k [4] = some r → r.body = .amo op pa n y cmp → s.lostAt pa = false → s.moving pa = .serve →
      (s.place pa = .memory → s.reclaim (pa / 128) (wordMask pa n) 0 = none) → (s.place pa ≠ .memory → s.agentStatus pa n = 0) →
      s.place pa ≠ .window → s.place pa ≠ .mailbox → s.poisoned pa n = false → s.MemoryWf →
      let old := BitVec.ofNat 64 (ofBytes ((List.range n).map fun i => s.byteAt (pa + i)))
      s.Does (.amoRequest k) fun t => s.Answers t r 0 (.value [old]) ∧ s.BytesOutside t pa n ∧
        t.mem = (amoNew op n old y cmp).elim s.mem fun x => writeBytes s.mem pa (toBytes n x.toNat))

/-- R130, R135, R141, R142, R143, R207: a registration that is accepted makes its sender the one owner of the words, and those stored to in
part take in the home's bytes; an owner that is asked answers with the words it holds in O, which go to V; an answered revocation, or a
write-back, clears the mask bits at the home and writes the words still owned; a forwarded read is answered by the owner, of words in O and
of those whose registration is accepted, and goes back where the words are gone. -/
def Obligations.Ownership : Prop :=
  ∀ (s : State) (k : Nat) (r : Recv),
    (∀ line mask sub i, s.request k [5] = some r → r.body = .reg line mask sub → i = Instr.reg k ∨ (i = .regSetFree k ∧ r.held = true) →
      s.moving (128 * line) = .serve → s.lostAt (128 * line) = false → (∀ e ∈ s.ownersOf line mask, e.owner = r.src) →
      (∀ e ∈ s.homes.registry, e.owner = r.src → e.line = line → e.rev = false) → mask ≠ 0 → s.registersBefore r line mask = false →
      ((∃ e ∈ s.homes.registry, e.owner = r.src ∧ e.line = line) ∨ (s.setOf line).length < 8) →
      s.Does i fun t => t.mem = ((s.regNumber r).elim s fun id => s.mergeSub (unitCore r.src) id line sub).mem ∧
        (sub = 0 → t.mem = s.mem) ∧ s.Answers t r 0 .none ∧
        (∃ e ∈ t.homes.registry, e.owner = r.src ∧ e.line = line ∧ e.mask &&& mask = mask) ∧
        ∀ e ∈ t.homes.registry, e.line = line → e.owner ≠ r.src → e.mask &&& mask = 0) ∧
    (∀ line mask data epoch seq, s.request k [6] = some r → r.body = .rev line mask data epoch seq →
      s.revWaits r line mask (epoch, seq) = false → s.returning r line mask = false →
      let ws := (maskWords line mask).filter fun w => (s.getCore (unitCore r.dst)).word w == some .O && !s.renewed r.dst w (epoch, seq)
      s.Does (.rev k) fun t => t.mem = s.mem ∧
        (data = true → s.AnswersLine t r line (maskOf ws) (ws.map (s.stashValue (unitCore r.dst)))) ∧
        (data = false → s.Answers t r 0 .none) ∧
        (∀ w ∈ ws, (t.getCore (unitCore r.dst)).word w = some .V) ∧
        ∀ w, w ∉ ws → (t.getCore (unitCore r.dst)).word w = (s.getCore (unitCore r.dst)).word w) ∧
    (∀ o st body line mask owner, s.returned k [6] = some (o, st, body) → o.purpose = .rev line mask owner → st = 0 →
      (body = .none → ∀ x ∈ s.fab.rxq, x.held = false) → s.Does (.revAnswer k) fun t => (∀ e ∈ t.homes.registry, e.owner = owner → e.line = line → e.mask &&& mask = 0 ∧ e.rev = false) ∧
        t.mem = (match body with
          | .wb _ m data => (s.takeWords owner line m data).mem
          | _ => s.mem)) ∧
    (∀ line mask data, s.request k [7] = some r → r.body = .wb line mask data → s.moving (128 * line) = .serve →
      s.Does (.wb k) fun t => s.Answers t r 0 .none ∧ t.mem = (s.takeWords r.src line mask data).mem ∧
        ∀ e ∈ t.homes.registry, e.owner = r.src → e.line = line → e.mask &&& mask = 0) ∧
    (∀ pa n, s.request k [8] = some r → r.body = .fwd pa n →
      (∀ a, (∀ w ∈ wordsOf pa n, s.owns (unitCore r.dst) w = true) → s.stashAddr (unitCore r.dst) pa = some a →
        s.Does (.fwd k) fun t => s.Answers t r 0 (valueOf (readBytes s.mem a n)) ∧ t.mem = s.mem) ∧
      ((∃ w ∈ wordsOf pa n, s.owns (unitCore r.dst) w = false) → s.Does (.fwd k) fun t => s.Answers t r 0 .none ∧ t.mem = s.mem))

/-- R195, R125, R148: what returns to a core that no gang stop suspends: the last part of a load writes its register, sign-extended, and frees
its unit of `ocl`, and an acquire drops the words in V; the last completion of a store frees its unit of `ocs`; an accepted registration takes its words from P to O; an accepted spill writes its bytes to
the frame and frees its entry. -/
def Obligations.Returns : Prop :=
  ∀ (s : State) (k id : Nat) (c : CoreName),
    (∀ o ws shift l, s.returned k [1, 4] = some (o, 0, .value ws) → o.purpose = .load c id shift →
      (s.getCore c).mem.loads.find? (·.id == id) = some l → l.left = 1 → l.status = 0 → l.q = .control → (s.getCore c).pair = none →
      s.suspended c = false →
      let v := l.value ||| (BitVec.ofNat 64 (ofBytes (answerBytes o.body.span.1 o.body.span.2 (.value ws))) <<< (8 * shift))
      s.Does (.loadReturn k) fun t => regGet (t.getCore c).thr.g l.reg = written l.reg ({ l with value := v } : LoadRec).result ∧
        (∀ x, x ≠ l.reg → regGet (t.getCore c).thr.g x = regGet (s.getCore c).thr.g x) ∧
        (t.getCore c).ctl.oc = { (s.getCore c).ctl.oc with ocl := (s.getCore c).ctl.oc.ocl - 1 } ∧
        (t.getCore c).mem.loads = (s.getCore c).mem.loads.filter (·.id != id) ∧
        ((∀ op a n x y, o.body ≠ .amo op a n x y) → t.mem = s.mem ∧ (t.getCore c).mem.stash =
          if l.acq then (s.getCore c).mem.stash.filter (fun e => e.2 != .V) else (s.getCore c).mem.stash)) ∧
    (∀ o body l, s.returned k [2, 3, 7] = some (o, 0, body) → o.purpose = .store c id → (s.getCore c).mem.stores = [l] → l.ids = [id] →
      l.status = 0 → l.q = .control → s.suspended c = false →
      s.Does (.storeComplete k) fun t => (t.getCore c).mem.stores = [] ∧ (t.getCore c).thr = (s.getCore c).thr ∧ t.mem = s.mem ∧
        (t.getCore c).ctl.oc = { (s.getCore c).ctl.oc with ocs := (s.getCore c).ctl.oc.ocs - 1 }) ∧
    (∀ o line mask, s.returned k [5] = some (o, 0, .none) → o.purpose = .reg c id line mask →
      (∀ l ∈ (s.getCore c).mem.stores, l.status = 0) → s.suspended c = false →
      s.Does (.regAck k) fun t => t.mem = s.mem ∧
        (∀ w ∈ maskWords line mask, (s.getCore c).word w = some .P → (t.getCore c).word w = some .O) ∧
        ∀ w, w ∉ maskWords line mask → (t.getCore c).word w = (s.getCore c).word w) ∧
    (∀ e, (s.getCore c).mem.spills[k]? = some e → (∀ x ∈ (s.getCore c).mem.spills.take k, x.frame ≠ e.frame) → s.MemoryWf →
      s.Does (.spillWriteAccepted c k) fun t => (t.getCore c).mem.spills = (s.getCore c).mem.spills.filter (·.id != e.id) ∧
        ∀ i < e.bytes.length, readByte t.mem (e.frame + i) = (e.bytes[i]?).getD 0)

/-! ## Fabric -/

/-- R271, R272, R273, R276, R277, R278: a router passes on the flits of one plane, the only one by its first productive output that is free;
at its destination a flit that fails its check is discarded, a request next in sequence enters the receive queue, one further on is
refused, and the completion of an outstanding request is noted; hold notices; a request with no answer, none of whose flits are on their
way, goes again. -/
def Obligations.Flits : Prop :=
  ∀ (s : State) (k : Nat),
    (∀ router plane, s.Does (.routeFlit router plane) fun t => s.OnlyFabric t ∧
      (∀ f ∈ s.fab.flits, ¬(f.at_ = ⟨s.mgmt.domain.pkg, router / 512, router % 512⟩ ∧ f.plane.toNat % 4 = plane) → f ∈ t.fab.flits) ∧
      ∀ f o, s.fab.flits = [f] → s.fab.asides = [] → f.at_ = ⟨s.mgmt.domain.pkg, router / 512, router % 512⟩ → f.plane.toNat % 4 = plane →
        f.gen = s.routerGen f.at_.die → s.heading f.at_.die f ≠ f.at_ →
        (Config.productive f.at_.die f.at_.site (s.heading f.at_.die f).die (s.heading f.at_.die f).site).find?
          (s.outputFree f.at_ []) = some o → t.fab.flits = (f.hop o).toList) ∧
    (∀ f, s.fab.flits[k]? = some f → s.arrived f = true →
      (f.kind ≠ .hold → f.sound = false ∨ f.ver ≠ 1 → s.Does (.ejectFlit k) fun t => s.OnlyFabric t ∧
        t.fab.flits = dropAt k s.fab.flits ∧ t.fab.rxq = s.fab.rxq ∧ t.fab.outst = s.fab.outst) ∧
      (∀ c pa n w, f.kind = .request → f.sound = true → f.ver = 1 → f.opening = false → s.entryOf f.src f.dst = some c → f.epoch = c.epoch →
        f.seq = c.expect → s.queueRoom f.dst = true → s.fab.rxq.any (·.same f.recv) = false → f.ncont = 0 → f.cls = 1 →
        f.body = .ld pa n w → s.Does (.ejectFlit k) fun t => s.OnlyFabric t ∧ t.fab.rxq = s.fab.rxq ++ [f.recv] ∧
          t.fab.flits = dropAt k s.fab.flits ∧ (t.entryOf f.src f.dst).map (·.expect) = some (f.seq + 1)) ∧
      (∀ c, f.kind = .request → f.sound = true → f.ver = 1 → f.opening = false → s.entryOf f.src f.dst = some c → f.epoch = c.epoch →
        0 < (f.seq - c.expect).toNat → (f.seq - c.expect).toNat < 2 ^ 15 → s.Does (.ejectFlit k) fun t => s.OnlyFabric t ∧
          t.fab.rxq = s.fab.rxq ∧ t.fab.dstCh = s.fab.dstCh) ∧
      (∀ o c id sh, f.kind = .completion → f.sound = true → f.ver = 1 → f.body.lacksLine = false → s.fab.outst = [o] → o.matches f = true →
        o.purpose = .load c id sh → s.Does (.ejectFlit k) fun t => s.OnlyFabric t ∧ t.fab.rxq = s.fab.rxq ∧
          t.fab.outst = [{ o with answer := some (f.status, f.body) }]) ∧
      (∀ o, f.kind = .hold → f.sound = true → s.fab.outst = [o] → o.matches f = true →
        s.Does (.holdNoticeReceived k) fun t => s.OnlyFabric t ∧ t.fab.flits = dropAt k s.fab.flits ∧
          t.fab.outst = [{ o with noticed := true }])) ∧
    (∀ r, s.fab.rxq[k]? = some r → r.left = [] → r.notified = false → s.Does (.holdNotice k) fun t => s.OnlyFabric t ∧
      (∀ x ∈ t.fab.rxq, x.same r = true → x.notified = true) ∧ t.fab.rxq.length = s.fab.rxq.length ∧
      ∃ f, t.fab.flits = s.fab.flits ++ [f] ∧ f.kind = .hold ∧ f.dst = r.src ∧ f.src = r.dst ∧ f.epoch = r.epoch ∧ f.seq = r.seq) ∧
    (∀ o, s.fab.outst[k]? = some o → o.answer = none → o.noticed = false → o.fence = false → s.travels o = false → s.Does (.retransmit k) fun t =>
      s.OnlyFabric t ∧ t.fab.rxq = s.fab.rxq ∧ ∃ f l, t.fab.flits = s.fab.flits ++ f :: l ∧ f.kind = .request ∧ f.rtx = true ∧
        f.dst = o.dst ∧ f.src = o.src ∧ f.epoch = o.epoch ∧ f.seq = o.seq ∧ f.body = o.body.bare)

/-- R279, R280, R281, R282, R497: channels end when nothing of them is outstanding; a failed link is left out and loses the flits on it; a dead
scale-up plane likewise; a flow's flits go into one of the 32 set-aside queues of their egress port and come out in their order; a notice marks a die quiescing; the source of a request to a
fenced die completes it by the table of R280. -/
def Obligations.ChannelsAndLinks : Prop :=
  ∀ (s : State) (k : Nat),
    (∀ c, s.fab.srcCh[k]? = some c → s.onChannel c.src c.dst = 0 → s.Does (.channelFree k) fun t => s.OnlyFabric t ∧
      t.fab.srcCh[k]? = some { c with opened := false } ∧ t.fab.outst = s.fab.outst ∧ t.fab.flits = s.fab.flits) ∧
    (∀ c, s.fab.dstCh[k]? = some c → (∀ r ∈ s.fab.rxq, ¬(r.src = c.src ∧ r.dst = c.dst)) →
      (∀ m ∈ s.allUnbound, ¬(m.src = c.src ∧ m.dst = c.dst)) → s.onChannel c.src c.dst = 0 →
      (∀ x ∈ s.fab.srcCh, x.src = c.src → x.dst = c.dst → x.opened = false) →
      s.Does (.channelEvict k) fun t => s.OnlyFabric t ∧ t.fab.dstCh = dropAt k s.fab.dstCh ∧ t.fab.outst = s.fab.outst) ∧
    (k ∉ s.fab.failed → s.Does (.linkFail k) fun t => t.fab.failed = k :: s.fab.failed ∧ t.core = s.core ∧ t.cores = s.cores ∧
      t.mem = s.mem ∧ (t.fab.flits = s.fab.flits.filter fun f => f.via != some k) ∧
      ∀ (p : Nat) (h : p < 24), p = (Config.linkEnds k).1 % 24 ∨ p = (Config.linkEnds k).2 % 24 →
        ∃ n, (n, ⟨9, 0, 0xFFFF, 0, 0, 0, BitVec.ofNat 32 k⟩) ∈ t.dies[p].bbox) ∧
    (k ∉ s.fab.dead → s.Does (.scaleupLinkDead k) fun t => t.fab.dead = k :: s.fab.dead ∧ t.fab.outst = s.fab.outst ∧
      t.core = s.core ∧ t.cores = s.cores ∧ t.mem = s.mem ∧
      (t.fab.flits = s.fab.flits.filter fun x => x.at_.pkg == s.mgmt.domain.pkg || x.plane.toNat != k) ∧ s.Shows t (planeDie k) ⟨9, 0, 0xFFFF, 0, 0, 0, BitVec.ofNat 32 k⟩) ∧
    ((∀ a ∈ s.fab.asides, ¬(a.port = k / 32768 ∧ a.flow = k % 32768)) → (s.fab.asides.filter (·.port == k / 32768)).length < 32 →
      s.Does (.setAside k) fun t => s.OnlyFabric t ∧
        t.fab.asides = s.fab.asides ++ [⟨k / 32768, k % 32768,
          s.fab.flits.filter fun f => f.at_.pkg != s.mgmt.domain.pkg && f.plane.toNat == k / 32768 && f.flow == k % 32768⟩] ∧
        t.fab.flits = s.fab.flits.filter fun f => !(f.at_.pkg != s.mgmt.domain.pkg && f.plane.toNat == k / 32768 && f.flow == k % 32768)) ∧
    (∀ fs, s.fab.asides = [⟨k / 32768, k % 32768, fs⟩] → s.Does (.setAsideRelease k) fun t => s.OnlyFabric t ∧ t.fab.asides = [] ∧
      t.fab.flits = s.fab.flits ++ fs) ∧
    (k < 32 → bit (s.mapEntry k) 31 = true → mapSt (s.mapEntry k) = 0 → s.Does (.qsce k) fun t => mapSt (t.mapEntry k) = 1 ∧
      (∀ n, n ≠ k → t.mapEntry n = s.mapEntry n) ∧ t.core = s.core ∧ t.cores = s.cores ∧ t.mem = s.mem ∧ t.fab = s.fab) ∧
    (∀ o c id sh, k = 0 → s.fab.outst = [o] → o.answer = none → o.purpose = .load c id sh → o.dst.pkg = s.mgmt.domain.pkg →
      mapSt (s.mapEntry o.dst.die.toNat) = 2 → s.Does (.dieFenced k) fun t => s.OnlyFabric t ∧
        t.fab.outst = [{ o with answer := some (s.fenceStatus o, .none) }] ∧
        ∀ x ∈ t.fab.srcCh, x.src = o.src → x.dst = o.dst → x.opened = false)

/-! ## The scheduler's steps -/

/-- R217, R219, R220, R45, R46: while the die has no power head, a selection starts the record that R217 chooses, if it checks and is no
team's; a victim gives the record that R220 names, or nothing; a stolen record of a chamber that is gone is dropped, one that may not
start now goes to the bottom of the thief's deque, or waits while that is full (log 133), and one that may, and is no team's, starts; after
the pause a worker whose deque has room begins an attempt again, if it selects. -/
def Obligations.Selection : Prop :=
  ∀ (s : State) (c : CoreName) (k : Nat),
    (∀ i d, s.selects c = true → (s.gov (dieOf c)).head = none → s.choose c = some (.record i) →
      ((s.getCore c).sched.deque[i]? : Option Slot) = some d → s.recOk d.ctx d.record = true → recIsTeam d.record = false →
      s.Does (.select c) fun t => t.Begins c d) ∧
    (∀ r x g, s.request k [13] = some r → r.body = .steal x g →
      (s.stealable (unitCore r.dst) g = none → s.Does (.steal k) fun t => s.Answers t r 0 .none ∧ t.core = s.core ∧ t.cores = s.cores) ∧
      (∀ i d, s.stealable (unitCore r.dst) g = some i → ((s.getCore (unitCore r.dst)).sched.deque[i]? : Option Slot) = some d →
        s.Does (.steal k) fun t => t.mem = s.mem ∧
          s.Answers t r 0 (.stolen { d with passes := 0 } ((s.chamber d.ctx (recCid d.record)).elim 0 (·.reex))) ∧
          (t.getCore (unitCore r.dst)).sched.deque = dropAt i (s.getCore (unitCore r.dst)).sched.deque)) ∧
    (∀ o st d n, s.returned k [13] = some (o, st, .stolen d n) → o.purpose = .steal c → recForm d.record = true →
      (s.chamber d.ctx (recCid d.record) = none → s.Does (.stealReply k) fun t => t.mem = s.mem ∧
        (t.getCore c).sched.deque = (s.getCore c).sched.deque ∧ (t.getCore c).sched.steal = none) ∧
      (∀ h, s.chamber d.ctx (recCid d.record) = some h → h.reex = n → h.cst = 1 ∨ h.cst = 2 →
        (s.selects c = false → s.Does (.stealReply k) fun t => t.mem = s.mem ∧
          s.GivesBack t c d ∧ (t.getCore c).sched.steal = none) ∧
        (s.selects c = true → s.slotStartable c d = true → recIsTeam d.record = false →
          s.Does (.stealReply k) fun t => t.Begins c d))) ∧
    ((s.getCore c).sched.steal.any (·.paused) = true → isWorker c = true → (s.getCore c).sched.deque.length < 256 →
      s.Does (.stealPauseExpiry c) fun t => t.mem = s.mem ∧ (t.getCore c).sched.deque = (s.getCore c).sched.deque ∧
        ((t.getCore c).sched.steal.isSome = true ↔ s.selects c = true))

/-- R222, R49, R238: a reservation message reserves a core that may join its gang and asks for the pre-emption of its task, and is
refused by one that may not; a gang of a new team whose cores are all reserved and free binds them in one step, and gives them up where
the governor or R54 does not take it; a gang that times out gives up its cores, and the record of a new team comes back to its deque, or
waits while that is full (log 133). -/
def Clauses.Gangs : Prop :=
  ∀ (s : State) (k : Nat),
    (∀ r id, s.request k [28] = some r → r.body = .rsv id →
      (s.work.gangs.find? (·.id == id) = none → s.Does (.rsv k) fun t => s.Answers t r 0 (.value [1]) ∧ t.core = s.core) ∧
      (∀ g, s.work.gangs.find? (·.id == id) = some g →
        (s.joins g.slot.ctx g.prio (unitCore r.dst) = false →
          s.Does (.rsv k) fun t => s.Answers t r 0 (.value [1]) ∧ t.core = s.core ∧ t.cores = s.cores) ∧
        (s.joins g.slot.ctx g.prio (unitCore r.dst) = true →
          s.Does (.rsv k) fun t => s.Answers t r 0 (.value [0]) ∧ (t.getCore (unitCore r.dst)).sched.reserved = some (.gang id) ∧
            ((s.getCore (unitCore r.dst)).ctl.run ≠ .idle → (t.getCore (unitCore r.dst)).ctl.due.preempt = true)))) ∧
    (∀ g, (s.work.gangs[k]? : Option Gang) = some g →
      (g.resume = [] → (∀ c ∈ g.cores, (s.getCore c).sched.reserved = some (.gang g.id) ∧ (s.getCore c).ctl.run = .idle ∧
          (s.getCore c).ctl.stopped = false) → g.cores.Nodup → ∀ die, g.cores.head?.elim 0 dieOf = die →
        let w := g.cores.length * weight (recPcls g.slot.record)
        (s.admits die w g.prio = true → s.mayRun g.slot.ctx (recCid g.slot.record) g.cores.length w = true →
          s.Does (.gangBind k) fun t => ∀ c ∈ g.cores, t.Begins c g.slot ∧ (t.getCore c).sched.reserved = none) ∧
        (s.admits die w g.prio = false ∨ s.mayRun g.slot.ctx (recCid g.slot.record) g.cores.length w = false →
          s.Does (.gangBind k) fun t => t.work.gangs = s.work.gangs.filter (·.id != g.id) ∧ t.mem = s.mem ∧
            s.GivesBack t g.home g.slot ∧ ∀ c ∈ g.cores, (t.getCore c).sched.reserved ≠ some (.gang g.id))) ∧
      s.Does (.gangReserveTimeout k) fun t => t.work.gangs = s.work.gangs.filter (·.id != g.id) ∧ t.mem = s.mem ∧
        (∀ c ∈ g.cores, (t.getCore c).sched.reserved ≠ some (.gang g.id)) ∧ (g.resume = [] → s.GivesBack t g.home g.slot))

/-- R231, R224, R225, R62: a PUSH is acknowledged 3 where the core does not fit, 2 where the chamber takes no records, 1 where the deque is
full, and else 0 with its record in the deque; a CLAIM takes its part of a loop nest, or nothing from one that is exhausted; a restart's
copy goes to a worker of its two circles that fits and has room, and waits while there is none; the first push that waits for a core goes
into its deque once there is room. -/
def Clauses.Pushes : Prop :=
  ∀ (s : State) (k : Nat),
    (∀ r d need, s.request k [20] = some r → r.body = .push d need →
      ((need &&& ~~~coreGroups (unitCore r.dst)) ≠ 0 ∨ isWorker (unitCore r.dst) = false →
        s.Does (.push k) fun t => s.Answers t r 0 (.value [3]) ∧ t.mem = s.mem) ∧
      ((need &&& ~~~coreGroups (unitCore r.dst)) = 0 → isWorker (unitCore r.dst) = true →
        (((∀ h, s.chamber d.ctx (recCid d.record) = some h → h.cst ≠ 1 ∧ h.cst ≠ 2) →
          s.Does (.push k) fun t => s.Answers t r 0 (.value [2]) ∧ t.mem = s.mem) ∧
        ∀ h, s.chamber d.ctx (recCid d.record) = some h → h.cst = 1 ∨ h.cst = 2 →
          (256 ≤ (s.getCore (unitCore r.dst)).sched.deque.length →
            s.Does (.push k) fun t => s.Answers t r 0 (.value [1]) ∧ t.mem = s.mem) ∧
          ((s.getCore (unitCore r.dst)).sched.deque.length < 256 → s.Does (.push k) fun t => s.Answers t r 0 (.value [0]) ∧
            d ∈ (t.getCore (unitCore r.dst)).sched.deque ∧
            (t.chamber d.ctx (recCid d.record)).map (·.live) = some (h.live + 1))))) ∧
    (∀ r x cid, s.request k [21] = some r → r.body = .claim x cid →
      ((∀ h, s.chamber x cid = some h → h.nest.act = false ∨ h.nest.next = h.nest.total) → s.Does (.claim k) fun t => s.Answers t r 0 (.value []) ∧ t.mem = s.mem) ∧
      (∀ h, s.chamber x cid = some h → h.nest.act = true → h.nest.next ≠ h.nest.total →
        let n := (h.nest.total - h.nest.next + 2 * Nat.max h.cuse 1 - 1) / (2 * Nat.max h.cuse 1)
        s.Does (.claim k) fun t =>
          s.Answers t r 0 (.value [BitVec.ofNat 64 h.nest.next, BitVec.ofNat 64 (h.nest.next + n), h.nest.ext, h.nest.gen.setWidth 64]) ∧
          (t.chamber x cid).map (·.nest.next) = some (h.nest.next + n))) ∧
    (∀ r, (s.work.restarts[k]? : Option Restart) = some r →
      let circles := s.circle r.core 1 ++ s.circle r.core 2
      let fits (n : Nat) : Prop := (r.feat &&& ~~~((coreGroups (BitVec.ofNat 16 n)).setWidth 128)) = 0 ∧
        (s.getCore (BitVec.ofNat 16 n)).sched.deque.length < 256
      ((∃ n ∈ circles, fits n) → s.Does (.restart k) fun t => t.work.restarts = dropAt k s.work.restarts ∧ t.mem = s.mem ∧
        ∃ m ∈ circles, fits m ∧ r.slot ∈ (t.getCore (BitVec.ofNat 16 m)).sched.deque) ∧
      ((∀ n ∈ circles, ¬fits n) → s.Does (.restart k) fun t => t = s)) ∧
    (∀ p, (s.work.pushes[k]? : Option Sys2Proof.Machine.Push) = some p → (∀ q ∈ s.work.pushes.take k, q.core ≠ p.core) →
      ((s.getCore p.core).sched.deque.length < 256 → (p.reexec = true → (s.chamber p.slot.ctx p.cid).all (·.waiting.isEmpty) = true) →
        s.Does (.deferredPush k) fun t => (∃ l, t.work.pushes = dropAt k s.work.pushes ++ l) ∧
          ∃ d ∈ (t.getCore p.core).sched.deque, d.record = p.slot.record ∧ d.ctx = p.slot.ctx) ∧
      (256 ≤ (s.getCore p.core).sched.deque.length → s.Does (.deferredPush k) fun t => t = s))

/-- R58, R59, R62, R485, R487: while launches are accepted, a write to LREC is dropped and counted where one is under way or where it is not
of eight bytes, and else begins one; its checks end with the first status of R59 that applies, or, for an image that declares no extents,
with a new context; a context ends when nothing of it is left, and not before; a write of EHEAD writes the end that waited, if the ring has room
then; a write of eight bytes by the host to a mailbox puts them there, and other registers take none. -/
def Obligations.Launches : Prop :=
  ∀ s : State,
    (s.serving = true → ∀ w lrec n saves,
      (n ≠ 8 ∨ s.mgmt.win.busy.isSome = true → s.Does (.launch (.write w lrec n saves)) fun t =>
        t.mgmt.win = { s.mgmt.win with drop := s.mgmt.win.drop + 1 } ∧ s.KeepsCores t ∧ t.work = s.work) ∧
      (n = 8 → s.mgmt.win.busy = none → s.Does (.launch (.write w lrec n saves)) fun t =>
        t.mgmt.win = { s.mgmt.win with busy := some (w, lrec, saves) } ∧ s.KeepsCores t ∧ t.work = s.work)) ∧
    (∀ w lrec saves, s.mgmt.win.busy = some (w, lrec, saves) →
      (lrec.toNat % 256 ≠ 0 → s.Does (.launch .checked) fun t =>
        t.mgmt.win = { s.mgmt.win with busy := none, status := 3, priv := w != .own } ∧ s.KeepsCores t ∧ t.work = s.work) ∧
      (lrec.toNat % 256 = 0 → s.launchBytes lrec.toNat 256 = none → s.Does (.launch .checked) fun t =>
        t.mgmt.win = { s.mgmt.win with busy := none, status := 2, priv := w != .own } ∧ s.KeepsCores t ∧ t.work = s.work) ∧
      (∀ bs, lrec.toNat % 256 = 0 → s.launchBytes lrec.toNat 256 = some bs →
        (s.launchStatus w 0 bs ≠ 0 → s.Does (.launch .checked) fun t =>
          t.mgmt.win = { s.mgmt.win with busy := none, status := BitVec.ofNat 8 (s.launchStatus w 0 bs), priv := w != .own } ∧
          s.KeepsCores t ∧ t.work = s.work) ∧
        (s.launchStatus w 0 bs = 0 → saves = [] → s.Does (.launch .checked) fun t => t.mgmt.win.busy = none ∧ t.mgmt.win.status = 0 ∧
          t.mgmt.win.ctx = s.newCtx ∧ (t.findCtx s.newCtx).isSome = true))) ∧
    (∀ x c, s.findCtx x = some c →
      (s.ended c = true → s.Does (.contextEnd x) fun t => t.findCtx x = none) ∧
      (s.ended c = false → s.Does (.contextEnd x) fun t => t = s)) ∧
    (∀ head,
      (s.mgmt.win.waiting = [] → s.Does (.contextEndHead head) fun t =>
        t.mgmt.win = { s.mgmt.win with head := head } ∧ s.KeepsCores t ∧ t.work = s.work) ∧
      (∀ e, s.mgmt.win.waiting = [e] → (s.mgmt.win.tail - head).toNat < 31 → s.Does (.contextEndHead head) fun t =>
        s.KeepsCores t ∧ t.mgmt.win.waiting = [] ∧ t.mgmt.win.head = head ∧ t.mgmt.win.tail = s.mgmt.win.tail + 1 ∧
        assocGet (s.mgmt.win.tail.toNat % 31) t.mgmt.win.ring = some e.entry) ∧
      (∀ e l, s.mgmt.win.waiting = e :: l → 31 ≤ (s.mgmt.win.tail - head).toNat → s.Does (.contextEndHead head) fun t =>
        s.KeepsCores t ∧ t.mgmt.win = { s.mgmt.win with head := head })) ∧
    (∀ (n off : Nat) (data : Word), n < 2 → off < 0x10000 → off % 8 = 0 → s.MemoryWf →
      s.Does (.registerWrite (0x10000 * (n + 1) + off) data) fun t => (∀ j < 8, readByte t.mem (s.mailbox n + off + j) = byteOf data j) ∧
        s.BytesOutside t (s.mailbox n + off) 8 ∧ t.core = s.core ∧ t.cores = s.cores ∧ t.fab = s.fab) ∧
    (∀ (off : Nat) (data : Word), off < 0x10000 ∨ 0x30000 ≤ off → s.Does (.registerWrite off data) fun t => t = s)

/-! ## Events of a core -/

/-- R26, R496, R188, R183, R184, R63: an instruction that waited is tried again; a fault that a completion brought enters the handler at a
boundary, unless a detected error is due, which goes first; a pre-emption that may be taken puts the task, with its registers, into the
resume list, and its core stops under it until its accesses have their points and the matrix unit is done; when the bound of R184 passes,
the older of the requests that still wait for IE waits for it no longer; the service processor's command makes a PREEMPT due; a break request
becomes due, and is then taken into the handler when it may be. Teams, hinge pairs and a waiting `balloc` apart. -/
def Obligations.CoreEvents : Prop :=
  ∀ (s : State) (c : CoreName),
    (∀ q, (s.getCore c).ctl.stalls.any (·.1 == q) = true → s.Does (.issueAfterStall c q) fun t =>
      t.agenda = .core c q :: s.agenda ∧ t.mem = s.mem ∧ t.fab = s.fab ∧ (t.getCore c).thr = (s.getCore c).thr ∧
      (t.getCore c).ctl.stalls = (s.getCore c).ctl.stalls.filter (·.1 != q)) ∧
    (∀ k p l, (s.getCore c).ctl.task = some k → k.pend = p :: l → (s.getCore c).ctl.run = .task → (s.getCore c).ctl.stopped = false →
      bit (s.getCore c).thr.kstatus 6 = false → (s.getCore c).thr.kvec ≠ 0 → (s.getCore c).inFlight .control = false → s.NoAlloc c →
      (k.errs ≠ [] → s.Does (.pendingFaultTake c) fun t => t = s) ∧
      (k.errs = [] → s.Does (.pendingFaultTake c) fun t => t.mem = s.mem ∧ t.fab = s.fab ∧ (t.getCore c).thr.pc = (s.getCore c).thr.kvec ∧
        (t.getCore c).thr.kcause = p.1 ∧ (t.getCore c).thr.kaddr = p.2 ∧ (t.getCore c).thr.kepc = (s.getCore c).thr.pc ∧
        (t.getCore c).thr.g = (s.getCore c).thr.g ∧ bit (t.getCore c).thr.kstatus 6 = true ∧
        (t.getCore c).ctl.task.map (·.pend) = some l)) ∧
    (∀ k, s.mayPreempt c = true → (s.getCore c).ctl.task = some k → k.team = none → (s.getCore c).pair = none → s.NoAlloc c →
      (s.getCore c).inFlight .control = false → (s.getCore c).inFlight .matrix = false →
      ((s.getCore c).quiet = true → (s.getCore c).matrixBusy = false → s.Does (.preempt c) fun t => (t.getCore c).ctl.run = .idle ∧ (t.getCore c).ctl.task = none ∧
        bits (t.getCore c).thr.kcause 0 8 = 0x13 ∧ ∃ r, (t.getCore c).sched.resume = (s.getCore c).sched.resume ++ [r] ∧
          r.saved.task.record = k.record ∧ r.saved.thr = (s.getCore c).thr ∧ r.saved.vec = (s.getCore c).vec ∧ r.skip = false) ∧
      ((s.getCore c).quiet = false ∨ (s.getCore c).matrixBusy = true → s.Does (.preempt c) fun t => (t.getCore c).ctl.run = .leaving ∧
        (t.getCore c).thr = (s.getCore c).thr)) ∧
    (∀ d, (s.getCore c).ctl.due = d →
      (s.Does (.interruptWaitExpiry c) fun t => t.mem = s.mem ∧ t.fab = s.fab ∧ (t.getCore c).thr = (s.getCore c).thr ∧
        (t.getCore c).ctl.due =
          if d.brk = true ∧ d.brkForced = false ∧ (d.brkFirst = true ∨ d.preempt = false ∨ d.preemptForced = true) then
            { d with brkForced := true }
          else if d.preempt = true ∧ d.preemptForced = false then { d with preemptForced := true }
          else d) ∧
      ((s.getCore c).ctl.run = .task → s.Does (.spPreemptCommand c) fun t => t.mem = s.mem ∧ t.fab = s.fab ∧
        (t.getCore c).thr = (s.getCore c).thr ∧
        (d.preempt = true → (t.getCore c).ctl.due = { d with command := true }) ∧
        (d.preempt = false → (t.getCore c).ctl.due =
          { d with preempt := true, preemptForced := false, brkFirst := d.brk, command := true }))) ∧
    (∀ k, (s.getCore c).ctl.run = .task → (s.getCore c).ctl.task = some k → k.team = none →
      ((s.getCore c).ctl.due.brk = false → s.Does (.debuggerBreakRequest c) fun t => t.mem = s.mem ∧ t.fab = s.fab ∧
        (t.getCore c).thr = (s.getCore c).thr ∧ (t.getCore c).ctl.due = { (s.getCore c).ctl.due with
          brk := true, brkForced := false, brkFirst := !(s.getCore c).ctl.due.preempt }) ∧
      ((s.getCore c).ctl.due.brk = true → s.mayBreak c = true → s.NoAlloc c → ((s.partOf (dieOf c)).bind s.part).any (·.held) = false →
        bit (s.getCore c).thr.kstatus 6 = false → (s.getCore c).thr.kvec ≠ 0 → s.Does (.debuggerBreakRequest c) fun t =>
        t.mem = s.mem ∧ (t.getCore c).thr.pc = (s.getCore c).thr.kvec ∧ bits (t.getCore c).thr.kcause 0 8 = 0x12 ∧
        (t.getCore c).thr.kaddr = 0 ∧ (t.getCore c).thr.kepc = (s.getCore c).thr.pc ∧ (t.getCore c).ctl.due.brk = false))

/-! ## Stops, boundaries, diagnoses and losses -/

/-- R191, R193, R468, R470, R471: a gang stop halts every core of the partition, whose registers the shadow sets keep, at firmware
privilege with cause GANG, and a resume goes on from them; a boundary stops the partition, and once what its cores issued has completed
keeps its state and raises the sequence, as a full undo log does at once; a rollback puts the cores back. Partitions in which a double-trap
sequence runs apart, but for the rollback. -/
def Obligations.StopsAndRollback : Prop :=
  ∀ (s : State) (p table : Nat) (q : Partition), s.part p = some q →
    (q.stopped = false → q.dies.Nodup → (∀ c ∈ s.partCores p, (s.getCore c).Calm) →
      s.Does (.gangStop ⟨p, table⟩) fun t => (t.part p).map (·.stopped) = some true ∧
      ∀ c ∈ s.partCores p, (t.getCore c).ctl.stopped = true ∧ ((s.getCore c).ctl.stopped = false → bits (t.getCore c).thr.kcause 0 8 = 0x0E ∧
        (t.getCore c).thr.kaddr = 0 ∧ bits (t.getCore c).thr.kstatus 4 2 = 2 ∧
        (t.getCore c).ctl.shadow = some ⟨(s.getCore c).kstatus .control, (s.getCore c).thr.kcause, (s.getCore c).thr.kaddr,
          (s.getCore c).thr.kepc, (s.getCore c).thr.kpfx, (s.getCore c).thr.pc, none⟩)) ∧
    (q.stopped = true → q.bound = false → s.Does (.gangResume p) fun t => (t.part p).map (·.stopped) = some false ∧ t.mem = s.mem ∧
      ∀ c ∈ s.partCores p, q.halted.contains (dieOf c) = false → (t.getCore c).ctl.stopped = false ∧
        ∀ x, (s.getCore c).ctl.shadow = some x → (t.getCore c).thr.pc = x.resume ∧ (t.getCore c).thr.kcause = x.kcause) ∧
    ((∃ c ∈ s.work.ctxs, c.part = p ∧ c.ckpt ≠ 0) → s.mgmt.recov = [] → q.stopped = false →
      (∀ c ∈ s.partCores p, (s.getCore c).Calm) →
      let settles := ∀ c ∈ s.knownCores, q.dies.contains (dieOf c) = true → (s.getCore c).settled = true
      (settles → s.Does (.checkpointBoundary p) fun t => (t.part p).map (·.bseq) = some (q.bseq + 1) ∧
        (t.part p).map (·.stopped) = some false ∧ ∃ b ∈ t.mgmt.bounds, b.part = p) ∧
      (¬settles → s.Does (.checkpointBoundary p) fun t => (t.part p).map (·.bound) = some true ∧ t.mgmt.bounds = s.mgmt.bounds) ∧
      (∀ die, 16 ≤ die → die < 20 → s.partsOf die = [p] → settles → s.Does (.undoLogFull die) fun t =>
        (t.part p).map (·.bseq) = some (q.bseq + 1))) ∧
    (∀ d b, s.mgmt.recov = [] → s.rungFour p = some d → s.mgmt.bounds.find? (·.part == p) = some b →
      (∀ c ∈ s.work.ctxs, c.part = p → ∃ x, b.ctxs.find? (·.ctx == c.ctx) = some x ∧ x.ckpt ≠ 0) →
      s.Does (.gangRollback p) fun t => d ∉ t.mgmt.passed ∧ (t.part p).map (·.stopped) = some false ∧
        ∀ c k, q.dies.contains (dieOf c) = true → assocGet c b.cores = some k → t.getCore c = k.reloaded)

/-- R460, R461, R462, R467, R479: a diagnosis begins a vote and goes to the partner; the partner's that agrees passes it; without an
answer, and with no other package to judge, or without agreeing referees, the rule of step 4 decides; a probe that is answered clears the
count of its die and one that is not raises it; a lost partner leaves the other in state 2; the watchdog reports a partition. -/
def Clauses.Diagnoses : Prop :=
  ∀ (s : State) (n k : Nat) (d : Rec),
    (n < 2 → (s.sp n).state ≠ 0 → diagForm d = true → (s.sp n).lost = false → (s.sp (1 - n)).lost = false →
      diagPkg d = s.mgmt.domain.pkg.setWidth 16 → s.voteOn d = none → s.Does (.diagnosis n d) fun t => t.mem = s.mem ∧
        t.mgmt.votes = s.mgmt.votes ++ [⟨some d, none, n, false, []⟩] ∧
        ∃ o, t.fab.outst = s.fab.outst ++ [o] ∧ o.src = s.spUnit n ∧ o.dst = s.spUnit (1 - n) ∧ o.cls = 27 ∧ o.body = .spmb (some d)) ∧
    (∀ r v a b, s.fab.rxq.find? (fun r => decide (r.cls = 27 ∧ r.dst = s.spUnit n) && r.left.isEmpty) = some r → r.body = .spmb (some d) →
      s.voteOn d = some k → (s.mgmt.votes[k]? : Option Vote) = some v → v.by_ = n → v.referees = false → r.src.pkg = s.mgmt.domain.pkg →
      v.first = some a → v.second = some b → agree a b = true → diagClass a ≠ 6 →
      s.Does (.spmb n) fun t => s.Answers t r 0 .none ∧ t.mgmt.passed = s.mgmt.passed ++ [a] ∧ t.mem = s.mem ∧
        ∀ x ∈ t.mgmt.votes, x.first.any (sameSubject a) = false) ∧
    (∀ v a, (s.mgmt.votes[k]? : Option Vote) = some v → v.first = some a → diagClass a ≠ 6 →
      (v.referees = false → v.second = none → s.mgmt.domain.packages ≤ 1 → s.Does (.voteTimeout k) fun t =>
        t.mgmt.passed = s.mgmt.passed ++ [a] ∧ s.KeepsCores t) ∧
      (v.referees = true → (∀ b, v.second = some b → diagRung b < diagRung a) → s.Does (.refereeTimeout k) fun t =>
        t.mgmt.passed = s.mgmt.passed ++ [a] ∧ s.KeepsCores t)) ∧
    (∀ die ok m, die < 24 → m = (if (s.sp (die % 2)).lost then 1 - die % 2 else die % 2) → (s.sp m).state ≠ 0 →
      ok = true ∨ ((assocGet die (s.sp m).missed).getD 0) ≠ 4 → s.Does (.heartbeatProbe die ok) fun t => s.KeepsCores t ∧
        assocGet die (t.sp m).missed = some (if ok then 0 else ((assocGet die (s.sp m).missed).getD 0) + 1)) ∧
    (n < 2 → (s.sp n).lost = false → (s.sp (1 - n)).lost = false → s.mgmt.votes = [] → s.Does (.spPartnerLost n) fun t =>
      (t.sp (1 - n)).lost = true ∧ ((s.sp n).state ≠ 0 → (t.sp n).state = 2) ∧ t.core = s.core ∧ t.cores = s.cores ∧ t.fab = s.fab) ∧
    (∀ q, s.part k = some q → q.held = false → (∃ c ∈ s.work.ctxs, c.part = k ∧ ∃ h ∈ c.chambers, h.live ≠ 0) →
      s.Does (.watchdog k) fun t => t.core = s.core ∧ t.cores = s.cores ∧ t.fab = s.fab ∧
        s.Shows t ((q.dies.head?).getD 0) ⟨16, 0, 0xFFFF, 0, 0, 0, BitVec.ofNat 32 k⟩)

/-- R473 to R478: on its diagnosis a lost compute die, fenced, gives its number to the spare and a recovery begins, or with no spare its cores
go off and none begins; a lost gateway gives its number to its stand-in, where there is one, and a recovery begins; when the shards of a
die whose census is empty are rebuilt, its recovery ends; where a package is lost, code groups with shards there are rebuilt if another
package stands in, and else the contexts with frames or shards there fail. -/
def Clauses.Losses : Prop :=
  ∀ (s : State) (die : Nat),
    (∀ d, die < 16 → s.mayRecover die = true → s.diagnosisFor 10 die = some d →
      let u := ((s.consume d).recovering true).fence die
      (∀ e v, u.spareEntry die = some (e, v) → s.Does (.dieLossRecovery die) fun t => ∃ w, w = v.replaceDie die e ∧
        t = w.modMgmt fun m => { m with recov := [⟨die, s.partsOf die, u.census die ++ u.mgmt.recov.flatMap (·.chambers)⟩] }) ∧
      (u.spareEntry die = none → s.Does (.dieLossRecovery die) fun t => t.mgmt.recov = [] ∧
        ∀ c ∈ coresOf die, (t.getCore c).ctl.run = .off)) ∧
    (∀ r, s.mgmt.recov.find? (·.die == die) = some r → r.chambers = [] → die < 16 → s.Does (.rebuildComplete die) fun t =>
      t.mgmt.recov = s.mgmt.recov.filter (·.die != die) ∧ (∀ x ∈ t.stripes, x.lost = 0) ∧
      (bit (s.mapEntry die) 31 = true → mapSt (t.mapEntry die) = 0)) ∧
    (∀ d, 16 ≤ die → die < 20 → s.mayRecover die = true → s.diagnosisFor 11 die = some d → s.mgmt.domain.standby ≠ [] →
      s.Does (.gatewayLoss die) fun t => (t.mgmt.recov.map fun r => (r.die, r.parts)) = [(die, s.partsOf die)]) ∧
    (die ≠ s.mgmt.domain.pkg.toNat → die < s.mgmt.domain.packages → s.mgmt.domain.standby = [] →
      exec (.packageLoss die) s = .next (s.failContexts (fun c => s.hasFrame c (fun a => decide (addrPkg a = die)) ||
        s.hasShard c (fun a => decide (addrPkg a = die))) 6 true)) ∧
    (∀ q l, die ≠ s.mgmt.domain.pkg.toNat → die < s.mgmt.domain.packages → s.mgmt.domain.standby = q :: l →
      s.Does (.packageLoss die) fun t => ∀ x ∈ t.stripes, x.shards.any (fun a => decide (addrPkg a = die)) = true → x.lost = 0)

/-! ## Mailbox requests -/

/-- R465, R466, R320, R468, R479, R480, R493, R30: each OP of the mailbox, well formed and permitted, does what its row says and is
answered; a malformed request is answered 1 and one that is not permitted 2. -/
def Obligations.MailboxRequests : Prop :=
  ∀ (s : State) (n : Nat) (e : List Byte),
    (∀ line, s.serves n = true → s.requestIn n = some (e, line) → reqForm e = false →
      exec (.mailboxRequestMalformed n) s = .next (s.respond n e 1 0)) ∧
    (∀ line i, s.serves n = true → s.requestIn n = some (e, line) → reqForm e = true → (s.requester line).permits e = false →
      (i, field e 0 1) ∈ [(Instr.installRegion n, 1), (.removeRegion n, 2), (.setCheckpointInterval n, 3), (.holdPartition n, 4),
        (.releasePartition n, 5), (if reqArg e 1 = 0 then .haltDie n else .resumeDie n, 6), (.restartCore n, 7), (.setBudgetRequest n, 8),
        (.attestation n, 10)] →
      exec i s = .next (s.respond n e 2 0)) ∧
    (s.Requests n 1 e → s.place (reqArg e 0).toNat ≠ .hole →
      let d := s.currents (reqArg e 0).toNat 64
      let bases := (List.range 6).map fun k => field d (8 * k) 8
      let standing := bit (reqArg e 1) 0
      ∀ rid, (List.range 64).find? (fun i => s.stripes.all fun r => r.rid != i) = some rid →
        (s.regionRefused bases (field d 48 8) standing = true → exec (.installRegion n) s = .next (s.respond n e 3 0)) ∧
        (s.regionRefused bases (field d 48 8) standing = false → s.Does (.installRegion n) fun t => ∃ u : State,
          t = u.respond n e 0 (BitVec.ofNat 64 rid) ∧ u.stripes = s.stripes ++ [Region.withLost ⟨rid, reqCtx e, field d 48 8, bases, 0, standing, 0⟩ 0] ∧
          (standing = false → { u with stripes := s.stripes } = s))) ∧
    (∀ r, s.Requests n 2 e → s.region (reqArg e 0).toNat = some r → reqCtx e = r.ctx → s.Does (.removeRegion n) fun t =>
      ∃ u : State, t = u.respond n e 0 0 ∧ u.stripes = s.stripes.filter (·.rid != r.rid) ∧ (r.standing = false → { u with stripes := s.stripes } = s)) ∧
    (∀ c, s.Requests n 3 e → s.findCtx (reqCtx e) = some c → s.Does (.setCheckpointInterval n) fun t => ∃ u : State,
      t = u.respond n e 0 (BitVec.ofNat 64 (u.interval c.part)) ∧ { u with work := s.work } = s ∧
      (u.findCtx (reqCtx e)).map (·.ckpt) = some (reqArg e 0).toNat) ∧
    (∀ p, s.Requests n 4 e → s.partOf (reqArg e 0).toNat = some p → s.Does (.holdPartition n) fun t => ∃ u : State,
      t = u.respond n e 0 0 ∧ { u with work := s.work } = s ∧ u.part p = (s.part p).map fun q => { q with held := true }) ∧
    (∀ p, s.Requests n 5 e → s.partOf (reqArg e 0).toNat = some p → (s.part p).any (·.held) = true →
      s.Does (.releasePartition n) fun t => ∃ u : State, t = u.respond n e 0 0 ∧ (u.part p).any (·.held) = false ∧
        ∀ c, s.partOf (dieOf c) = some p → (u.getCore c).ctl.run ≠ .broken) ∧
    (∀ p, s.Requests n 6 e → s.heldPart (reqArg e 0).toNat = some p →
      (reqArg e 1 = 0 → (s.part p).any (·.halted.contains (reqArg e 0).toNat) = false →
        (∀ c ∈ s.knownCores, (s.getCore c).Calm) → s.Does (.haltDie n) fun t => ∃ u : State,
        t = u.respond n e 0 0 ∧ u.mem = s.mem ∧ (u.part p).any (·.halted.contains (reqArg e 0).toNat) = true ∧
        ∀ c ∈ s.knownCores, dieOf c = (reqArg e 0).toNat → (u.getCore c).ctl.stopped = true) ∧
      (reqArg e 1 = 1 → (s.part p).any (·.halted.contains (reqArg e 0).toNat) = true → s.Does (.resumeDie n) fun t => ∃ u : State,
        t = u.respond n e 0 0 ∧ (u.part p).any (·.halted.contains (reqArg e 0).toNat) = false)) ∧
    (∀ c : CoreName, s.Requests n 7 e → reqArg e 0 = c.setWidth 64 → isCore c = true → (s.getCore c).ctl.run = .halted →
      s.Does (.restartCore n) fun t => ∃ u : State, t = u.respond n e 0 0 ∧ (u.getCore c).ctl.run = .idle ∧ (u.getCore c).thr = .reset) ∧
    (s.Requests n 8 e → s.Does (.setBudgetRequest n) fun t => ∃ u : State, t = u.respond n e 0 0 ∧ { u with govs := s.govs } = s ∧
      u.gov (reqArg e 0).toNat = { s.gov (reqArg e 0).toNat with budget := (reqArg e 1).toNat }) ∧
    (∀ die units, die < 16 → 256 ≤ units → units ≤ 1024 → s.Does (.setGovernorBudget die units) fun t =>
      { t with govs := s.govs } = s ∧ t.gov die = { s.gov die with budget := units } ∧ ∀ d, d ≠ die → t.gov d = s.gov d) ∧
    (s.Requests n 10 e → (∀ a ∈ [(reqArg e 4).toNat, (reqArg e 4).toNat + 16383],
        s.place a = .memory ∨ s.place a = .persist ∨ ∃ c, s.place a = .sram c) →
      s.Does (.attestation n) fun t => ∃ bs, t = (s.deviceWrite (reqArg e 4).toNat bs).respond n e 0 (BitVec.ofNat 64 bs.length) ∧
        bs.length ≤ 16384 ∧ bs.take 32 = (e.drop 8).take 32)

/-! ## The host, the ports and bring-up -/

/-- R149, R484, R488: a host read of a line that no other owner holds registers the host for it, a host write puts its words there and
gives the line up, and while an owner holds words of it they are asked for; an answered back-invalidation, and one that times out, ends
the host's hold; the scrub's findings. -/
def Clauses.HostAccesses : Prop :=
  ∀ (s : State) (line : Nat),
    (∀ a, s.hostAddr line = some a → s.place a = .memory → s.lostAt a = false → s.moving a = .serve →
      ((∀ e ∈ s.homes.registry, e.line = a / 128 → e.owner = s.hostUnit) →
        ((s.setOf (a / 128)).length < 8 → s.Does (.hostMemAccess (.read line)) fun t => t.mem = s.mem ∧ t.core = s.core ∧
          ∃ x ∈ t.homes.registry, x.owner = s.hostUnit ∧ x.line = a / 128 ∧ x.mask = 0xFFFFFFFF#32) ∧
        (∀ data : List W32, data.length = 32 → s.MemoryWf → s.Does (.hostMemAccess (.write line 0xFFFFFFFF#32 data)) fun t =>
          (∀ j < 128, readByte t.mem (a + j) = byteOf (((data[j / 4]?).getD 0).setWidth 64) (j % 4)) ∧ s.BytesOutside t a 128 ∧
          t.core = s.core ∧ ∀ x ∈ t.homes.registry, x.owner = s.hostUnit → x.line = a / 128 → x.mask = 0)) ∧
      (∀ e, s.ownersOf (a / 128) 0xFFFFFFFF#32 = [e] → e.owner ≠ s.hostUnit → e.owner.die ≠ 31 → e.rev = false →
        s.canPost (s.home (128 * e.line)) e.owner 1 = true → s.Does (.hostMemAccess (.read line)) fun t => t.mem = s.mem ∧
          ∃ o, t.fab.outst = s.fab.outst ++ [o] ∧ o.dst = e.owner ∧ o.cls = 6 ∧ o.purpose = .rev e.line e.mask e.owner)) ∧
    (∀ mask, s.homes.snoops.find? (·.1 == line) = some (line, mask) → (∀ r ∈ s.fab.rxq, r.held = false) → s.Does (.hostbi line none) fun t => t.mem = s.mem ∧
      t.homes.snoops = s.homes.snoops.filter (·.1 != line) ∧
      ∀ x ∈ t.homes.registry, x.owner = s.hostUnit → x.line = line → x.mask &&& mask = 0 ∧ x.rev = false) ∧
    (∀ k mask, (s.homes.snoops[k]? : Option (Nat × W32)) = some (line, mask) → s.Does (.snoopTimeout k) fun t => t.core = s.core ∧
      t.cores = s.cores ∧ (∀ x ∈ t.homes.snoops, x.1 ≠ line) ∧ ∀ x ∈ t.homes.registry, x.owner = s.hostUnit → x.line ≠ line) ∧
    (s.place (128 * line) = .memory →
      (s.Does (.patrolScrub (.line line) .clean) fun t => t = s) ∧
      (s.Does (.patrolScrub (.line line) .corrected) fun t => t.mem = s.mem ∧ t.homes = s.homes ∧
        s.Shows t (addrDie (128 * line)) ⟨1, 0, 0xFFFF, 0, 0, BitVec.ofNat 64 (128 * line), 0⟩) ∧
      (s.Does (.patrolScrub (.line line) .uncorrectable) fun t => line ∈ t.homes.poison ∧ (∀ x ∈ s.homes.poison, x ∈ t.homes.poison) ∧
        s.Shows t (addrDie (128 * line)) ⟨2, 0x0A, 0xFFFF, 0, 0, BitVec.ofNat 64 (128 * line), 0⟩)) ∧
    (∀ (c : CoreName) (n : Nat), n < 8 → s.Does (.patrolScrub (.cell c n) .uncorrectable) fun t => ((t.getCore c).mat.slot n).bad = true ∧
      ((t.getCore c).mat.slot n).panel = ((s.getCore c).mat.slot n).panel ∧ t.mem = s.mem ∧ t.fab = s.fab)

/-- R489 to R495, R14, R5: the Ultra Ethernet ports take the next entry, complete the oldest, and fill a posted buffer; a link trains at the
highest common major or is left out; a verified image is measured and started, and one that comes down the tree is stored; a new serial
number is recorded; a cold reset leaves the persistence store, the host's memory, and, where the supply was not lost, the memory of the
gateways, with their markers. -/
def Clauses.PortsAndBringUp : Prop :=
  ∀ s : State,
    (∀ p, s.uePort p = true → let taken := (s.mgmt.ue.filter (·.1 == p)).length
      let n := s.ringHead (s.sendRing p) + taken
      s.ringHas (s.sendRing p) taken = true → ueForm (s.ringEntry (s.sendRing p) n) = true →
      s.Does (.ueSend p) fun t => s.KeepsCores t ∧ t.mgmt.ue = s.mgmt.ue ++ [(p, n)]) ∧
    (∀ p n st, st ∈ [0x00#8, 0x15#8, 0x0F#8] → s.mgmt.ue.find? (·.1 == p) = some (p, n) → p < 8 → n + 1 < 2 ^ 64 → s.MemoryWf →
      s.Does (.ueSendCompletion p st) fun t => t.mgmt.ue = s.mgmt.ue.erase (p, n) ∧ t.core = s.core ∧ t.fab = s.fab ∧
        readNat t.mem (s.sendRing p) 8 = n + 1 ∧ readByte t.mem (ringSlot (s.sendRing p) n + 21) = st) ∧
    (∀ p peer (data : List Byte), s.uePort p = true → let n := s.ringHead (s.receiveRing p)
      let e := s.ringEntry (s.receiveRing p) n
      s.ringHas (s.receiveRing p) 0 = true → ueForm e = true → 1 ≤ data.length → data.length ≤ field e 16 4 →
      n + 1 < 2 ^ 64 → s.MemoryWf → s.Does (.ueReceive p peer data) fun t => t.fab = s.fab ∧
        readNat t.mem (s.receiveRing p) 8 = n + 1 ∧ readByte t.mem (ringSlot (s.receiveRing p) n + 21) = 0) ∧
    (∀ link ours theirs,
      (∀ v, commonMajor ours theirs = some v → s.Does (.linkTraining link ours theirs) fun t =>
        assocGet link t.fab.trained = some (some v) ∧ (link < 8 → link ∉ t.fab.dead) ∧ s.OnlyFabric t) ∧
      (commonMajor ours theirs = none → s.Does (.linkTraining link ours theirs) fun t =>
        assocGet link t.fab.trained = some none ∧ (link < 8 → link ∈ t.fab.dead) ∧ t.mem = s.mem ∧
        s.Shows t (planeDie link) ⟨9, 0, 0xFFFF, 0, 0, 0, BitVec.ofNat 32 link⟩)) ∧
    (s.Does .coldReset fun t => t.core = .reset 0 ∧ t.cores = [] ∧ t.fab = .reset ∧ t.work = .reset ∧ t.homes.registry = [] ∧
      t.homes.migrations = [] ∧ t.mem = (s.mem.filter fun c => persists s.mgmt.reserve.stop c.1) ∧
      (t.homes.poison = s.homes.poison.filter fun l => persists s.mgmt.reserve.stop (128 * l)) ∧ (∀ n : Nat, n < 32 → t.mapEntry n = (s.bootMap.1.toList[n]?).getD 0) ∧
      t.mgmt.reserve.sluices = s.mgmt.reserve.sluices) ∧
    (∀ n image, n < 2 → (s.sp n).started = false → s.Does (.firmwareVerify n image) fun t =>
      if Config.imageVerifies image = true then (t.sp n).started = true ∧
        (t.sp n).measure = Config.sha256 (toBytes 32 (s.sp n).measure.toNat ++ toBytes 32 (Config.sha256 image).toNat)
      else t = s) ∧
    (∀ serial plane, s.mgmt.domain.fused = false → plane < 8 → s.fab.dead.contains plane = false → s.found.contains serial = false →
      s.Does (.discoveryFlood serial plane) fun t => s.KeepsCores t ∧
        (serial ≠ Config.serial → t.mgmt.domain.serials = s.mgmt.domain.serials ++ [(serial, plane)] ∧
          t.mgmt.domain.packages = s.mgmt.domain.packages + (if s.serving then 1 else 0))) ∧
    (∀ image, s.mgmt.domain.fused = false → s.mgmt.domain.images.contains image = false → s.Does (.imageMulticast image) fun t =>
      s.KeepsCores t ∧ t.mgmt.domain.images = if Config.imageVerifies image = true then s.mgmt.domain.images ++ [image] else s.mgmt.domain.images)

/-! ## Groups of one shape -/

/-- R158: the immediate forms compute, and an immediate shift by the width or more traps ILL. -/
def Obligations.ImmediateForms : Prop := Clauses.IntegerImmediateForms ∧ Clauses.ImmediateShiftTooFar

/-- R157: the register forms compute F(g[a], g[b]) at width W, division at its corners among them. -/
def Obligations.RegisterForms : Prop := Clauses.IntegerRegisterForms ∧ Clauses.DivisionCorners

/-- R159 and R108: the address forms, and the 16-bit integer forms. -/
def Obligations.AddressAndShortForms : Prop := Clauses.AddressForms ∧ Clauses.ShortIntegerForms

/-- R161, R162, R163: where branches and jumps go. -/
def Obligations.BranchesAndJumps : Prop := Clauses.ConditionalBranches ∧ Clauses.Jumps

/-- R154: what `krd` and `kwr` do. -/
def Obligations.ControlRegisters : Prop := Clauses.ReadControl ∧ Clauses.WriteControl

/-- R165, R166, R168, R181: entry into the task's handler by `trap` and `ebrk`, and the return. -/
def Obligations.TrapsAndReturns : Prop := Clauses.SoftwareTraps ∧ Clauses.HandlerReturn

/-- R167, R169, R175, R146: `nop`, `wait` and `rend`. -/
def Obligations.WaitsAndJoins : Prop := Clauses.NopWaitRend ∧ Clauses.WaitAcquires

/-- R173, R115: `fork` and `fmt`. -/
def Obligations.StreamsAndPrefixes : Prop := Clauses.Fork ∧ Clauses.FormatPrefix

/-- R195, R197, R198: loads of bytes that the core holds, and of bytes elsewhere. -/
def Obligations.Loads : Prop := Clauses.LoadsHere ∧ Clauses.LoadsAway

/-- R195, R197, R198, R424, R108: stores here, elsewhere and into the gate of a hinge pair, and the 16-bit accesses. -/
def Obligations.Stores : Prop := Clauses.StoresHere ∧ Clauses.StoresAway ∧ Clauses.GatedStores ∧ Clauses.ShortAccesses

/-- R203, R204: atomics here and elsewhere, and the fences. -/
def Obligations.AtomicsAndFences : Prop := Clauses.AtomicsHere ∧ Clauses.AtomicsAway ∧ Clauses.Fences

/-- R206 to R213: stash pages, scratch pages, tiles and tensor maps. -/
def Obligations.LocalPages : Prop := Clauses.StashPages ∧ Clauses.ScratchPages ∧ Clauses.TilesAndMaps

/-- R230, R231: `spawn` and `spawnt`. -/
def Obligations.Spawning : Prop := Clauses.Spawn ∧ Clauses.SpawnAt

/-- R233 to R237: chambers, their values, and loop nests. -/
def Obligations.ChambersAndNests : Prop := Clauses.OpenAndClose ∧ Clauses.ChamberValues ∧ Clauses.LoopNests

/-- Vector registers beside general registers and memory. -/
def Obligations.VectorAndMemory : Prop := Clauses.VectorAndGeneral ∧ Clauses.VectorAccesses

/-- Compares of lanes, and reductions over them. -/
def Obligations.VectorComparesAndReductions : Prop := Clauses.VectorCompares ∧ Clauses.VectorReductions

/-- Floating point in lanes, and conversions. -/
def Obligations.VectorFloats : Prop := Clauses.VectorNumbers ∧ Clauses.VectorConversions

/-- R222, R231, R224, R225, R62: gangs, pushes, claims and restarts. -/
def Obligations.GangsAndPushes : Prop := Clauses.Gangs ∧ Clauses.Pushes

/-- The noise generator, and the matrix unit's power and completions. -/
def Obligations.NoiseAndPower : Prop := Clauses.Noise ∧ Clauses.PowerAndCompletion

/-- R460 to R462, R467, R473 to R479: diagnoses and the vote, and what follows the loss of a die, a gateway or a package. -/
def Obligations.DiagnosesAndLosses : Prop := Clauses.Diagnoses ∧ Clauses.Losses

/-- R484, R488 to R495: the host's accesses, the ports, and bring-up. -/
def Obligations.HostAndPorts : Prop := Clauses.HostAccesses ∧ Clauses.PortsAndBringUp

/-- R167, R232, R239: how a task ends or leaves: `halt`, `retire`, `yield`. -/
def Obligations.TaskEnds : Prop := Clauses.Halt ∧ Clauses.RetireAndYield

/-! ## Encoding -/

/-- Decoding what `encode` gives for a well-formed instruction gives it back, with nothing left over, whatever its operands (R98 to
R110). -/
def Obligations.DecodeEncode : Prop := ∀ (i : Instr) (l : List Byte), WellFormed i = true → decode (encode i ++ l) = .ok (i, l)

/-- A word that decodes is the one word of its instruction, which is well formed: no bit of an encoding is ignored (R99, R110). -/
def Obligations.EncodeDecode : Prop :=
  ∀ (bs l : List Byte) (i : Instr), decode bs = .ok (i, l) → WellFormed i = true ∧ bs = encode i ++ l

/-- R120, R108, R115, R113, R164 and the chapters' examples: words that the spec writes out decode to the instructions that it names. -/
def Obligations.DecodeWords : Prop :=
  decodeTableWord 32 0x00732503 = some (.add .w32 5 6 7) ∧ decodeTableWord 16 0x3942 = some (.add16 5 7) ∧
  decodeTableWord 16 0xF0BA = some (.bne16 5 0x3C) ∧ decodeTableWord 32 0x4062A013 = some (.blt 5 6 0x200) ∧
  decodeTableWord 32 0xFC70C01D = some (.wait 7 7 0 7) ∧ decodeTableWord 32 0x1334A821 = some (.fmt 1 3 3 9 10 0) ∧
  decodeTableWord 32 0x00034833 = some (.ldAcq 2 8 6 0) ∧ decodeTableWord 32 0x10750C3B = some (.stashMap 12 10 7) ∧
  decodeTableWord 32 0x00001099 = some (.mteamJoin 16 0) ∧ decodeTableWord 32 0 = none

/-! ## Reset and the step -/

/-- R150, R117: after cold reset every general register and index register of every core reads 0; g0 reads zero and takes no write, and
every other register is ordinary; `krd` of an index register gives it zero-extended, and `kwr` writes it from the low 32 bits. -/
def Obligations.GeneralRegisters : Prop :=
  (∀ c r, regGet (State.reset.getCore c).thr.g r = 0) ∧ (∀ c, ∀ x ∈ (State.reset.getCore c).ctl.idx.toList, x = 0) ∧
  ∀ s : State, s.core.HasSeq s.seq → s.g 0 = 0 ∧
    (∀ r x, (s.setG r x).g r = written r x ∧ s.OnlyReg (s.setG r x) r) ∧
    (∀ (i : Fin 4) (d : Reg), s.Accepts .shared → s.seq = .control → s.Free [d] →
      (s.Does (.krd d (0x40 + BitVec.ofNat 8 i.val)) fun t => s.Gives t d (s.core.ctl.idx[i].setWidth 64) (s.pc + 4)) ∧
      (s.Does (.kwr d (0x40 + BitVec.ofNat 8 i.val)) fun t => t.core.ctl.idx[i] = (s.g d).setWidth 32 ∧
        (∀ j : Fin 4, j ≠ i → t.core.ctl.idx[j] = s.core.ctl.idx[j]) ∧ (∀ r, t.g r = s.g r) ∧ t.pc = s.pc + 4 ∧ s.KeepsOutside t))

/-- The machine right after cold reset (R14, R129, R151, R153, R215, R485; the spec's values only): memory in canonical form with nothing
listed, every core idle at firmware privilege with interrupts off, no stream open and its counters 0, no request outstanding, no word
registered, no context, `kvec` 0, no launch under way. -/
def Obligations.ResetState : Prop :=
  State.reset.MemoryWf ∧ State.reset.mem = [] ∧ State.reset.fab.outst = [] ∧ State.reset.homes.registry = [] ∧
  State.reset.work.ctxs = [] ∧ State.reset.mgmt.win.busy = none ∧
  ∀ c, (State.reset.getCore c).ctl.run = .idle ∧ (State.reset.getCore c).thr.kstatus = 0x20 ∧ (State.reset.getCore c).thr.kvec = 0 ∧
    (State.reset.getCore c).ctl.oc = ⟨0, 0, 0, 0⟩ ∧ (State.reset.getCore c).ctl.k.kcnt = 0 ∧ (State.reset.getCore c).vs.opened = false ∧
    (State.reset.getCore c).ms.opened = false ∧ (State.reset.getCore c).mem.stash = [] ∧ (State.reset.getCore c).sched.deque = []

/-- Every step keeps memory in its canonical form: addresses strictly rising, no byte listed that equals what an unlisted one reads as
(the model's representation of the bytes of R33 to R38; log 7 says what an unlisted byte reads as). -/
def Obligations.StepKeepsMemory : Prop := ∀ s t : State, s.MemoryWf → step s = .next t → t.MemoryWf

/-- No instruction and no event stops the machine while the privilege is one that occurs (R151): each answers a next state. -/
def Obligations.NeverStops : Prop := ∀ (i : Instr) (s : State), s.pm ≠ 3 → ∃ t, exec i s = .next t

/-- R98, R24, R441: a step of a sequencer that moves, with nothing due, executes the instruction that the bytes at its pc decode to; an
odd pc traps ALIGN; bytes that are none trap; a turn of the agenda is taken first, and once the stop latch is set no event acts but a
cold reset. -/
def Obligations.StepRunsDecoded : Prop :=
  ∀ s : State,
    (∀ i rest, s.agenda = .event i :: rest →
      (s.actsOn i = true → step s = exec i { s with agenda := rest }) ∧
      (s.mgmt.reserve.stop = true → i ≠ .coldReset → step s = .next { s with agenda := rest })) ∧
    (∀ c q rest, s.agenda = .core c q :: rest → step s = issue ({ s with agenda := rest }.focus c q)) ∧
    (s.moves = true → s.boundary = none →
      (∀ bs i l, s.fetch = .ok bs → decode bs = .ok (i, l) → issue s = exec i s) ∧
      (∀ bs r, s.fetch = .ok bs → decode bs = .error r → issue s = s.rejected bs r) ∧
      (bit s.pc 0 = true → issue s = .next (s.takeTrap ⟨0x03, s.pc, 0, false, false⟩ false)) ∧
      (s.agenda = [] → s.seq = .control → s.core.msg.bank = none → s.atHome = false → bit s.pc 0 = false →
        ∀ pa, s.translate s.pc .fetch = .ok pa → s.poisoned pa 2 = false →
          (∀ i l, decode (s.currents pa 2) = .ok (i, l) → step s = exec i s) ∧
          (∀ pb i l, s.translate (s.pc + 2) .fetch = .ok pb → s.poisoned pb 2 = false →
            bit ((s.currents pa 2).headD 0) 0 = true → decode (s.currents pa 2 ++ s.currents pb 2) = .ok (i, l) → step s = exec i s)))
end

