-- ==== Sys2Proof/Laws/Memory.lean ====
section
/-! SUPPORT. The memory: what a read sees after a write, and that every memory operation keeps the canonical form. -/

namespace Sys2Proof.Machine

/-- Every listed address of the memory is above `n`. -/
def Memory.above (n : Nat) (m : List Host.Cell) : Prop := ∀ c ∈ m, n < c.1

theorem Memory.wf_cons (c : Host.Cell) (m : List Host.Cell) :
    Memory.wf (c :: m) = true ↔ c.2 ≠ 0 ∧ Memory.above c.1 m ∧ Memory.wf m = true := by
  induction m generalizing c with
  | nil => simp [Memory.wf, Memory.above]
  | cons d m ih =>
    have split : Memory.wf (c :: d :: m) = true ↔ c.2 ≠ 0 ∧ c.1 < d.1 ∧ Memory.wf (d :: m) = true := by
      simp [Memory.wf, and_assoc]
    rw [split]
    constructor
    · rintro ⟨h, hlt, hw⟩
      refine ⟨h, ?_, hw⟩
      intro e he
      rcases List.mem_cons.1 he with rfl | he
      · exact hlt
      · exact Nat.lt_trans hlt (((ih d).1 hw).2.1 e he)
    · rintro ⟨h, ha, hw⟩
      exact ⟨h, ha d (List.mem_cons_self ..), hw⟩

/-- A byte below every listed address reads as an unlisted one. -/
theorem readByte_above (m : List Host.Cell) (a : Nat) (h : Memory.above a m) : readByte m a = 0 := by
  cases m with
  | nil => rfl
  | cons c m =>
    have hc : a < c.1 := h c (List.mem_cons_self ..)
    simp [readByte, Nat.ne_of_gt hc, hc]

theorem writeByte_above (m : List Host.Cell) (n a : Nat) (b : Byte) (h : Memory.above n m) (hn : n < a) :
    Memory.above n (writeByte m a b) := by
  induction m with
  | nil =>
    intro c hc
    simp only [writeByte] at hc
    split at hc
    · simp at hc
    · simp at hc; subst hc; exact hn
  | cons d m ih =>
    have hd : n < d.1 := h d (List.mem_cons_self ..)
    have hm : Memory.above n m := fun c hc => h c (List.mem_cons_of_mem _ hc)
    intro c hc
    simp only [writeByte] at hc
    split at hc
    · split at hc
      · exact hm c hc
      · rcases List.mem_cons.1 hc with rfl | hc
        · exact hn
        · exact hm c hc
    · split at hc
      · split at hc
        · exact h c hc
        · rcases List.mem_cons.1 hc with rfl | hc
          · exact hn
          · exact h c hc
      · rcases List.mem_cons.1 hc with rfl | hc
        · exact hd
        · exact ih hm c hc

/-- Writing a byte keeps the canonical form. -/
theorem writeByte_wf (m : List Host.Cell) (a : Nat) (b : Byte) (h : Memory.wf m = true) :
    Memory.wf (writeByte m a b) = true := by
  induction m with
  | nil =>
    simp only [writeByte]
    split
    · rfl
    · simpa [Memory.wf] using ‹¬b = 0›
  | cons c m ih =>
    obtain ⟨hc, ha, hm⟩ := (Memory.wf_cons c m).1 h
    simp only [writeByte]
    split
    · rename_i heq
      split
      · exact hm
      · exact (Memory.wf_cons _ _).2 ⟨‹_›, heq ▸ ha, hm⟩
    · split
      · split
        · exact h
        · refine (Memory.wf_cons _ _).2 ⟨‹_›, ?_, h⟩
          intro d hd
          rcases List.mem_cons.1 hd with rfl | hd
          · assumption
          · exact Nat.lt_trans ‹_› (ha d hd)
      · exact (Memory.wf_cons _ _).2 ⟨hc, writeByte_above m _ _ _ ha (by omega), ih hm⟩

/-- Writing bytes keeps the canonical form. -/
theorem writeBytes_wf (m : List Host.Cell) (a : Nat) (bs : List Byte) (h : Memory.wf m = true) :
    Memory.wf (writeBytes m a bs) = true := by
  induction bs generalizing m a with
  | nil => exact h
  | cons b bs ih => exact ih _ _ (writeByte_wf _ _ _ h)

/-- Writing a number keeps the canonical form. -/
theorem writeNat_wf (m : List Host.Cell) (a n x : Nat) (h : Memory.wf m = true) :
    Memory.wf (writeNat m a n x) = true := writeBytes_wf _ _ _ h

/-- Removing cells keeps the canonical form. -/
theorem filter_wf (m : List Host.Cell) (f : Host.Cell → Bool) (h : Memory.wf m = true) :
    Memory.wf (m.filter f) = true := by
  induction m with
  | nil => rfl
  | cons c m ih =>
    obtain ⟨hc, ha, hm⟩ := (Memory.wf_cons c m).1 h
    by_cases hf : f c = true
    · rw [List.filter_cons_of_pos hf]
      exact (Memory.wf_cons _ _).2 ⟨hc, fun d hd => ha d (List.mem_filter.1 hd).1, ih hm⟩
    · rw [List.filter_cons_of_neg hf]
      exact ih hm

/-- Writing a list of cells one by one keeps the canonical form. -/
theorem foldl_writeByte_wf (l : List Host.Cell) (f : Nat → Nat) (m : List Host.Cell) (h : Memory.wf m = true) :
    Memory.wf (l.foldl (fun m c => writeByte m (f c.1) c.2) m) = true := by
  induction l generalizing m with
  | nil => exact h
  | cons c l ih => exact ih _ (writeByte_wf _ _ _ h)

/-- A byte read after a write of one byte: the byte written there, and every other byte as before. -/
theorem readByte_writeByte (m : List Host.Cell) (a a' : Nat) (b : Byte) (h : Memory.wf m = true) :
    readByte (writeByte m a b) a' = if a' = a then b else readByte m a' := by
  induction m with
  | nil =>
    simp only [writeByte]
    by_cases hb : b = 0
    · simp [readByte, hb]
    · rw [if_neg hb]
      by_cases h1 : a' = a
      · simp [readByte, h1]
      · simp [readByte, h1, Ne.symm h1]
  | cons c m ih =>
    obtain ⟨hc, ha, hm⟩ := (Memory.wf_cons c m).1 h
    simp only [writeByte]
    by_cases h1 : c.1 = a
    · simp only [h1, if_true]
      by_cases hb : b = 0
      · simp only [hb, if_true]
        by_cases h2 : a' = a
        · rw [h2, if_pos rfl, readByte_above m a (h1 ▸ ha)]
        · rw [if_neg h2]
          simp only [readByte, h1, Ne.symm h2, if_false]
          split
          · rw [readByte_above m a']
            intro d hd
            exact Nat.lt_trans ‹_› (h1 ▸ ha d hd)
          · rfl
      · simp only [hb, if_false, readByte, h1]
        by_cases h2 : a' = a
        · simp [h2]
        · simp [h2, Ne.symm h2]
    · simp only [h1, if_false]
      by_cases h3 : a < c.1
      · simp only [h3, if_true]
        by_cases hb : b = 0
        · simp only [hb, if_true]
          by_cases h2 : a' = a
          · rw [h2, if_pos rfl]
            simp [readByte, h1, h3]
          · rw [if_neg h2]
        · simp only [hb, if_false, readByte]
          by_cases h2 : a' = a
          · simp [h2]
          · simp only [h2, if_false, Ne.symm h2]
            by_cases h4 : a' < a
            · have h5 : c.1 ≠ a' := by omega
              have h6 : a' < c.1 := by omega
              simp [h4, h5, h6]
            · simp [h4]
      · simp only [h3, if_false, readByte, ih hm]
        by_cases h2 : a' = a
        · subst h2
          simp [h1, h3]
        · simp [h2]

/-- The memory after reset is in canonical form. -/
theorem reset_mem_wf : Memory.wf State.reset.mem = true := rfl

/-- A byte outside the bytes written reads as before. -/
theorem readByte_writeBytes_outside (m : List Host.Cell) (a a' : Nat) (bs : List Byte) (h : Memory.wf m = true)
    (out : a' < a ∨ a + bs.length ≤ a') : readByte (writeBytes m a bs) a' = readByte m a' := by
  induction bs generalizing m a with
  | nil => rfl
  | cons b bs ih =>
    have hlen : (b :: bs).length = bs.length + 1 := rfl
    rw [writeBytes, ih _ _ (writeByte_wf _ _ _ h) (by omega), readByte_writeByte _ _ _ _ h, if_neg (by omega)]

/-- A byte inside the bytes written reads as written. -/
theorem readByte_writeBytes_inside (m : List Host.Cell) (a i : Nat) (bs : List Byte) (h : Memory.wf m = true)
    (hi : i < bs.length) : readByte (writeBytes m a bs) (a + i) = bs[i] := by
  induction bs generalizing m a i with
  | nil => simp at hi
  | cons b bs ih =>
    cases i with
    | zero =>
      rw [writeBytes, readByte_writeBytes_outside _ _ _ _ (writeByte_wf _ _ _ h) (by omega), readByte_writeByte _ _ _ _ h]
      simp
    | succ i =>
      have := ih (writeByte m a b) (a + 1) i (writeByte_wf _ _ _ h) (by simpa using hi)
      simpa [writeBytes, Nat.add_assoc, Nat.add_comm 1 i] using this

end Sys2Proof.Machine
end

