-- ==== Sys2Proof/Laws/State.lean ====
section
/-! SUPPORT. Every field of the state and of a core after each update, so that no proof unfolds a record update. -/

namespace Sys2Proof.Machine

/-! ## The state -/

section
variable (s : State) (r : Reg) (x : Word)
@[simp] theorem State.setG_cur : (s.setG r x).cur = s.cur := rfl
@[simp] theorem State.setG_seq : (s.setG r x).seq = s.seq := rfl
@[simp] theorem State.setG_core : (s.setG r x).core = s.core.setReg s.seq r x := rfl
@[simp] theorem State.setG_cores : (s.setG r x).cores = s.cores := rfl
@[simp] theorem State.setG_agenda : (s.setG r x).agenda = s.agenda := rfl
@[simp] theorem State.setG_fresh : (s.setG r x).fresh = s.fresh := rfl
@[simp] theorem State.setG_mem : (s.setG r x).mem = s.mem := rfl
@[simp] theorem State.setG_fab : (s.setG r x).fab = s.fab := rfl
@[simp] theorem State.setG_homes : (s.setG r x).homes = s.homes := rfl
@[simp] theorem State.setG_work : (s.setG r x).work = s.work := rfl
@[simp] theorem State.setG_dies : (s.setG r x).dies = s.dies := rfl
@[simp] theorem State.setG_govs : (s.setG r x).govs = s.govs := rfl
@[simp] theorem State.setG_services : (s.setG r x).services = s.services := rfl
@[simp] theorem State.setG_basins : (s.setG r x).basins = s.basins := rfl
@[simp] theorem State.setG_stripes : (s.setG r x).stripes = s.stripes := rfl
@[simp] theorem State.setG_mgmt : (s.setG r x).mgmt = s.mgmt := rfl
end

section
variable (s : State) (x : Word)
@[simp] theorem State.setPc_cur : (s.setPc x).cur = s.cur := rfl
@[simp] theorem State.setPc_seq : (s.setPc x).seq = s.seq := rfl
@[simp] theorem State.setPc_core : (s.setPc x).core = s.core.setPc s.seq x := rfl
@[simp] theorem State.setPc_cores : (s.setPc x).cores = s.cores := rfl
@[simp] theorem State.setPc_agenda : (s.setPc x).agenda = s.agenda := rfl
@[simp] theorem State.setPc_fresh : (s.setPc x).fresh = s.fresh := rfl
@[simp] theorem State.setPc_mem : (s.setPc x).mem = s.mem := rfl
@[simp] theorem State.setPc_fab : (s.setPc x).fab = s.fab := rfl
@[simp] theorem State.setPc_homes : (s.setPc x).homes = s.homes := rfl
@[simp] theorem State.setPc_work : (s.setPc x).work = s.work := rfl
@[simp] theorem State.setPc_dies : (s.setPc x).dies = s.dies := rfl
@[simp] theorem State.setPc_govs : (s.setPc x).govs = s.govs := rfl
@[simp] theorem State.setPc_services : (s.setPc x).services = s.services := rfl
@[simp] theorem State.setPc_basins : (s.setPc x).basins = s.basins := rfl
@[simp] theorem State.setPc_stripes : (s.setPc x).stripes = s.stripes := rfl
@[simp] theorem State.setPc_mgmt : (s.setPc x).mgmt = s.mgmt := rfl
end

section
variable (s : State) (f : Thread → Thread)
@[simp] theorem State.modThr_cur : (s.modThr f).cur = s.cur := rfl
@[simp] theorem State.modThr_seq : (s.modThr f).seq = s.seq := rfl
@[simp] theorem State.modThr_core : (s.modThr f).core = s.core.modThread s.seq f := rfl
@[simp] theorem State.modThr_cores : (s.modThr f).cores = s.cores := rfl
@[simp] theorem State.modThr_agenda : (s.modThr f).agenda = s.agenda := rfl
@[simp] theorem State.modThr_fresh : (s.modThr f).fresh = s.fresh := rfl
@[simp] theorem State.modThr_mem : (s.modThr f).mem = s.mem := rfl
@[simp] theorem State.modThr_fab : (s.modThr f).fab = s.fab := rfl
@[simp] theorem State.modThr_homes : (s.modThr f).homes = s.homes := rfl
@[simp] theorem State.modThr_work : (s.modThr f).work = s.work := rfl
@[simp] theorem State.modThr_dies : (s.modThr f).dies = s.dies := rfl
@[simp] theorem State.modThr_govs : (s.modThr f).govs = s.govs := rfl
@[simp] theorem State.modThr_services : (s.modThr f).services = s.services := rfl
@[simp] theorem State.modThr_basins : (s.modThr f).basins = s.basins := rfl
@[simp] theorem State.modThr_stripes : (s.modThr f).stripes = s.stripes := rfl
@[simp] theorem State.modThr_mgmt : (s.modThr f).mgmt = s.mgmt := rfl
end

section
variable (s : State) (f : Control → Control)
@[simp] theorem State.modCtl_cur : (s.modCtl f).cur = s.cur := rfl
@[simp] theorem State.modCtl_seq : (s.modCtl f).seq = s.seq := rfl
@[simp] theorem State.modCtl_core : (s.modCtl f).core = s.core.modCtl f := rfl
@[simp] theorem State.modCtl_cores : (s.modCtl f).cores = s.cores := rfl
@[simp] theorem State.modCtl_agenda : (s.modCtl f).agenda = s.agenda := rfl
@[simp] theorem State.modCtl_fresh : (s.modCtl f).fresh = s.fresh := rfl
@[simp] theorem State.modCtl_mem : (s.modCtl f).mem = s.mem := rfl
@[simp] theorem State.modCtl_fab : (s.modCtl f).fab = s.fab := rfl
@[simp] theorem State.modCtl_homes : (s.modCtl f).homes = s.homes := rfl
@[simp] theorem State.modCtl_work : (s.modCtl f).work = s.work := rfl
@[simp] theorem State.modCtl_dies : (s.modCtl f).dies = s.dies := rfl
@[simp] theorem State.modCtl_govs : (s.modCtl f).govs = s.govs := rfl
@[simp] theorem State.modCtl_services : (s.modCtl f).services = s.services := rfl
@[simp] theorem State.modCtl_basins : (s.modCtl f).basins = s.basins := rfl
@[simp] theorem State.modCtl_stripes : (s.modCtl f).stripes = s.stripes := rfl
@[simp] theorem State.modCtl_mgmt : (s.modCtl f).mgmt = s.mgmt := rfl
end

section
variable (s : State) (f : Mem → Mem)
@[simp] theorem State.modMem_cur : (s.modMem f).cur = s.cur := rfl
@[simp] theorem State.modMem_seq : (s.modMem f).seq = s.seq := rfl
@[simp] theorem State.modMem_core : (s.modMem f).core = s.core.modMem f := rfl
@[simp] theorem State.modMem_cores : (s.modMem f).cores = s.cores := rfl
@[simp] theorem State.modMem_agenda : (s.modMem f).agenda = s.agenda := rfl
@[simp] theorem State.modMem_fresh : (s.modMem f).fresh = s.fresh := rfl
@[simp] theorem State.modMem_mem : (s.modMem f).mem = s.mem := rfl
@[simp] theorem State.modMem_fab : (s.modMem f).fab = s.fab := rfl
@[simp] theorem State.modMem_homes : (s.modMem f).homes = s.homes := rfl
@[simp] theorem State.modMem_work : (s.modMem f).work = s.work := rfl
@[simp] theorem State.modMem_dies : (s.modMem f).dies = s.dies := rfl
@[simp] theorem State.modMem_govs : (s.modMem f).govs = s.govs := rfl
@[simp] theorem State.modMem_services : (s.modMem f).services = s.services := rfl
@[simp] theorem State.modMem_basins : (s.modMem f).basins = s.basins := rfl
@[simp] theorem State.modMem_stripes : (s.modMem f).stripes = s.stripes := rfl
@[simp] theorem State.modMem_mgmt : (s.modMem f).mgmt = s.mgmt := rfl
end

section
variable (s : State) (f : Fabric → Fabric)
@[simp] theorem State.modFab_cur : (s.modFab f).cur = s.cur := rfl
@[simp] theorem State.modFab_seq : (s.modFab f).seq = s.seq := rfl
@[simp] theorem State.modFab_core : (s.modFab f).core = s.core := rfl
@[simp] theorem State.modFab_cores : (s.modFab f).cores = s.cores := rfl
@[simp] theorem State.modFab_agenda : (s.modFab f).agenda = s.agenda := rfl
@[simp] theorem State.modFab_fresh : (s.modFab f).fresh = s.fresh := rfl
@[simp] theorem State.modFab_mem : (s.modFab f).mem = s.mem := rfl
@[simp] theorem State.modFab_fab : (s.modFab f).fab = f s.fab := rfl
@[simp] theorem State.modFab_homes : (s.modFab f).homes = s.homes := rfl
@[simp] theorem State.modFab_work : (s.modFab f).work = s.work := rfl
@[simp] theorem State.modFab_dies : (s.modFab f).dies = s.dies := rfl
@[simp] theorem State.modFab_govs : (s.modFab f).govs = s.govs := rfl
@[simp] theorem State.modFab_services : (s.modFab f).services = s.services := rfl
@[simp] theorem State.modFab_basins : (s.modFab f).basins = s.basins := rfl
@[simp] theorem State.modFab_stripes : (s.modFab f).stripes = s.stripes := rfl
@[simp] theorem State.modFab_mgmt : (s.modFab f).mgmt = s.mgmt := rfl
end

section
variable (s : State) (f : Work → Work)
@[simp] theorem State.modWork_cur : (s.modWork f).cur = s.cur := rfl
@[simp] theorem State.modWork_seq : (s.modWork f).seq = s.seq := rfl
@[simp] theorem State.modWork_core : (s.modWork f).core = s.core := rfl
@[simp] theorem State.modWork_cores : (s.modWork f).cores = s.cores := rfl
@[simp] theorem State.modWork_agenda : (s.modWork f).agenda = s.agenda := rfl
@[simp] theorem State.modWork_fresh : (s.modWork f).fresh = s.fresh := rfl
@[simp] theorem State.modWork_mem : (s.modWork f).mem = s.mem := rfl
@[simp] theorem State.modWork_fab : (s.modWork f).fab = s.fab := rfl
@[simp] theorem State.modWork_homes : (s.modWork f).homes = s.homes := rfl
@[simp] theorem State.modWork_work : (s.modWork f).work = f s.work := rfl
@[simp] theorem State.modWork_dies : (s.modWork f).dies = s.dies := rfl
@[simp] theorem State.modWork_govs : (s.modWork f).govs = s.govs := rfl
@[simp] theorem State.modWork_services : (s.modWork f).services = s.services := rfl
@[simp] theorem State.modWork_basins : (s.modWork f).basins = s.basins := rfl
@[simp] theorem State.modWork_stripes : (s.modWork f).stripes = s.stripes := rfl
@[simp] theorem State.modWork_mgmt : (s.modWork f).mgmt = s.mgmt := rfl
end

section
variable (s : State) (f : Homes → Homes)
@[simp] theorem State.modHomes_cur : (s.modHomes f).cur = s.cur := rfl
@[simp] theorem State.modHomes_seq : (s.modHomes f).seq = s.seq := rfl
@[simp] theorem State.modHomes_core : (s.modHomes f).core = s.core := rfl
@[simp] theorem State.modHomes_cores : (s.modHomes f).cores = s.cores := rfl
@[simp] theorem State.modHomes_agenda : (s.modHomes f).agenda = s.agenda := rfl
@[simp] theorem State.modHomes_fresh : (s.modHomes f).fresh = s.fresh := rfl
@[simp] theorem State.modHomes_mem : (s.modHomes f).mem = s.mem := rfl
@[simp] theorem State.modHomes_fab : (s.modHomes f).fab = s.fab := rfl
@[simp] theorem State.modHomes_homes : (s.modHomes f).homes = f s.homes := rfl
@[simp] theorem State.modHomes_work : (s.modHomes f).work = s.work := rfl
@[simp] theorem State.modHomes_dies : (s.modHomes f).dies = s.dies := rfl
@[simp] theorem State.modHomes_govs : (s.modHomes f).govs = s.govs := rfl
@[simp] theorem State.modHomes_services : (s.modHomes f).services = s.services := rfl
@[simp] theorem State.modHomes_basins : (s.modHomes f).basins = s.basins := rfl
@[simp] theorem State.modHomes_stripes : (s.modHomes f).stripes = s.stripes := rfl
@[simp] theorem State.modHomes_mgmt : (s.modHomes f).mgmt = s.mgmt := rfl
end

section
variable (s : State) (f : Service → Service)
@[simp] theorem State.modServices_cur : (s.modServices f).cur = s.cur := rfl
@[simp] theorem State.modServices_seq : (s.modServices f).seq = s.seq := rfl
@[simp] theorem State.modServices_core : (s.modServices f).core = s.core := rfl
@[simp] theorem State.modServices_cores : (s.modServices f).cores = s.cores := rfl
@[simp] theorem State.modServices_agenda : (s.modServices f).agenda = s.agenda := rfl
@[simp] theorem State.modServices_fresh : (s.modServices f).fresh = s.fresh := rfl
@[simp] theorem State.modServices_mem : (s.modServices f).mem = s.mem := rfl
@[simp] theorem State.modServices_fab : (s.modServices f).fab = s.fab := rfl
@[simp] theorem State.modServices_homes : (s.modServices f).homes = s.homes := rfl
@[simp] theorem State.modServices_work : (s.modServices f).work = s.work := rfl
@[simp] theorem State.modServices_dies : (s.modServices f).dies = s.dies := rfl
@[simp] theorem State.modServices_govs : (s.modServices f).govs = s.govs := rfl
@[simp] theorem State.modServices_services : (s.modServices f).services = s.services.map f := rfl
@[simp] theorem State.modServices_basins : (s.modServices f).basins = s.basins := rfl
@[simp] theorem State.modServices_stripes : (s.modServices f).stripes = s.stripes := rfl
@[simp] theorem State.modServices_mgmt : (s.modServices f).mgmt = s.mgmt := rfl
end

section
variable (s : State) (f : Governor → Governor)
@[simp] theorem State.modGovs_cur : (s.modGovs f).cur = s.cur := rfl
@[simp] theorem State.modGovs_seq : (s.modGovs f).seq = s.seq := rfl
@[simp] theorem State.modGovs_core : (s.modGovs f).core = s.core := rfl
@[simp] theorem State.modGovs_cores : (s.modGovs f).cores = s.cores := rfl
@[simp] theorem State.modGovs_agenda : (s.modGovs f).agenda = s.agenda := rfl
@[simp] theorem State.modGovs_fresh : (s.modGovs f).fresh = s.fresh := rfl
@[simp] theorem State.modGovs_mem : (s.modGovs f).mem = s.mem := rfl
@[simp] theorem State.modGovs_fab : (s.modGovs f).fab = s.fab := rfl
@[simp] theorem State.modGovs_homes : (s.modGovs f).homes = s.homes := rfl
@[simp] theorem State.modGovs_work : (s.modGovs f).work = s.work := rfl
@[simp] theorem State.modGovs_dies : (s.modGovs f).dies = s.dies := rfl
@[simp] theorem State.modGovs_govs : (s.modGovs f).govs = s.govs.map f := rfl
@[simp] theorem State.modGovs_services : (s.modGovs f).services = s.services := rfl
@[simp] theorem State.modGovs_basins : (s.modGovs f).basins = s.basins := rfl
@[simp] theorem State.modGovs_stripes : (s.modGovs f).stripes = s.stripes := rfl
@[simp] theorem State.modGovs_mgmt : (s.modGovs f).mgmt = s.mgmt := rfl
end

section
variable (s : State) (f : Management → Management)
@[simp] theorem State.modMgmt_cur : (s.modMgmt f).cur = s.cur := rfl
@[simp] theorem State.modMgmt_seq : (s.modMgmt f).seq = s.seq := rfl
@[simp] theorem State.modMgmt_core : (s.modMgmt f).core = s.core := rfl
@[simp] theorem State.modMgmt_cores : (s.modMgmt f).cores = s.cores := rfl
@[simp] theorem State.modMgmt_agenda : (s.modMgmt f).agenda = s.agenda := rfl
@[simp] theorem State.modMgmt_fresh : (s.modMgmt f).fresh = s.fresh := rfl
@[simp] theorem State.modMgmt_mem : (s.modMgmt f).mem = s.mem := rfl
@[simp] theorem State.modMgmt_fab : (s.modMgmt f).fab = s.fab := rfl
@[simp] theorem State.modMgmt_homes : (s.modMgmt f).homes = s.homes := rfl
@[simp] theorem State.modMgmt_work : (s.modMgmt f).work = s.work := rfl
@[simp] theorem State.modMgmt_dies : (s.modMgmt f).dies = s.dies := rfl
@[simp] theorem State.modMgmt_govs : (s.modMgmt f).govs = s.govs := rfl
@[simp] theorem State.modMgmt_services : (s.modMgmt f).services = s.services := rfl
@[simp] theorem State.modMgmt_basins : (s.modMgmt f).basins = s.basins := rfl
@[simp] theorem State.modMgmt_stripes : (s.modMgmt f).stripes = s.stripes := rfl
@[simp] theorem State.modMgmt_mgmt : (s.modMgmt f).mgmt = f s.mgmt := rfl
end

/-! ## A core -/

section
variable (k : Core) (f : Control → Control)
@[simp] theorem Core.modCtl_thr : (k.modCtl f).thr = k.thr := rfl
@[simp] theorem Core.modCtl_ctl : (k.modCtl f).ctl = f k.ctl := rfl
@[simp] theorem Core.modCtl_vs : (k.modCtl f).vs = k.vs := rfl
@[simp] theorem Core.modCtl_ms : (k.modCtl f).ms = k.ms := rfl
@[simp] theorem Core.modCtl_vec : (k.modCtl f).vec = k.vec := rfl
@[simp] theorem Core.modCtl_mat : (k.modCtl f).mat = k.mat := rfl
@[simp] theorem Core.modCtl_mem : (k.modCtl f).mem = k.mem := rfl
@[simp] theorem Core.modCtl_sched : (k.modCtl f).sched = k.sched := rfl
@[simp] theorem Core.modCtl_msg : (k.modCtl f).msg = k.msg := rfl
@[simp] theorem Core.modCtl_pair : (k.modCtl f).pair = k.pair := rfl
end

section
variable (k : Core) (f : Mem → Mem)
@[simp] theorem Core.modMem_thr : (k.modMem f).thr = k.thr := rfl
@[simp] theorem Core.modMem_ctl : (k.modMem f).ctl = k.ctl := rfl
@[simp] theorem Core.modMem_vs : (k.modMem f).vs = k.vs := rfl
@[simp] theorem Core.modMem_ms : (k.modMem f).ms = k.ms := rfl
@[simp] theorem Core.modMem_vec : (k.modMem f).vec = k.vec := rfl
@[simp] theorem Core.modMem_mat : (k.modMem f).mat = k.mat := rfl
@[simp] theorem Core.modMem_mem : (k.modMem f).mem = f k.mem := rfl
@[simp] theorem Core.modMem_sched : (k.modMem f).sched = k.sched := rfl
@[simp] theorem Core.modMem_msg : (k.modMem f).msg = k.msg := rfl
@[simp] theorem Core.modMem_pair : (k.modMem f).pair = k.pair := rfl
end

section
variable (k : Core) (f : Sched → Sched)
@[simp] theorem Core.modSched_thr : (k.modSched f).thr = k.thr := rfl
@[simp] theorem Core.modSched_ctl : (k.modSched f).ctl = k.ctl := rfl
@[simp] theorem Core.modSched_vs : (k.modSched f).vs = k.vs := rfl
@[simp] theorem Core.modSched_ms : (k.modSched f).ms = k.ms := rfl
@[simp] theorem Core.modSched_vec : (k.modSched f).vec = k.vec := rfl
@[simp] theorem Core.modSched_mat : (k.modSched f).mat = k.mat := rfl
@[simp] theorem Core.modSched_mem : (k.modSched f).mem = k.mem := rfl
@[simp] theorem Core.modSched_sched : (k.modSched f).sched = f k.sched := rfl
@[simp] theorem Core.modSched_msg : (k.modSched f).msg = k.msg := rfl
@[simp] theorem Core.modSched_pair : (k.modSched f).pair = k.pair := rfl
end

section
variable (k : Core) (f : Msg → Msg)
@[simp] theorem Core.modMsg_thr : (k.modMsg f).thr = k.thr := rfl
@[simp] theorem Core.modMsg_ctl : (k.modMsg f).ctl = k.ctl := rfl
@[simp] theorem Core.modMsg_vs : (k.modMsg f).vs = k.vs := rfl
@[simp] theorem Core.modMsg_ms : (k.modMsg f).ms = k.ms := rfl
@[simp] theorem Core.modMsg_vec : (k.modMsg f).vec = k.vec := rfl
@[simp] theorem Core.modMsg_mat : (k.modMsg f).mat = k.mat := rfl
@[simp] theorem Core.modMsg_mem : (k.modMsg f).mem = k.mem := rfl
@[simp] theorem Core.modMsg_sched : (k.modMsg f).sched = k.sched := rfl
@[simp] theorem Core.modMsg_msg : (k.modMsg f).msg = f k.msg := rfl
@[simp] theorem Core.modMsg_pair : (k.modMsg f).pair = k.pair := rfl
end

section
variable (k : Core) (q : Seq) (f : Thread → Thread)
@[simp] theorem Core.modThread_ctl : (k.modThread q f).ctl = k.ctl := by cases q <;> rfl
@[simp] theorem Core.modThread_vs : (k.modThread q f).vs = k.vs := by cases q <;> rfl
@[simp] theorem Core.modThread_ms : (k.modThread q f).ms = k.ms := by cases q <;> rfl
@[simp] theorem Core.modThread_vec : (k.modThread q f).vec = k.vec := by cases q <;> rfl
@[simp] theorem Core.modThread_mat : (k.modThread q f).mat = k.mat := by cases q <;> rfl
@[simp] theorem Core.modThread_mem : (k.modThread q f).mem = k.mem := by cases q <;> rfl
@[simp] theorem Core.modThread_sched : (k.modThread q f).sched = k.sched := by cases q <;> rfl
@[simp] theorem Core.modThread_pair : (k.modThread q f).pair = k.pair := by cases q <;> rfl
end

section
variable (k : Core) (q : Seq) (r : Reg) (x : Word)
@[simp] theorem Core.setReg_ctl : (k.setReg q r x).ctl = k.ctl := by cases q <;> rfl
@[simp] theorem Core.setReg_vec : (k.setReg q r x).vec = k.vec := by cases q <;> rfl
@[simp] theorem Core.setReg_mat : (k.setReg q r x).mat = k.mat := by cases q <;> rfl
@[simp] theorem Core.setReg_mem : (k.setReg q r x).mem = k.mem := by cases q <;> rfl
@[simp] theorem Core.setReg_sched : (k.setReg q r x).sched = k.sched := by cases q <;> rfl
@[simp] theorem Core.setReg_pair : (k.setReg q r x).pair = k.pair := by cases q <;> rfl
end

section
variable (k : Core) (q : Seq) (x : Word)
@[simp] theorem Core.setPc_ctl : (k.setPc q x).ctl = k.ctl := by cases q <;> rfl
@[simp] theorem Core.setPc_vec : (k.setPc q x).vec = k.vec := by cases q <;> rfl
@[simp] theorem Core.setPc_mat : (k.setPc q x).mat = k.mat := by cases q <;> rfl
@[simp] theorem Core.setPc_mem : (k.setPc q x).mem = k.mem := by cases q <;> rfl
@[simp] theorem Core.setPc_sched : (k.setPc q x).sched = k.sched := by cases q <;> rfl
@[simp] theorem Core.setPc_pair : (k.setPc q x).pair = k.pair := by cases q <;> rfl
end

section
variable (k : Core) (q : Seq) (b : Bool)
@[simp] theorem Core.setPp_ctl : (k.setPp q b).ctl = k.ctl := by cases q <;> rfl
@[simp] theorem Core.setPp_vec : (k.setPp q b).vec = k.vec := by cases q <;> rfl
@[simp] theorem Core.setPp_mat : (k.setPp q b).mat = k.mat := by cases q <;> rfl
@[simp] theorem Core.setPp_mem : (k.setPp q b).mem = k.mem := by cases q <;> rfl
@[simp] theorem Core.setPp_sched : (k.setPp q b).sched = k.sched := by cases q <;> rfl
@[simp] theorem Core.setPp_pair : (k.setPp q b).pair = k.pair := by cases q <;> rfl
end

/-! ## Registers and program counters -/

@[simp] theorem regGet_zero (v : Vector Word 32) : regGet v 0 = 0 := by simp [regGet]

/-- A register file after a write: g0 takes none (R117). -/
theorem regGet_regSet (v : Vector Word 32) (d r : Reg) (x : Word) :
    regGet (regSet v d x) r = if r = d ∧ d ≠ 0 then x else regGet v r := by
  unfold regGet regSet
  by_cases hd : d = 0
  · have hn : ¬(r = d ∧ d ≠ 0) := fun h => h.2 hd
    rw [if_pos hd, if_neg hn]
  · rw [if_neg hd]
    by_cases hr : r = 0
    · have hn : ¬(r = d ∧ d ≠ 0) := fun h => hd (h.1 ▸ hr)
      rw [if_pos hr, if_neg hn, if_pos hr]
    · rw [if_neg hr, if_neg hr]
      by_cases h : r = d
      · subst h
        rw [if_pos ⟨rfl, hd⟩]
        exact Vector.getElem_set_self ..
      · have hn : ¬(r = d ∧ d ≠ 0) := fun e => h e.1
        rw [if_neg hn]
        exact Vector.getElem_set_ne _ _ fun e => h (BitVec.eq_of_toNat_eq e.symm)

theorem Core.regs_setReg (k : Core) (q : Seq) (r : Reg) (x : Word) : (k.setReg q r x).regs q = regSet (k.regs q) r x := by
  cases q <;> rfl

theorem Core.regs_setPc (k : Core) (q : Seq) (x : Word) : (k.setPc q x).regs q = k.regs q := by cases q <;> rfl

theorem Core.pc_setPc (k : Core) (q : Seq) (x : Word) : (k.setPc q x).pc q = x := by cases q <;> rfl

theorem Core.pc_setReg (k : Core) (q : Seq) (r : Reg) (x : Word) : (k.setReg q r x).pc q = k.pc q := by cases q <;> rfl

@[simp] theorem Msg.modBank_busy (m : Msg) (f : Bank → Bank) : (m.modBank f).busy = m.busy := rfl
@[simp] theorem Msg.modBank_regs (m : Msg) (f : Bank → Bank) : (m.modBank f).regs = f m.regs := rfl
@[simp] theorem Msg.modBank_isSome (m : Msg) (f : Bank → Bank) : (m.modBank f).bank.isSome = m.bank.isSome := by
  unfold Msg.bank; rw [Msg.modBank_busy]; split <;> rfl

theorem Core.hasSeq_setReg (k : Core) (q : Seq) (r : Reg) (x : Word) (h : k.HasSeq q) : (k.setReg q r x).HasSeq q := by
  intro hq
  subst hq
  exact (Msg.modBank_isSome ..).trans (h rfl)

/-- The acting sequencer's registers after a write of one. -/
theorem State.g_setG (s : State) (d r : Reg) (x : Word) :
    (s.setG d x).g r = if r = d ∧ d ≠ 0 then x else s.g r := by
  show regGet ((s.core.setReg s.seq d x).regs s.seq) r = _
  rw [Core.regs_setReg, regGet_regSet]
  rfl

@[simp] theorem State.g_zero (s : State) : s.g 0 = 0 := regGet_zero (s.core.regs s.seq)

@[simp] theorem State.g_setPc (s : State) (r : Reg) (x : Word) : (s.setPc x).g r = s.g r := by
  show regGet ((s.core.setPc s.seq x).regs s.seq) r = _
  rw [Core.regs_setPc]
  rfl

@[simp] theorem State.pc_setG (s : State) (r : Reg) (x : Word) : (s.setG r x).pc = s.pc :=
  Core.pc_setReg ..

theorem State.pc_setPc (s : State) (x : Word) : (s.setPc x).pc = x :=
  Core.pc_setPc ..

/-! ## What the acting sequencer sees after a change elsewhere in its core -/

section
variable (s : State) (f : Control → Control)
@[simp] theorem State.thr_modCtl : (s.modCtl f).thr = s.thr := rfl
@[simp] theorem State.pc_modCtl : (s.modCtl f).pc = s.pc := rfl
@[simp] theorem State.g_modCtl (r : Reg) : (s.modCtl f).g r = s.g r := rfl
@[simp] theorem State.pm_modCtl : (s.modCtl f).pm = s.pm := rfl
@[simp] theorem State.tt_modCtl : (s.modCtl f).tt = s.tt := rfl
end

section
variable (s : State) (f : Mem → Mem)
@[simp] theorem State.thr_modMem : (s.modMem f).thr = s.thr := rfl
@[simp] theorem State.pc_modMem : (s.modMem f).pc = s.pc := rfl
@[simp] theorem State.g_modMem (r : Reg) : (s.modMem f).g r = s.g r := rfl
@[simp] theorem State.pm_modMem : (s.modMem f).pm = s.pm := rfl
@[simp] theorem State.tt_modMem : (s.modMem f).tt = s.tt := rfl
end

/-! ## Cores by name -/

@[simp] theorem State.getCore_cur (s : State) : s.getCore s.cur = s.core := by simp [State.getCore]

theorem assocGet_assocSet {κ α : Type} [DecidableEq κ] (k k' : κ) (v : α) (l : List (κ × α)) :
    assocGet k' (assocSet k v l) = if k' = k then some v else assocGet k' l := by
  induction l with
  | nil => simp [assocSet, assocGet, eq_comm]
  | cons e l ih =>
    by_cases h1 : e.1 = k
    · by_cases h2 : k' = k
      · simp [assocSet, assocGet, h1, h2]
      · simp [assocSet, assocGet, h1, h2, Ne.symm h2]
    · by_cases h2 : e.1 = k'
      · have h3 : k' ≠ k := fun h => h1 (h2.trans h)
        simp [assocSet, assocGet, h2, h3]
      · simp [assocSet, assocGet, h1, h2, ih]

/-- A core after another, or the same, is changed. -/
theorem State.getCore_modCore (s : State) (c d : CoreName) (f : Core → Core) :
    (s.modCore c f).getCore d = if d = c then f (s.getCore c) else s.getCore d := by
  unfold State.modCore State.setCore State.getCore
  by_cases hc : c = s.cur
  · subst hc
    by_cases hd : d = s.cur <;> simp [hd]
  · by_cases hd : d = s.cur
    · simp [hc, hd, Ne.symm hc]
    · by_cases h : d = c
      · subst h
        simp [hc, assocGet_assocSet]
      · simp [hc, hd, h, assocGet_assocSet]

@[simp] theorem State.modCore_cur (s : State) (c : CoreName) (f : Core → Core) : (s.modCore c f).cur = s.cur := by
  unfold State.modCore State.setCore; split <;> rfl

@[simp] theorem State.modCore_seq (s : State) (c : CoreName) (f : Core → Core) : (s.modCore c f).seq = s.seq := by
  unfold State.modCore State.setCore; split <;> rfl

@[simp] theorem State.modCore_agenda (s : State) (c : CoreName) (f : Core → Core) : (s.modCore c f).agenda = s.agenda := by
  unfold State.modCore State.setCore; split <;> rfl

@[simp] theorem State.modCore_fresh (s : State) (c : CoreName) (f : Core → Core) : (s.modCore c f).fresh = s.fresh := by
  unfold State.modCore State.setCore; split <;> rfl

@[simp] theorem State.modCore_mem (s : State) (c : CoreName) (f : Core → Core) : (s.modCore c f).mem = s.mem := by
  unfold State.modCore State.setCore; split <;> rfl

@[simp] theorem State.modCore_fab (s : State) (c : CoreName) (f : Core → Core) : (s.modCore c f).fab = s.fab := by
  unfold State.modCore State.setCore; split <;> rfl

@[simp] theorem State.modCore_homes (s : State) (c : CoreName) (f : Core → Core) : (s.modCore c f).homes = s.homes := by
  unfold State.modCore State.setCore; split <;> rfl

@[simp] theorem State.modCore_work (s : State) (c : CoreName) (f : Core → Core) : (s.modCore c f).work = s.work := by
  unfold State.modCore State.setCore; split <;> rfl

@[simp] theorem State.modCore_dies (s : State) (c : CoreName) (f : Core → Core) : (s.modCore c f).dies = s.dies := by
  unfold State.modCore State.setCore; split <;> rfl

@[simp] theorem State.modCore_govs (s : State) (c : CoreName) (f : Core → Core) : (s.modCore c f).govs = s.govs := by
  unfold State.modCore State.setCore; split <;> rfl

@[simp] theorem State.modCore_services (s : State) (c : CoreName) (f : Core → Core) : (s.modCore c f).services = s.services := by
  unfold State.modCore State.setCore; split <;> rfl

@[simp] theorem State.modCore_basins (s : State) (c : CoreName) (f : Core → Core) : (s.modCore c f).basins = s.basins := by
  unfold State.modCore State.setCore; split <;> rfl

@[simp] theorem State.modCore_stripes (s : State) (c : CoreName) (f : Core → Core) : (s.modCore c f).stripes = s.stripes := by
  unfold State.modCore State.setCore; split <;> rfl

@[simp] theorem State.modCore_mgmt (s : State) (c : CoreName) (f : Core → Core) : (s.modCore c f).mgmt = s.mgmt := by
  unfold State.modCore State.setCore; split <;> rfl

end Sys2Proof.Machine
end

