-- ==== Sys2Proof/Laws/Ops.lean ====
section
/-! SUPPORT. What the shared operations do: running an instruction, retiring it, taking an exception and returning from one. -/

namespace Sys2Proof.Machine

/-! ## Running an instruction -/

/-- A form that is accepted passes every check made before its effect. -/
theorem admit_accepts (s : State) (f : Form) (h : s.Accepts f) : s.acceptsForm f = .ok () := by
  obtain ⟨_, _, hp, hg, hq, hpair⟩ := h
  have h1 : ¬(s.core.pp s.seq = true ∧ f.pfx = false) := fun e => by simp [hp e.1] at e
  unfold State.acceptsForm
  rw [if_neg h1]
  simp only [hg]
  cases hs : s.seq with
  | control =>
    rw [hs] at hq hpair
    have h2 : ((!s.core.vs.opened || f.withVector) && (!s.core.ms.opened || f.withMatrix)) = true := by
      have hv := hq.1
      have hm := hq.2
      cases hvo : s.core.vs.opened <;> cases hmo : s.core.ms.opened <;> simp_all
    simp only [h2]
    cases hpr : s.core.pair with
    | none => rfl
    | some p =>
      obtain ⟨ha, hb, hc, hd⟩ := hpair rfl p hpr
      have h3 : ¬(f.exchange = true ∧ p.forces s.pc = false) := fun h => by simp [hd h.1] at h
      have h4 : ¬(p.draining = true ∨ p.count ≥ 4096) := by
        rintro (h | h)
        · simp [hb] at h
        · omega
      simp [ha, h3, h4, check, bind, Except.bind, pure, Except.pure]
  | vector => rw [hs] at hq; simp [show f.inVector = true from hq, check, bind, Except.bind, pure, Except.pure]
  | matrix => rw [hs] at hq; simp [show f.inMatrix = true from hq, check, bind, Except.bind, pure, Except.pure]
  | routine => rw [hs] at hq; simp [show f.inRoutine = true from hq, check, bind, Except.bind, pure, Except.pure]

/-- An accepted instruction whose effect is `t` answers `t`, with the group noted. -/
theorem run_ok (s t : State) (f : Form) (body : Try State) (h : s.Accepts f) (hb : body = .ok t) :
    run f s body = .next (t.useGroup f) := by
  rw [run, if_neg h.1]
  simp [admit_accepts s f h, hb, conclude, Except.map]

/-- An accepted instruction that leaves its course does what that way out does, with the group noted. -/
theorem run_error (s : State) (f : Form) (e : Exit) (body : Try State) (h : s.Accepts f) (hb : body = .error e) :
    run f s body = conclude (s.useGroup f) (f.len == 4) (.error e) := by
  rw [run, if_neg h.1]
  simp [admit_accepts s f h, hb, Except.map]

/-- Whatever an instruction does ends in a next state: none stops the machine. -/
theorem conclude_next (s : State) (l32 : Bool) (r : Try State) : ∃ t, conclude s l32 r = .next t := by
  unfold conclude
  split <;> exact ⟨_, rfl⟩

/-- Under a legal privilege every instruction answers a next state. -/
theorem run_next (s : State) (f : Form) (body : Try State) (h : s.pm ≠ 3) : ∃ t, run f s body = .next t := by
  rw [run, if_neg h]
  split <;> exact conclude_next ..

/-- The only fault is that of the privilege that does not occur (R151), and nothing is refused. -/
theorem run_fault (s : State) (f : Form) (body : Try State) (h : s.pm = 3) : run f s body = .fault .reservedPrivilege := by
  simp [run, h]

/-! ## Sources and destinations -/

theorem src_free (s : State) (r : Reg) (h : s.held r = false) : s.src r = .ok (s.g r) := by simp [State.src, h]

theorem dst_free (s : State) (r : Reg) (h : s.held r = false) : s.dst r = .ok () := by simp [State.dst, waitFor, h]

/-! ## Groups -/

/-- Noting a group changes the control part only. -/
theorem useGroup_eq (s : State) (f : Form) : ∃ g, s.useGroup f = s.modCtl g := by
  unfold State.useGroup
  split
  · exact ⟨id, rfl⟩
  · exact ⟨_, rfl⟩

@[simp] theorem useGroup_pc (s : State) (f : Form) : (s.useGroup f).pc = s.pc := by
  obtain ⟨g, h⟩ := useGroup_eq s f
  simp [h]

@[simp] theorem useGroup_g (s : State) (f : Form) (r : Reg) : (s.useGroup f).g r = s.g r := by
  obtain ⟨g, h⟩ := useGroup_eq s f
  simp [h]

/-! ## Retiring -/

@[simp] theorem Core.settle_vec (k : Core) (q : Seq) : (k.settle q).vec = k.vec := rfl
@[simp] theorem Core.settle_mat (k : Core) (q : Seq) : (k.settle q).mat = k.mat := rfl
@[simp] theorem Core.settle_mem (k : Core) (q : Seq) : (k.settle q).mem = k.mem := rfl
@[simp] theorem Core.settle_sched (k : Core) (q : Seq) : (k.settle q).sched = k.sched := rfl
@[simp] theorem Core.settle_vs (k : Core) (q : Seq) : (k.settle q).vs = k.vs := rfl
@[simp] theorem Core.settle_ms (k : Core) (q : Seq) : (k.settle q).ms = k.ms := rfl
@[simp] theorem Core.settle_msg (k : Core) (q : Seq) : (k.settle q).msg = k.msg := rfl
@[simp] theorem Core.settle_thr (k : Core) (q : Seq) : (k.settle q).thr = k.thr := rfl

/-- Folding changes a hinge pair only. -/
theorem Core.foldPair_eq (k : Core) : ∃ p, k.foldPair = { k with pair := p } := by
  unfold Core.foldPair
  split
  · exact ⟨_, rfl⟩
  · exact ⟨k.pair, rfl⟩

/-- What retiring an instruction of a stream or a routine does to its core. -/
theorem Core.retire_other (k : Core) (q : Seq) (h : q ≠ .control) :
    k.retire q = if k.pp q then (k.settle q).setPp q false else k.settle q := by
  cases q with
  | control => exact absurd rfl h
  | _ => rfl

/-- What retiring an instruction of the control sequencer does to its core. -/
theorem Core.retire_control (k : Core) : ∃ p, k.retire .control = { k with
    thr := { k.thr with kstatus := if k.pp .control then setBit k.thr.kstatus 1 false else k.thr.kstatus }
    ctl := { (k.settle .control).ctl with k := { k.ctl.k with kcnt := k.ctl.k.kcnt + 1 } }
    pair := p } := by
  unfold Core.retire
  dsimp only
  have hp : (k.settle .control).pp .control = k.pp .control := rfl
  rw [hp, if_pos rfl]
  by_cases h : k.pp .control = true
  · rw [if_pos h, if_pos h]
    obtain ⟨p, hp⟩ := Core.foldPair_eq ((k.settle .control).setPp .control false)
    exact ⟨p, by rw [hp]; rfl⟩
  · rw [if_neg h, if_neg h]
    obtain ⟨p, hp⟩ := Core.foldPair_eq (k.settle .control)
    exact ⟨p, by rw [hp]; rfl⟩

end Sys2Proof.Machine
end

