-- ==== Sys2Proof/Laws/PerInstr.lean ====
section
/-! SUPPORT. Statements made per instruction. Family WordBytes: the encoding of a well-formed instruction has two or four bytes (R98). -/

namespace Sys2Proof.Laws.WordBytes

/-- The encoding of a well-formed instruction has two or four bytes (R98). -/
def Statement (i : Instr) : Prop := WellFormed i = true → (encode i).length = 2 ∨ (encode i).length = 4

theorem add (w : Width) (d a b : Reg) : Statement (.add w d a b) := fun _ => .inr rfl
theorem sub (w : Width) (d a b : Reg) : Statement (.sub w d a b) := fun _ => .inr rfl
theorem and (w : Width) (d a b : Reg) : Statement (.and w d a b) := fun _ => .inr rfl
theorem or (w : Width) (d a b : Reg) : Statement (.or w d a b) := fun _ => .inr rfl
theorem xor (w : Width) (d a b : Reg) : Statement (.xor w d a b) := fun _ => .inr rfl
theorem shl (w : Width) (d a b : Reg) : Statement (.shl w d a b) := fun _ => .inr rfl
theorem shr (w : Width) (d a b : Reg) : Statement (.shr w d a b) := fun _ => .inr rfl
theorem sar (w : Width) (d a b : Reg) : Statement (.sar w d a b) := fun _ => .inr rfl
theorem slt (w : Width) (d a b : Reg) : Statement (.slt w d a b) := fun _ => .inr rfl
theorem sltu (w : Width) (d a b : Reg) : Statement (.sltu w d a b) := fun _ => .inr rfl
theorem min (w : Width) (d a b : Reg) : Statement (.min w d a b) := fun _ => .inr rfl
theorem max (w : Width) (d a b : Reg) : Statement (.max w d a b) := fun _ => .inr rfl
theorem mul (w : Width) (d a b : Reg) : Statement (.mul w d a b) := fun _ => .inr rfl
theorem mulh (w : Width) (d a b : Reg) : Statement (.mulh w d a b) := fun _ => .inr rfl
theorem div (w : Width) (d a b : Reg) : Statement (.div w d a b) := fun _ => .inr rfl
theorem rem (w : Width) (d a b : Reg) : Statement (.rem w d a b) := fun _ => .inr rfl
theorem addImmD (d a : Reg) (i : BitVec 12) : Statement (.addImmD d a i) := fun _ => .inr rfl
theorem andImmD (d a : Reg) (i : BitVec 12) : Statement (.andImmD d a i) := fun _ => .inr rfl
theorem orImmD (d a : Reg) (i : BitVec 12) : Statement (.orImmD d a i) := fun _ => .inr rfl
theorem xorImmD (d a : Reg) (i : BitVec 12) : Statement (.xorImmD d a i) := fun _ => .inr rfl
theorem shlImmD (d a : Reg) (i : BitVec 12) : Statement (.shlImmD d a i) := fun _ => .inr rfl
theorem shrImmD (d a : Reg) (i : BitVec 12) : Statement (.shrImmD d a i) := fun _ => .inr rfl
theorem sarImmD (d a : Reg) (i : BitVec 12) : Statement (.sarImmD d a i) := fun _ => .inr rfl
theorem sltImmD (d a : Reg) (i : BitVec 12) : Statement (.sltImmD d a i) := fun _ => .inr rfl
theorem sltuImmD (d a : Reg) (i : BitVec 12) : Statement (.sltuImmD d a i) := fun _ => .inr rfl
theorem minImmD (d a : Reg) (i : BitVec 12) : Statement (.minImmD d a i) := fun _ => .inr rfl
theorem maxImmD (d a : Reg) (i : BitVec 12) : Statement (.maxImmD d a i) := fun _ => .inr rfl
theorem mulImmD (d a : Reg) (i : BitVec 12) : Statement (.mulImmD d a i) := fun _ => .inr rfl
theorem addImmW (d a : Reg) (i : BitVec 12) : Statement (.addImmW d a i) := fun _ => .inr rfl
theorem andImmW (d a : Reg) (i : BitVec 12) : Statement (.andImmW d a i) := fun _ => .inr rfl
theorem orImmW (d a : Reg) (i : BitVec 12) : Statement (.orImmW d a i) := fun _ => .inr rfl
theorem xorImmW (d a : Reg) (i : BitVec 12) : Statement (.xorImmW d a i) := fun _ => .inr rfl
theorem shlImmW (d a : Reg) (i : BitVec 12) : Statement (.shlImmW d a i) := fun _ => .inr rfl
theorem shrImmW (d a : Reg) (i : BitVec 12) : Statement (.shrImmW d a i) := fun _ => .inr rfl
theorem sarImmW (d a : Reg) (i : BitVec 12) : Statement (.sarImmW d a i) := fun _ => .inr rfl
theorem sltImmW (d a : Reg) (i : BitVec 12) : Statement (.sltImmW d a i) := fun _ => .inr rfl
theorem sltuImmW (d a : Reg) (i : BitVec 12) : Statement (.sltuImmW d a i) := fun _ => .inr rfl
theorem minImmW (d a : Reg) (i : BitVec 12) : Statement (.minImmW d a i) := fun _ => .inr rfl
theorem maxImmW (d a : Reg) (i : BitVec 12) : Statement (.maxImmW d a i) := fun _ => .inr rfl
theorem mulImmW (d a : Reg) (i : BitVec 12) : Statement (.mulImmW d a i) := fun _ => .inr rfl
theorem li (d : Reg) (i : BitVec 19) : Statement (.li d i) := fun _ => .inr rfl
theorem leaPc (d : Reg) (i : BitVec 19) : Statement (.leaPc d i) := fun _ => .inr rfl
theorem leaReg (d a : Reg) (i : BitVec 12) : Statement (.leaReg d a i) := fun _ => .inr rfl
theorem jr (a : Reg) (i : BitVec 12) : Statement (.jr a i) := fun _ => .inr rfl
theorem beq (a b : Reg) (o : BitVec 11) : Statement (.beq a b o) := fun _ => .inr rfl
theorem bne (a b : Reg) (o : BitVec 11) : Statement (.bne a b o) := fun _ => .inr rfl
theorem blt (a b : Reg) (o : BitVec 11) : Statement (.blt a b o) := fun _ => .inr rfl
theorem bge (a b : Reg) (o : BitVec 11) : Statement (.bge a b o) := fun _ => .inr rfl
theorem bltu (a b : Reg) (o : BitVec 11) : Statement (.bltu a b o) := fun _ => .inr rfl
theorem bgeu (a b : Reg) (o : BitVec 11) : Statement (.bgeu a b o) := fun _ => .inr rfl
theorem jal (d : Reg) (o : BitVec 19) : Statement (.jal d o) := fun _ => .inr rfl
theorem b (o : BitVec 19) : Statement (.b o) := fun _ => .inr rfl
theorem krd (d : Reg) (k : BitVec 8) : Statement (.krd d k) := fun _ => .inr rfl
theorem kwr (a : Reg) (k : BitVec 8) : Statement (.kwr a k) := fun _ => .inr rfl
theorem trap (i : BitVec 8) : Statement (.trap i) := fun _ => .inr rfl
theorem kret : Statement (.kret) := fun _ => .inr rfl
theorem ebrk (i : BitVec 8) : Statement (.ebrk i) := fun _ => .inr rfl
theorem halt : Statement (.halt) := fun _ => .inr rfl
theorem wait (l s c x : BitVec 3) : Statement (.wait l s c x) := fun _ => .inr rfl
theorem rend : Statement (.rend) := fun _ => .inr rfl
theorem nop : Statement (.nop) := fun _ => .inr rfl
theorem fork (a b : Reg) : Statement (.fork a b) := fun _ => .inr rfl
theorem fmt (f g h : BitVec 4) (s t : Reg) (e : BitVec 2) : Statement (.fmt f g h s t e) := fun _ => .inr rfl
theorem ld (z : BitVec 2) (d a : Reg) (o : BitVec 12) : Statement (.ld z d a o) := fun _ => .inr rfl
theorem ldAcq (z : BitVec 2) (d a : Reg) (o : BitVec 12) : Statement (.ldAcq z d a o) := fun _ => .inr rfl
theorem st (z : BitVec 2) (d a : Reg) (o : BitVec 12) : Statement (.st z d a o) := fun _ => .inr rfl
theorem stRel (z : BitVec 2) (d a : Reg) (o : BitVec 12) : Statement (.stRel z d a o) := fun _ => .inr rfl
theorem amoSwap (q : AmoOrder) (w : Width) (d a b : Reg) : Statement (.amoSwap q w d a b) := fun _ => .inr rfl
theorem amoCas (q : AmoOrder) (w : Width) (d a b : Reg) : Statement (.amoCas q w d a b) := fun _ => .inr rfl
theorem amoAdd (q : AmoOrder) (w : Width) (d a b : Reg) : Statement (.amoAdd q w d a b) := fun _ => .inr rfl
theorem amoAnd (q : AmoOrder) (w : Width) (d a b : Reg) : Statement (.amoAnd q w d a b) := fun _ => .inr rfl
theorem amoOr (q : AmoOrder) (w : Width) (d a b : Reg) : Statement (.amoOr q w d a b) := fun _ => .inr rfl
theorem amoXor (q : AmoOrder) (w : Width) (d a b : Reg) : Statement (.amoXor q w d a b) := fun _ => .inr rfl
theorem amoMin (q : AmoOrder) (w : Width) (d a b : Reg) : Statement (.amoMin q w d a b) := fun _ => .inr rfl
theorem amoMax (q : AmoOrder) (w : Width) (d a b : Reg) : Statement (.amoMax q w d a b) := fun _ => .inr rfl
theorem amoFadd (q : AmoOrder) (d a b : Reg) : Statement (.amoFadd q d a b) := fun _ => .inr rfl
theorem fenceAcq : Statement (.fenceAcq) := fun _ => .inr rfl
theorem fenceRel : Statement (.fenceRel) := fun _ => .inr rfl
theorem fenceFull : Statement (.fenceFull) := fun _ => .inr rfl
theorem stashMap (d a b : Reg) : Statement (.stashMap d a b) := fun _ => .inr rfl
theorem stashUnmap (a b : Reg) : Statement (.stashUnmap a b) := fun _ => .inr rfl
theorem stashWb (a b : Reg) : Statement (.stashWb a b) := fun _ => .inr rfl
theorem spill (a b : Reg) : Statement (.spill a b) := fun _ => .inr rfl
theorem fill (d a b : Reg) : Statement (.fill d a b) := fun _ => .inr rfl
theorem tstate (d a : Reg) : Statement (.tstate d a) := fun _ => .inr rfl
theorem tmld (a : Reg) (m : BitVec 4) : Statement (.tmld a m) := fun _ => .inr rfl
theorem tmst (a : Reg) (m : BitVec 4) : Statement (.tmst a m) := fun _ => .inr rfl
theorem spawn (d a b : Reg) : Statement (.spawn d a b) := fun _ => .inr rfl
theorem spawnt (d a b : Reg) : Statement (.spawnt d a b) := fun _ => .inr rfl
theorem retire : Statement (.retire) := fun _ => .inr rfl
theorem yield : Statement (.yield) := fun _ => .inr rfl
theorem chopen (d a b : Reg) : Statement (.chopen d a b) := fun _ => .inr rfl
theorem chclose (d a : Reg) : Statement (.chclose d a) := fun _ => .inr rfl
theorem nest (d a b : Reg) : Statement (.nest d a b) := fun _ => .inr rfl
theorem chbudget (d a b : Reg) : Statement (.chbudget d a b) := fun _ => .inr rfl
theorem chprio (d a b : Reg) : Statement (.chprio d a b) := fun _ => .inr rfl
theorem nextit (o : BitVec 19) : Statement (.nextit o) := fun _ => .inr rfl
theorem vfadd (l : Lane) (p : Option (BitVec 3)) (d a b : Reg) : Statement (.vfadd l p d a b) := fun _ => .inr rfl
theorem vfsub (l : Lane) (p : Option (BitVec 3)) (d a b : Reg) : Statement (.vfsub l p d a b) := fun _ => .inr rfl
theorem vfmul (l : Lane) (p : Option (BitVec 3)) (d a b : Reg) : Statement (.vfmul l p d a b) := fun _ => .inr rfl
theorem vfma (l : Lane) (p : Option (BitVec 3)) (d a b : Reg) : Statement (.vfma l p d a b) := fun _ => .inr rfl
theorem vfms (l : Lane) (p : Option (BitVec 3)) (d a b : Reg) : Statement (.vfms l p d a b) := fun _ => .inr rfl
theorem vfmin (l : Lane) (p : Option (BitVec 3)) (d a b : Reg) : Statement (.vfmin l p d a b) := fun _ => .inr rfl
theorem vfmax (l : Lane) (p : Option (BitVec 3)) (d a b : Reg) : Statement (.vfmax l p d a b) := fun _ => .inr rfl
theorem vfabs (l : Lane) (p : Option (BitVec 3)) (d a : Reg) : Statement (.vfabs l p d a) := fun _ => .inr rfl
theorem vadd (l : Lane) (p : Option (BitVec 3)) (d a b : Reg) : Statement (.vadd l p d a b) := fun _ => .inr rfl
theorem vsub (l : Lane) (p : Option (BitVec 3)) (d a b : Reg) : Statement (.vsub l p d a b) := fun _ => .inr rfl
theorem vmul (l : Lane) (p : Option (BitVec 3)) (d a b : Reg) : Statement (.vmul l p d a b) := fun _ => .inr rfl
theorem vmin (l : Lane) (p : Option (BitVec 3)) (d a b : Reg) : Statement (.vmin l p d a b) := fun _ => .inr rfl
theorem vmax (l : Lane) (p : Option (BitVec 3)) (d a b : Reg) : Statement (.vmax l p d a b) := fun _ => .inr rfl
theorem vand (l : Lane) (p : Option (BitVec 3)) (d a b : Reg) : Statement (.vand l p d a b) := fun _ => .inr rfl
theorem vor (l : Lane) (p : Option (BitVec 3)) (d a b : Reg) : Statement (.vor l p d a b) := fun _ => .inr rfl
theorem vxor (l : Lane) (p : Option (BitVec 3)) (d a b : Reg) : Statement (.vxor l p d a b) := fun _ => .inr rfl
theorem vshl (l : Lane) (p : Option (BitVec 3)) (d a : Reg) (s : BitVec 5) : Statement (.vshl l p d a s) := fun _ => .inr rfl
theorem vshr (l : Lane) (p : Option (BitVec 3)) (d a : Reg) (s : BitVec 5) : Statement (.vshr l p d a s) := fun _ => .inr rfl
theorem vsar (l : Lane) (p : Option (BitVec 3)) (d a : Reg) (s : BitVec 5) : Statement (.vsar l p d a s) := fun _ => .inr rfl
theorem vsadd (l : Lane) (p : Option (BitVec 3)) (d a b : Reg) : Statement (.vsadd l p d a b) := fun _ => .inr rfl
theorem vssub (l : Lane) (p : Option (BitVec 3)) (d a b : Reg) : Statement (.vssub l p d a b) := fun _ => .inr rfl
theorem vabs (l : Lane) (p : Option (BitVec 3)) (d a : Reg) : Statement (.vabs l p d a) := fun _ => .inr rfl
theorem vneg (l : Lane) (p : Option (BitVec 3)) (d a : Reg) : Statement (.vneg l p d a) := fun _ => .inr rfl
theorem vcmpeq (l : Lane) (p : Option (BitVec 3)) (d : BitVec 3) (a b : Reg) : Statement (.vcmpeq l p d a b) := fun _ => .inr rfl
theorem vcmplt (l : Lane) (p : Option (BitVec 3)) (d : BitVec 3) (a b : Reg) : Statement (.vcmplt l p d a b) := fun _ => .inr rfl
theorem vcmple (l : Lane) (p : Option (BitVec 3)) (d : BitVec 3) (a b : Reg) : Statement (.vcmple l p d a b) := fun _ => .inr rfl
theorem vfcmpeq (l : Lane) (p : Option (BitVec 3)) (d : BitVec 3) (a b : Reg) : Statement (.vfcmpeq l p d a b) := fun _ => .inr rfl
theorem vfcmplt (l : Lane) (p : Option (BitVec 3)) (d : BitVec 3) (a b : Reg) : Statement (.vfcmplt l p d a b) := fun _ => .inr rfl
theorem vfcmple (l : Lane) (p : Option (BitVec 3)) (d : BitVec 3) (a b : Reg) : Statement (.vfcmple l p d a b) := fun _ => .inr rfl
theorem vsel (l : Lane) (p : BitVec 3) (d a b : Reg) : Statement (.vsel l p d a b) := fun _ => .inr rfl
theorem vfredsum (l : Lane) (p : Option (BitVec 3)) (d a b : Reg) : Statement (.vfredsum l p d a b) := fun _ => .inr rfl
theorem vfredmax (l : Lane) (p : Option (BitVec 3)) (d a b : Reg) : Statement (.vfredmax l p d a b) := fun _ => .inr rfl
theorem vfredmin (l : Lane) (p : Option (BitVec 3)) (d a b : Reg) : Statement (.vfredmin l p d a b) := fun _ => .inr rfl
theorem vredsum (l : Lane) (p : Option (BitVec 3)) (d a b : Reg) : Statement (.vredsum l p d a b) := fun _ => .inr rfl
theorem vredmax (l : Lane) (p : Option (BitVec 3)) (d a b : Reg) : Statement (.vredmax l p d a b) := fun _ => .inr rfl
theorem vredmin (l : Lane) (p : Option (BitVec 3)) (d a b : Reg) : Statement (.vredmin l p d a b) := fun _ => .inr rfl
theorem vperm (l : Lane) (p : Option (BitVec 3)) (d a b : Reg) : Statement (.vperm l p d a b) := fun _ => .inr rfl
theorem vslide (l : Lane) (p : Option (BitVec 3)) (d a : Reg) (s : BitVec 5) : Statement (.vslide l p d a s) := fun _ => .inr rfl
theorem vcvt (l : Lane) (p : Option (BitVec 3)) (d a : Reg) (r : Bool) (t : BitVec 3) : Statement (.vcvt l p d a r t) := fun _ => .inr rfl
theorem vcvts (l : Lane) (d a b : Reg) : Statement (.vcvts l d a b) := fun _ => .inr rfl
theorem vexp2 (l : Lane) (p : Option (BitVec 3)) (d a : Reg) : Statement (.vexp2 l p d a) := fun _ => .inr rfl
theorem vrcp (l : Lane) (p : Option (BitVec 3)) (d a : Reg) : Statement (.vrcp l p d a) := fun _ => .inr rfl
theorem vrsq (l : Lane) (p : Option (BitVec 3)) (d a : Reg) : Statement (.vrsq l p d a) := fun _ => .inr rfl
theorem vbcast (l : Lane) (p : Option (BitVec 3)) (d a : Reg) : Statement (.vbcast l p d a) := fun _ => .inr rfl
theorem vextr (l : Lane) (d a b : Reg) : Statement (.vextr l d a b) := fun _ => .inr rfl
theorem vld (d a : Reg) (o : BitVec 12) : Statement (.vld d a o) := fun _ => .inr rfl
theorem vst (d a : Reg) (o : BitVec 12) : Statement (.vst d a o) := fun _ => .inr rfl
theorem kvdec (p : Option (BitVec 3)) (d a b : Reg) : Statement (.kvdec p d a b) := fun _ => .inr rfl
theorem kvscore (d a b : Reg) : Statement (.kvscore d a b) := fun _ => .inr rfl
theorem topk (p : Option (BitVec 3)) (d a b : Reg) : Statement (.topk p d a b) := fun _ => .inr rfl
theorem send (d a b : Reg) : Statement (.send d a b) := fun _ => .inr rfl
theorem sendd (d a b : Reg) : Statement (.sendd d a b) := fun _ => .inr rfl
theorem cbind (d a b : Reg) : Statement (.cbind d a b) := fun _ => .inr rfl
theorem cunbind (d a : Reg) : Statement (.cunbind d a) := fun _ => .inr rfl
theorem mret : Statement (.mret) := fun _ => .inr rfl
theorem mpoll (d a b : Reg) : Statement (.mpoll d a b) := fun _ => .inr rfl
theorem copy (d : Reg) (t : TileNo) (u : Reg) : Statement (.copy d t u) := fun _ => .inr rfl
theorem copym (d : Reg) (t : TileNo) (u : Reg) (m : BitVec 4) : Statement (.copym d t u m) := fun _ => .inr rfl
theorem gather (d : Reg) (t i : TileNo) (m : BitVec 4) : Statement (.gather d t i m) := fun _ => .inr rfl
theorem scatter (d : Reg) (t i : TileNo) (m : BitVec 4) : Statement (.scatter d t i m) := fun _ => .inr rfl
theorem cfill (d u : Reg) : Statement (.cfill d u) := fun _ => .inr rfl
theorem kvmove (d : Reg) (t : TileNo) (u : Reg) : Statement (.kvmove d t u) := fun _ => .inr rfl
theorem stripeUpd (d u : Reg) : Statement (.stripeUpd d u) := fun _ => .inr rfl
theorem stripeRec (d u : Reg) : Statement (.stripeRec d u) := fun _ => .inr rfl
theorem balloc (d : Reg) (t : TileNo) (u : Reg) : Statement (.balloc d t u) := fun _ => .inr rfl
theorem bseal (d : Reg) (t : TileNo) : Statement (.bseal d t) := fun _ => .inr rfl
theorem bld (d : Reg) (t : TileNo) : Statement (.bld d t) := fun _ => .inr rfl
theorem bforfeit (d u : Reg) : Statement (.bforfeit d u) := fun _ => .inr rfl
theorem bforfeitT (t : TileNo) : Statement (.bforfeitT t) := fun _ => .inr rfl
theorem bquery (d u : Reg) (s : BitVec 4) : Statement (.bquery d u s) := fun _ => .inr rfl
theorem bpart (d u : Reg) : Statement (.bpart d u) := fun _ => .inr rfl
theorem mteamJoin (d u : Reg) : Statement (.mteamJoin d u) := fun _ => .inr rfl
theorem mteamLeave (d : Reg) : Statement (.mteamLeave d) := fun _ => .inr rfl
theorem mldb (t : TileNo) (u : Reg) (m : BitVec 4) (s : BitVec 5) : Statement (.mldb t u m s) := fun _ => .inr rfl
theorem mlda (t : TileNo) (u : Reg) (m : BitVec 4) (s : BitVec 5) : Statement (.mlda t u m s) := fun _ => .inr rfl
theorem mma (t : TileNo) (u : Reg) (s : BitVec 5) : Statement (.mma t u s) := fun _ => .inr rfl
theorem mmat (t : TileNo) (u : Reg) (s : BitVec 5) : Statement (.mmat t u s) := fun _ => .inr rfl
theorem mzero (t : TileNo) : Statement (.mzero t) := fun _ => .inr rfl
theorem mst (d : Reg) (t : TileNo) (u : Reg) (m : BitVec 4) : Statement (.mst d t u m) := fun _ => .inr rfl
theorem mchk (d u : Reg) (s : BitVec 4) : Statement (.mchk d u s) := fun _ => .inr rfl
theorem nkey (d u : Reg) : Statement (.nkey d u) := fun _ => .inr rfl
theorem mmember (u : Reg) (s : BitVec 5) : Statement (.mmember u s) := fun _ => .inr rfl
theorem ngen (d u : Reg) : Statement (.ngen d u) := fun _ => .inr rfl
theorem ngrad (d u : Reg) : Statement (.ngrad d u) := fun _ => .inr rfl
theorem tlbw (d a b : Reg) : Statement (.tlbw d a b) := fun _ => .inr rfl
theorem tlbi (d a b : Reg) : Statement (.tlbi d a b) := fun _ => .inr rfl
theorem tlbig (d b : Reg) : Statement (.tlbig d b) := fun _ => .inr rfl
theorem ship (d a b : Reg) : Statement (.ship d a b) := fun _ => .inr rfl
theorem migrBegin (d a b : Reg) : Statement (.migrBegin d a b) := fun _ => .inr rfl
theorem migrEnd (d a : Reg) : Statement (.migrEnd d a) := fun _ => .inr rfl
theorem pgreq (d a b : Reg) : Statement (.pgreq d a b) := fun _ => .inr rfl
theorem pair (d : Reg) : Statement (.pair d) := fun _ => .inr rfl
theorem unpair (d : Reg) : Statement (.unpair d) := fun _ => .inr rfl
theorem fpx (d : Reg) : Statement (.fpx d) := fun _ => .inr rfl
theorem pstat (d a : Reg) : Statement (.pstat d a) := fun _ => .inr rfl
theorem msdecl (d a b : Reg) : Statement (.msdecl d a b) := fun _ => .inr rfl
theorem msopen (d a : Reg) : Statement (.msopen d a) := fun _ => .inr rfl
theorem msclose (d a : Reg) : Statement (.msclose d a) := fun _ => .inr rfl
theorem msquery (d a b : Reg) : Statement (.msquery d a b) := fun _ => .inr rfl
theorem add16 (d a : Reg) : Statement (.add16 d a) := fun _ => .inl rfl
theorem sub16 (d a : Reg) : Statement (.sub16 d a) := fun _ => .inl rfl
theorem and16 (d a : Reg) : Statement (.and16 d a) := fun _ => .inl rfl
theorem or16 (d a : Reg) : Statement (.or16 d a) := fun _ => .inl rfl
theorem xor16 (d a : Reg) : Statement (.xor16 d a) := fun _ => .inl rfl
theorem addImm16 (d : Reg) (i : BitVec 6) : Statement (.addImm16 d i) := fun _ => .inl rfl
theorem li16 (d : Reg) (i : BitVec 6) : Statement (.li16 d i) := fun _ => .inl rfl
theorem shl16 (d : Reg) (i : BitVec 6) : Statement (.shl16 d i) := fun _ => .inl rfl
theorem shr16 (d : Reg) (i : BitVec 6) : Statement (.shr16 d i) := fun _ => .inl rfl
theorem sar16 (d : Reg) (i : BitVec 6) : Statement (.sar16 d i) := fun _ => .inl rfl
theorem ld16 (d : Reg) (i : BitVec 6) : Statement (.ld16 d i) := fun _ => .inl rfl
theorem st16 (d : Reg) (i : BitVec 6) : Statement (.st16 d i) := fun _ => .inl rfl
theorem b16 (o : BitVec 11) : Statement (.b16 o) := fun _ => .inl rfl
theorem beq16 (a : Reg) (o : BitVec 6) : Statement (.beq16 a o) := fun _ => .inl rfl
theorem bne16 (a : Reg) (o : BitVec 6) : Statement (.bne16 a o) := fun _ => .inl rfl
theorem jr16 (a : Reg) : Statement (.jr16 a) := fun _ => .inl rfl
theorem nop16 : Statement (.nop16) := fun _ => .inl rfl
theorem rend16 : Statement (.rend16) := fun _ => .inl rfl
theorem ebrk16 : Statement (.ebrk16) := fun _ => .inl rfl
theorem migration (c : CoreName) : Statement (.migration c) := nofun
theorem issueAfterStall (c : CoreName) (q : Seq) : Statement (.issueAfterStall c q) := nofun
theorem pendingFaultTake (c : CoreName) : Statement (.pendingFaultTake c) := nofun
theorem preempt (c : CoreName) : Statement (.preempt c) := nofun
theorem interruptWaitExpiry (c : CoreName) : Statement (.interruptWaitExpiry c) := nofun
theorem gangStop (p : StopOrder) : Statement (.gangStop p) := nofun
theorem gangResume (p : Nat) : Statement (.gangResume p) := nofun
theorem gangRollback (p : Nat) : Statement (.gangRollback p) := nofun
theorem restart (k : Nat) : Statement (.restart k) := nofun
theorem deferredPush (k : Nat) : Statement (.deferredPush k) := nofun
theorem select (c : CoreName) : Statement (.select c) := nofun
theorem steal (k : Nat) : Statement (.steal k) := nofun
theorem stealReply (k : Nat) : Statement (.stealReply k) := nofun
theorem stealPauseExpiry (c : CoreName) : Statement (.stealPauseExpiry c) := nofun
theorem gangBind (k : Nat) : Statement (.gangBind k) := nofun
theorem gangReserveTimeout (k : Nat) : Statement (.gangReserveTimeout k) := nofun
theorem push (k : Nat) : Statement (.push k) := nofun
theorem claim (k : Nat) : Statement (.claim k) := nofun
theorem rsv (k : Nat) : Statement (.rsv k) := nofun
theorem launch (step : LaunchStep) : Statement (.launch step) := nofun
theorem contextEnd (ctx : BitVec 16) : Statement (.contextEnd ctx) := nofun
theorem contextEndHead (head : Word) : Statement (.contextEndHead head) := nofun
theorem wakeBegin (die : Nat) : Statement (.wakeBegin die) := nofun
theorem wakeComplete (c : CoreName) : Statement (.wakeComplete c) := nofun
theorem matrixSleep (c : CoreName) : Statement (.matrixSleep c) := nofun
theorem routeFlit (router plane : Nat) : Statement (.routeFlit router plane) := nofun
theorem ejectFlit (k : Nat) : Statement (.ejectFlit k) := nofun
theorem holdNotice (k : Nat) : Statement (.holdNotice k) := nofun
theorem holdNoticeReceived (k : Nat) : Statement (.holdNoticeReceived k) := nofun
theorem retransmit (k : Nat) : Statement (.retransmit k) := nofun
theorem channelFree (k : Nat) : Statement (.channelFree k) := nofun
theorem channelEvict (k : Nat) : Statement (.channelEvict k) := nofun
theorem linkFail (link : Nat) : Statement (.linkFail link) := nofun
theorem scaleupLinkDead (link : Nat) : Statement (.scaleupLinkDead link) := nofun
theorem setAside (flow : Nat) : Statement (.setAside flow) := nofun
theorem setAsideRelease (flow : Nat) : Statement (.setAsideRelease flow) := nofun
theorem dieFenced (k : Nat) : Statement (.dieFenced k) := nofun
theorem qsce (die : Nat) : Statement (.qsce die) := nofun
theorem messageCompletion (k : Nat) : Statement (.messageCompletion k) := nofun
theorem classInstall (k : Nat) : Statement (.classInstall k) := nofun
theorem unboundHoldExpiry (c : CoreName) (k : Nat) : Statement (.unboundHoldExpiry c k) := nofun
theorem routineStart (c : CoreName) : Statement (.routineStart c) := nofun
theorem ldRequest (k : Nat) : Statement (.ldRequest k) := nofun
theorem stRequest (k : Nat) : Statement (.stRequest k) := nofun
theorem stl (k : Nat) : Statement (.stl k) := nofun
theorem amoRequest (k : Nat) : Statement (.amoRequest k) := nofun
theorem loadReturn (k : Nat) : Statement (.loadReturn k) := nofun
theorem storeComplete (k : Nat) : Statement (.storeComplete k) := nofun
theorem reg (k : Nat) : Statement (.reg k) := nofun
theorem regAck (k : Nat) : Statement (.regAck k) := nofun
theorem regSetFree (k : Nat) : Statement (.regSetFree k) := nofun
theorem rev (k : Nat) : Statement (.rev k) := nofun
theorem revAnswer (k : Nat) : Statement (.revAnswer k) := nofun
theorem wb (k : Nat) : Statement (.wb k) := nofun
theorem fwd (k : Nat) : Statement (.fwd k) := nofun
theorem copyq (k : Nat) : Statement (.copyq k) := nofun
theorem copyd (k : Nat) : Statement (.copyd k) := nofun
theorem gsub (k : Nat) : Statement (.gsub k) := nofun
theorem ssub (k : Nat) : Statement (.ssub k) := nofun
theorem stripe (k : Nat) : Statement (.stripe k) := nofun
theorem engineComplete (c : CoreName) (k : Nat) : Statement (.engineComplete c k) := nofun
theorem lostClear (rid : Nat) : Statement (.lostClear rid) := nofun
theorem basinAllocGrant (slice partition : Nat) : Statement (.basinAllocGrant slice partition) := nofun
theorem basinReadServe (slice partition k : Nat) : Statement (.basinReadServe slice partition k) := nofun
theorem psum (k : Nat) : Statement (.psum k) := nofun
theorem mteamJoinComplete (c : CoreName) : Statement (.mteamJoinComplete c) := nofun
theorem teamPreemptTimeout (c : CoreName) : Statement (.teamPreemptTimeout c) := nofun
theorem tlbm (k : Nat) : Statement (.tlbm k) := nofun
theorem tlbf (k : Nat) : Statement (.tlbf k) := nofun
theorem shipArrival (k : Nat) : Statement (.shipArrival k) := nofun
theorem redir (k : Nat) : Statement (.redir k) := nofun
theorem lineMove (m : Nat) : Statement (.lineMove m) := nofun
theorem fingerprintExchange (c : CoreName) : Statement (.fingerprintExchange c) := nofun
theorem supplyLoss : Statement (.supplyLoss) := nofun
theorem reserveSelfTest (test : SelfTest) : Statement (.reserveSelfTest test) := nofun
theorem coldReset : Statement (.coldReset) := nofun
theorem diagnosis (sp : Nat) (d : Rec) : Statement (.diagnosis sp d) := nofun
theorem spmb (sp : Nat) : Statement (.spmb sp) := nofun
theorem voteTimeout (k : Nat) : Statement (.voteTimeout k) := nofun
theorem refereeTimeout (k : Nat) : Statement (.refereeTimeout k) := nofun
theorem heartbeatProbe (die : Nat) (answered : Bool) : Statement (.heartbeatProbe die answered) := nofun
theorem dieLossRecovery (die : Nat) : Statement (.dieLossRecovery die) := nofun
theorem rebuildComplete (die : Nat) : Statement (.rebuildComplete die) := nofun
theorem packageLoss (pkg : Nat) : Statement (.packageLoss pkg) := nofun
theorem gatewayLoss (die : Nat) : Statement (.gatewayLoss die) := nofun
theorem checkpointBoundary (p : Nat) : Statement (.checkpointBoundary p) := nofun
theorem undoLogFull (die : Nat) : Statement (.undoLogFull die) := nofun
theorem watchdog (p : Nat) : Statement (.watchdog p) := nofun
theorem spPreemptCommand (c : CoreName) : Statement (.spPreemptCommand c) := nofun
theorem setGovernorBudget (die units : Nat) : Statement (.setGovernorBudget die units) := nofun
theorem installRegion (sp : Nat) : Statement (.installRegion sp) := nofun
theorem removeRegion (sp : Nat) : Statement (.removeRegion sp) := nofun
theorem setCheckpointInterval (sp : Nat) : Statement (.setCheckpointInterval sp) := nofun
theorem holdPartition (sp : Nat) : Statement (.holdPartition sp) := nofun
theorem releasePartition (sp : Nat) : Statement (.releasePartition sp) := nofun
theorem haltDie (sp : Nat) : Statement (.haltDie sp) := nofun
theorem resumeDie (sp : Nat) : Statement (.resumeDie sp) := nofun
theorem restartCore (sp : Nat) : Statement (.restartCore sp) := nofun
theorem setBudgetRequest (sp : Nat) : Statement (.setBudgetRequest sp) := nofun
theorem attestation (sp : Nat) : Statement (.attestation sp) := nofun
theorem hostMemAccess (a : HostAccess) : Statement (.hostMemAccess a) := nofun
theorem hostbi (line : Nat) (answer : Option (List W32)) : Statement (.hostbi line answer) := nofun
theorem snoopTimeout (k : Nat) : Statement (.snoopTimeout k) := nofun
theorem ueSend (port : Nat) : Statement (.ueSend port) := nofun
theorem ueReceive (port : Nat) (peer : Nat) (data : List Byte) : Statement (.ueReceive port peer data) := nofun
theorem linkTraining (link : Nat) (ours theirs : Nat) : Statement (.linkTraining link ours theirs) := nofun
theorem patrolScrub (place : ScrubAt) (found : Scrubbed) : Statement (.patrolScrub place found) := nofun
theorem firmwareVerify (sp : Nat) (image : List Byte) : Statement (.firmwareVerify sp image) := nofun
theorem discoveryFlood (serial : Word) (plane : Nat) : Statement (.discoveryFlood serial plane) := nofun
theorem imageMulticast (image : List Byte) : Statement (.imageMulticast image) := nofun
theorem registerWrite (offset : Nat) (data : Word) : Statement (.registerWrite offset data) := nofun
theorem debuggerBreakRequest (c : CoreName) : Statement (.debuggerBreakRequest c) := nofun
theorem spPartnerLost (sp : Nat) : Statement (.spPartnerLost sp) := nofun
theorem ueSendCompletion (port : Nat) (status : Byte) : Statement (.ueSendCompletion port status) := nofun
theorem spillWriteAccepted (c : CoreName) (k : Nat) : Statement (.spillWriteAccepted c k) := nofun
theorem mailboxRequestMalformed (sp : Nat) : Statement (.mailboxRequestMalformed sp) := nofun

end Sys2Proof.Laws.WordBytes
end

