-- ==== Sys2Proof/Laws/Retire.lean ====
section
/-! SUPPORT. What an instruction that retires leaves as it was. -/

namespace Sys2Proof.Machine

@[simp] theorem Core.settle_pair (k : Core) (q : Seq) : (k.settle q).pair = k.pair := rfl

/-- An instruction that retires and sets the pc leaves the rest as it was, general registers too. -/
theorem retire_setPc (s : State) (a : Word) :
    (s.retire.setPc a).pc = a ∧ (∀ r, (s.retire.setPc a).g r = s.g r) ∧ s.Plain (s.retire.setPc a) := by
  obtain ⟨cur, seq, k, cores, agenda, fresh, mem, fab, homes, work, dies, govs, services, basins, stripes, mgmt⟩ := s
  cases seq with
  | control =>
    obtain ⟨p, hp⟩ := Core.retire_control k
    simp only [State.retire, hp]
    refine ⟨rfl, fun _ => rfl, rfl, ⟨rfl, rfl, rfl, rfl⟩, ⟨rfl, rfl, rfl, rfl, rfl, rfl, rfl, rfl, rfl⟩,
      ⟨rfl, rfl, rfl, rfl, rfl, ?_⟩, ⟨fun _ => rfl, fun _ => rfl, fun _ => rfl, fun h => absurd rfl h⟩, rfl⟩
    show setBit (if _ then _ else _) 1 false = _
    split <;> simp [setBit, State.thr, Core.thread, BitVec.and_assoc]
  | vector =>
    simp only [State.retire, Core.retire_other k .vector (by decide)]
    split <;> exact ⟨rfl, fun _ => rfl, rfl, ⟨rfl, rfl, rfl, rfl⟩, ⟨rfl, rfl, rfl, rfl, rfl, rfl, rfl, rfl, rfl⟩,
      ⟨rfl, rfl, rfl, rfl, rfl, rfl⟩, ⟨fun h => absurd rfl h, fun _ => rfl, fun _ => rfl, fun _ => rfl⟩, rfl⟩
  | matrix =>
    simp only [State.retire, Core.retire_other k .matrix (by decide)]
    split <;> exact ⟨rfl, fun _ => rfl, rfl, ⟨rfl, rfl, rfl, rfl⟩, ⟨rfl, rfl, rfl, rfl, rfl, rfl, rfl, rfl, rfl⟩,
      ⟨rfl, rfl, rfl, rfl, rfl, rfl⟩, ⟨fun _ => rfl, fun h => absurd rfl h, fun _ => rfl, fun _ => rfl⟩, rfl⟩
  | routine =>
    simp only [State.retire, Core.retire_other _ .routine (by decide)]
    split
    · refine ⟨rfl, fun _ => rfl, rfl, ⟨rfl, rfl, rfl, rfl⟩, ⟨rfl, rfl, rfl, rfl, rfl, rfl, rfl, rfl, rfl⟩,
        ⟨rfl, rfl, rfl, rfl, rfl, ?_⟩, ⟨fun _ => rfl, fun _ => rfl, fun h => absurd rfl h, fun _ => rfl⟩, rfl⟩
      show setBit (setBit _ 1 false) 1 false = _
      simp [setBit, State.thr, Core.thread, BitVec.and_assoc]
    · exact ⟨rfl, fun _ => rfl, rfl, ⟨rfl, rfl, rfl, rfl⟩, ⟨rfl, rfl, rfl, rfl, rfl, rfl, rfl, rfl, rfl⟩,
        ⟨rfl, rfl, rfl, rfl, rfl, rfl⟩, ⟨fun _ => rfl, fun _ => rfl, fun h => absurd rfl h, fun _ => rfl⟩, rfl⟩

/-- Writing a register leaves all of it as it was. -/
theorem plain_setG (s t : State) (d : Reg) (x : Word) (h : (s.setG d x).Plain t) : s.Plain t := by
  obtain ⟨cur, seq, k, cores, agenda, fresh, mem, fab, homes, work, dies, govs, services, basins, stripes, mgmt⟩ := s
  obtain ⟨h1, h2, h3, h4, h5, h6⟩ := h
  refine ⟨?_, ?_, ?_, ?_, ?_, ?_⟩
  · have := congrArg (fun (x : State) => { x with core := k }) h1
    exact this
  · cases seq <;> exact h2
  · cases seq <;> exact h3
  · cases seq with
    | _ => exact h4
  · cases seq with
    | control => exact ⟨h5.1, h5.2.1, h5.2.2.1, fun h => absurd rfl h⟩
    | vector => exact ⟨fun h => absurd rfl h, h5.2.1, h5.2.2.1, h5.2.2.2⟩
    | matrix => exact ⟨h5.1, fun h => absurd rfl h, h5.2.2.1, h5.2.2.2⟩
    | routine => exact ⟨h5.1, h5.2.1, fun h => absurd rfl h, h5.2.2.2⟩
  · cases seq <;> exact h6

/-- The scratch pages that the first use of the matrix unit adds are there whichever group is noted first. -/
theorem Task.useGroup_matrix (t : Task) (n : Nat) :
    ({ (t.useGroup n).useGroup 2 with groups := 0 } : Task) = { t.useGroup 2 with groups := 0 } := by
  by_cases h : n = 2
  · subst h
    by_cases h2 : bit t.groups 2 <;> simp [Task.useGroup]
  · have hn : ∀ j : Fin 6, j.val ≠ 2 → bit (t.groups ||| 1#6 <<< j.val) 2 = bit t.groups 2 := by simp [bit]; omega
    have hb : bit (t.groups ||| 1#6 <<< n) 2 = bit t.groups 2 := by
      by_cases h6 : n < 6
      · exact hn ⟨n, h6⟩ h
      · rw [BitVec.shiftLeft_eq_zero (by omega), BitVec.or_zero]
    simp only [Task.useGroup, h, false_and, if_false, hb]

/-- Noting a group changes nothing that a frame speaks of. -/
theorem plain_useGroup (s t : State) (f : Form) (h : s.Plain t) : s.Plain (t.useGroup f) := by
  unfold State.useGroup
  split
  · exact h
  · obtain ⟨h1, h2, ⟨a1, a2, a3, a4, a5, a6, a7, a8, a9⟩, h4, h5, h6⟩ := h
    refine ⟨h1, h2, ⟨a1, a2, a3, a4, a5, a6, a7, a8, ?_⟩, h4, h5, h6⟩
    rw [← a9]
    show ((t.core.ctl.task.map _).map _) = _
    rw [Option.map_map]
    exact congrArg (fun g => t.core.ctl.task.map g) (funext fun k => Task.useGroup_matrix k f.group)

/-- An instruction that writes `x` to register `d`, retires and goes to `a`. -/
theorem gives_setG (s : State) (f : Form) (d : Reg) (x a : Word) :
    s.Gives (((s.setG d x).retire.setPc a).useGroup f) d x a := by
  obtain ⟨hpc, hg, hp⟩ := retire_setPc (s.setG d x) a
  refine ⟨?_, fun r hr => ?_, ?_, ?_⟩
  · rw [useGroup_g, hg, State.g_setG _ _ _ _]
    by_cases hd : d = 0
    · subst hd
      rw [if_neg fun e => e.2 rfl]
      exact State.g_zero s
    · rw [if_pos ⟨rfl, hd⟩, written, if_neg hd]
  · rw [useGroup_g, hg, State.g_setG _ _ _ _, if_neg fun e => hr e.1]
  · rw [useGroup_pc, hpc]
  · exact plain_useGroup _ _ _ (plain_setG _ _ _ _ hp)

end Sys2Proof.Machine
end

