-- ==== Sys2Proof/Tests/Slice0.lean ====
section
/-! SUPPORT. Tests: words of the spec's encodings, well-formedness, worked values of the spec, and for every statement states and operands
that meet its hypotheses. -/

namespace Sys2Proof.Tests
set_option Elab.async false
open Sys2Proof Sys2Proof.Machine

/-! ## Words written out from the encoding tables -/

theorem test_decode_base_0 : [(decodeTableWord 32 0x00732503), (decodeTableWord 32 0x02732503), (decodeTableWord 32 0x04732503), (decodeTableWord
    32 0x06732503), (decodeTableWord 32 0x08732503), (decodeTableWord 32 0x0A732503), (decodeTableWord 32 0x0C732503), (decodeTableWord 32
    0x0E732503), (decodeTableWord 32 0x10732503), (decodeTableWord 32 0x12732503), (decodeTableWord 32 0x14732503), (decodeTableWord 32
    0x16732503)] = [
some (.add .w32 5 6 7), some (.sub .w32 5 6 7), some (.and .w32 5 6 7), some (.or .w32 5 6 7), some (.xor .w32 5 6 7), some (.shl .w32 5 6 7), some
    (.shr .w32 5 6 7), some (.sar .w32 5 6 7), some (.slt .w32 5 6 7), some (.sltu .w32 5 6 7), some (.min .w32 5 6 7), some (.max .w32 5 6 7)] :=
    by decide

theorem test_decode_base_1 : [(decodeTableWord 32 0x00732505), (decodeTableWord 32 0x02732505), (decodeTableWord 32 0x04732505), (decodeTableWord
    32 0x06732505), (decodeTableWord 32 0x00530507), (decodeTableWord 32 0x00532507), (decodeTableWord 32 0x00534507), (decodeTableWord 32
    0x00536507), (decodeTableWord 32 0x00530509), (decodeTableWord 32 0x00532509), (decodeTableWord 32 0x00534509), (decodeTableWord 32
    0x00536509)] = [
some (.mul .w32 5 6 7), some (.mulh .w32 5 6 7), some (.div .w32 5 6 7), some (.rem .w32 5 6 7), some (.addImmD 5 6 5), some (.andImmD 5 6 5), some
    (.orImmD 5 6 5), some (.xorImmD 5 6 5), some (.shlImmD 5 6 5), some (.shrImmD 5 6 5), some (.sarImmD 5 6 5), some (.sltImmD 5 6 5)] := by
    decide

theorem test_decode_base_2 : [(decodeTableWord 32 0x0053050B), (decodeTableWord 32 0x0053250B), (decodeTableWord 32 0x0053450B), (decodeTableWord
    32 0x0053650B), (decodeTableWord 32 0x00530517), (decodeTableWord 32 0x00532517), (decodeTableWord 32 0x00534517), (decodeTableWord 32
    0x00536517), (decodeTableWord 32 0x00530519), (decodeTableWord 32 0x00532519), (decodeTableWord 32 0x00534519), (decodeTableWord 32
    0x00536519)] = [
some (.sltuImmD 5 6 5), some (.minImmD 5 6 5), some (.maxImmD 5 6 5), some (.mulImmD 5 6 5), some (.addImmW 5 6 5), some (.andImmW 5 6 5), some
    (.orImmW 5 6 5), some (.xorImmW 5 6 5), some (.shlImmW 5 6 5), some (.shrImmW 5 6 5), some (.sarImmW 5 6 5), some (.sltImmW 5 6 5)] := by
    decide

theorem test_decode_base_3 : [(decodeTableWord 32 0x0053051B), (decodeTableWord 32 0x0053251B), (decodeTableWord 32 0x0053451B), (decodeTableWord
    32 0x0053651B), (decodeTableWord 32 0x0000A50D), (decodeTableWord 32 0x0000A50F), (decodeTableWord 32 0x00530511), (decodeTableWord 32
    0x00532011), (decodeTableWord 32 0x54730913), (decodeTableWord 32 0x54731913), (decodeTableWord 32 0x54732913), (decodeTableWord 32
    0x54733913)] = [
some (.sltuImmW 5 6 5), some (.minImmW 5 6 5), some (.maxImmW 5 6 5), some (.mulImmW 5 6 5), some (.li 5 5), some (.leaPc 5 5), some (.leaReg 5 6
    5), some (.jr 6 5), some (.beq 6 7 681), some (.bne 6 7 681), some (.blt 6 7 681), some (.bge 6 7 681)] := by decide

theorem test_decode_base_4 : [(decodeTableWord 32 0x54734913), (decodeTableWord 32 0x54735913), (decodeTableWord 32 0x00054515), (decodeTableWord
    32 0x00054015), (decodeTableWord 32 0x0400051D), (decodeTableWord 32 0x0430201D), (decodeTableWord 32 0x0500401D), (decodeTableWord 32
    0x0000601D), (decodeTableWord 32 0x0500801D), (decodeTableWord 32 0x0000A01D), (decodeTableWord 32 0xF850C01D), (decodeTableWord 32
    0x0001001D)] = [
some (.bltu 6 7 681), some (.bgeu 6 7 681), some (.jal 5 42), some (.b 42), some (.krd 5 4), some (.kwr 6 4), some (.trap 5), some .kret, some
    (.ebrk 5), some .halt, some (.wait 7 6 0 5), some .nop] := by decide

theorem test_decode_access_0 : [(decodeTableWord 32 0x0000E01D), (decodeTableWord 32 0x0073001F), (decodeTableWord 32 0x02A34531), (decodeTableWord
    32 0x02A34533), (decodeTableWord 32 0x02A34535), (decodeTableWord 32 0x02A34537), (decodeTableWord 32 0x20732539), (decodeTableWord 32
    0x22732539), (decodeTableWord 32 0x24732539), (decodeTableWord 32 0x26732539), (decodeTableWord 32 0x28732539), (decodeTableWord 32
    0x2A732539)] = [
some .rend, some (.fork 6 7), some (.ld 2 5 6 42), some (.ldAcq 2 5 6 42), some (.st 2 5 6 42), some (.stRel 2 5 6 42), some (.amoSwap .acq .w32 5
    6 7), some (.amoCas .acq .w32 5 6 7), some (.amoAdd .acq .w32 5 6 7), some (.amoAnd .acq .w32 5 6 7), some (.amoOr .acq .w32 5 6 7), some
    (.amoXor .acq .w32 5 6 7)] := by decide

theorem test_decode_access_1 : [(decodeTableWord 32 0x2C732539), (decodeTableWord 32 0x2E732539), (decodeTableWord 32 0x30732539), (decodeTableWord
    32 0x0000003B), (decodeTableWord 32 0x0200003B), (decodeTableWord 32 0x0400003B), (decodeTableWord 32 0x1073053B), (decodeTableWord 32
    0x1273003B), (decodeTableWord 32 0x1473003B), (decodeTableWord 32 0x2073003B), (decodeTableWord 32 0x2273053B), (decodeTableWord 32
    0x3003053B)] = [
some (.amoMin .acq .w32 5 6 7), some (.amoMax .acq .w32 5 6 7), some (.amoFadd .acq 5 6 7), some .fenceAcq, some .fenceRel, some .fenceFull, some
    (.stashMap 5 6 7), some (.stashUnmap 6 7), some (.stashWb 6 7), some (.spill 6 7), some (.fill 5 6 7), some (.tstate 5 6)] := by decide

theorem test_decode_encoding_0 : [(decodeTableWord 32 0x1324AA21), (decodeTableWord 32 0x4003023B), (decodeTableWord 32 0x4203023B)] = [
    some (.fmt 1 3 2 9 10 2), some (.tmld 6 2), some (.tmst 6 2)] := by decide

theorem test_decode_scheduler_0 : [(decodeTableWord 32 0x00730541), (decodeTableWord 32 0x02730541), (decodeTableWord 32 0x04000041),
    (decodeTableWord 32 0x06000041), (decodeTableWord 32 0x08730541), (decodeTableWord 32 0x0A030541), (decodeTableWord 32 0x0C730541),
    (decodeTableWord 32 0x10730541), (decodeTableWord 32 0x12730541), (decodeTableWord 32 0x00054043)] = [
some (.spawn 5 6 7), some (.spawnt 5 6 7), some .retire, some .yield, some (.chopen 5 6 7), some (.chclose 5 6), some (.nest 5 6 7), some
    (.chbudget 5 6 7), some (.chprio 5 6 7), some (.nextit 42)] := by decide

theorem test_decode_vector_0 : [(decodeTableWord 32 0x14E66561), (decodeTableWord 32 0x34E66561), (decodeTableWord 32 0x54E66561), (decodeTableWord
    32 0x74E66561), (decodeTableWord 32 0x94E66561), (decodeTableWord 32 0xB4E66561), (decodeTableWord 32 0xD4E66561), (decodeTableWord 32
    0xF4066561), (decodeTableWord 32 0x14E66563), (decodeTableWord 32 0x34E66563), (decodeTableWord 32 0x54E66563), (decodeTableWord 32
    0x74E66563)] = [
some (.vfadd .w32 (some 3) 5 6 7), some (.vfsub .w32 (some 3) 5 6 7), some (.vfmul .w32 (some 3) 5 6 7), some (.vfma .w32 (some 3) 5 6 7), some
    (.vfms .w32 (some 3) 5 6 7), some (.vfmin .w32 (some 3) 5 6 7), some (.vfmax .w32 (some 3) 5 6 7), some (.vfabs .w32 (some 3) 5 6), some (.vadd
    .w32 (some 3) 5 6 7), some (.vsub .w32 (some 3) 5 6 7), some (.vmul .w32 (some 3) 5 6 7), some (.vmin .w32 (some 3) 5 6 7)] := by decide

theorem test_decode_vector_1 : [(decodeTableWord 32 0x94E66563), (decodeTableWord 32 0xB4E66563), (decodeTableWord 32 0xD4E66563), (decodeTableWord
    32 0xF4E66563), (decodeTableWord 32 0x14866565), (decodeTableWord 32 0x34866565), (decodeTableWord 32 0x54866565), (decodeTableWord 32
    0x74E66565), (decodeTableWord 32 0x94E66565), (decodeTableWord 32 0xB4066565), (decodeTableWord 32 0xD4066565), (decodeTableWord 32
    0x14E66567)] = [
some (.vmax .w32 (some 3) 5 6 7), some (.vand .w32 (some 3) 5 6 7), some (.vor .w32 (some 3) 5 6 7), some (.vxor .w32 (some 3) 5 6 7), some (.vshl
    .w32 (some 3) 5 6 4), some (.vshr .w32 (some 3) 5 6 4), some (.vsar .w32 (some 3) 5 6 4), some (.vsadd .w32 (some 3) 5 6 7), some (.vssub .w32
    (some 3) 5 6 7), some (.vabs .w32 (some 3) 5 6), some (.vneg .w32 (some 3) 5 6), some (.vcmpeq .w32 (some 3) 5 6 7)] := by decide

theorem test_decode_vector_2 : [(decodeTableWord 32 0x34E66567), (decodeTableWord 32 0x54E66567), (decodeTableWord 32 0x74E66567), (decodeTableWord
    32 0x94E66567), (decodeTableWord 32 0xB4E66567), (decodeTableWord 32 0xD4E66567), (decodeTableWord 32 0x14E66569), (decodeTableWord 32
    0x34E66569), (decodeTableWord 32 0x54E66569), (decodeTableWord 32 0x74E66569), (decodeTableWord 32 0x94E66569), (decodeTableWord 32
    0xB4E66569)] = [
some (.vcmplt .w32 (some 3) 5 6 7), some (.vcmple .w32 (some 3) 5 6 7), some (.vfcmpeq .w32 (some 3) 5 6 7), some (.vfcmplt .w32 (some 3) 5 6 7),
    some (.vfcmple .w32 (some 3) 5 6 7), some (.vsel .w32 3 5 6 7), some (.vfredsum .w32 (some 3) 5 6 7), some (.vfredmax .w32 (some 3) 5 6 7),
    some (.vfredmin .w32 (some 3) 5 6 7), some (.vredsum .w32 (some 3) 5 6 7), some (.vredmax .w32 (some 3) 5 6 7), some (.vredmin .w32 (some 3) 5
    6 7)] := by decide

theorem test_decode_vector_3 : [(decodeTableWord 32 0xD4E66569), (decodeTableWord 32 0xF4866569), (decodeTableWord 32 0x1626656B), (decodeTableWord
    32 0x30E6056B), (decodeTableWord 32 0x5406656B), (decodeTableWord 32 0x7406656B), (decodeTableWord 32 0x9406656B), (decodeTableWord 32
    0xB406656B), (decodeTableWord 32 0xD0E6056B), (decodeTableWord 32 0x02A3056D), (decodeTableWord 32 0x02A3256D)] = [
some (.vperm .w32 (some 3) 5 6 7), some (.vslide .w32 (some 3) 5 6 4), some (.vcvt .w32 (some 3) 5 6 true 1), some (.vcvts .w32 5 6 7), some
    (.vexp2 .w32 (some 3) 5 6), some (.vrcp .w32 (some 3) 5 6), some (.vrsq .w32 (some 3) 5 6), some (.vbcast .w32 (some 3) 5 6), some (.vextr .w32
    5 6 7), some (.vld 5 6 42), some (.vst 5 6 42)] := by decide

theorem test_decode_page_0 : [(decodeTableWord 32 0x0CE6656F), (decodeTableWord 32 0x30E6056F), (decodeTableWord 32 0x54E6646F)] = [
    some (.kvdec (some 3) 5 6 7), some (.kvscore 5 6 7), some (.topk (some 3) 4 6 7)] := by decide

theorem test_decode_messages_0 : [(decodeTableWord 32 0x00730581), (decodeTableWord 32 0x02730581), (decodeTableWord 32 0x04730581),
    (decodeTableWord 32 0x06030581), (decodeTableWord 32 0x08000081), (decodeTableWord 32 0x0A730581)] = [
    some (.send 5 6 7), some (.sendd 5 6 7), some (.cbind 5 6 7), some (.cunbind 5 6), some .mret, some (.mpoll 5 6 7)] := by decide

theorem test_decode_streamer_0 : [(decodeTableWord 32 0x0C900589), (decodeTableWord 32 0x0C922589), (decodeTableWord 32 0x0C524589),
    (decodeTableWord 32 0x0C526589), (decodeTableWord 32 0x00908589), (decodeTableWord 32 0x0C90A589), (decodeTableWord 32 0x0090C589),
    (decodeTableWord 32 0x0090E589)] = [
some (.copy 5 3 9), some (.copym 5 3 9 2), some (.gather 5 3 5 2), some (.scatter 5 3 5 2), some (.cfill 5 9), some (.kvmove 5 3 9), some
    (.stripeUpd 5 9), some (.stripeRec 5 9)] := by decide

theorem test_decode_basin_0 : [(decodeTableWord 32 0x0C900591), (decodeTableWord 32 0x0C002591), (decodeTableWord 32 0x0C004591), (decodeTableWord
    32 0x00906591), (decodeTableWord 32 0x0C016091), (decodeTableWord 32 0x00948591), (decodeTableWord 32 0x0090A591)] = [
some (.balloc 5 3 9), some (.bseal 5 3), some (.bld 5 3), some (.bforfeit 5 9), some (.bforfeitT 3), some (.bquery 5 9 4), some (.bpart 5 9)] := by
    decide

theorem test_decode_matrix_0 : [(decodeTableWord 32 0x00900599), (decodeTableWord 32 0x00002599), (decodeTableWord 32 0x0C924499), (decodeTableWord
    32 0x0C926499), (decodeTableWord 32 0x0C908499), (decodeTableWord 32 0x0C90A499), (decodeTableWord 32 0x0C00C099), (decodeTableWord 32
    0x0C92E599), (decodeTableWord 32 0x0094059B)] = [
some (.mteamJoin 5 9), some (.mteamLeave 5), some (.mldb 3 9 2 4), some (.mlda 3 9 2 4), some (.mma 3 9 4), some (.mmat 3 9 4), some (.mzero 3),
    some (.mst 5 3 9 2), some (.mchk 5 9 4)] := by decide

theorem test_decode_noise_0 : [(decodeTableWord 32 0x0090259B), (decodeTableWord 32 0x0090449B), (decodeTableWord 32 0x0090659B), (decodeTableWord
    32 0x0090859B)] = [
    some (.nkey 5 9), some (.mmember 9 4), some (.ngen 5 9), some (.ngrad 5 9)] := by decide

theorem test_decode_walk_0 : [(decodeTableWord 32 0x007305A1), (decodeTableWord 32 0x027305A1), (decodeTableWord 32 0x047005A1), (decodeTableWord
    32 0x067305A1), (decodeTableWord 32 0x087305A1), (decodeTableWord 32 0x0A0305A1), (decodeTableWord 32 0x007305A3)] = [
some (.tlbw 5 6 7), some (.tlbi 5 6 7), some (.tlbig 5 7), some (.ship 5 6 7), some (.migrBegin 5 6 7), some (.migrEnd 5 6), some (.pgreq 5 6 7)]
    := by decide

theorem test_decode_hinge_0 : [(decodeTableWord 32 0x000005A9), (decodeTableWord 32 0x020005A9), (decodeTableWord 32 0x040005A9), (decodeTableWord
    32 0x060305A9)] = [
    some (.pair 5), some (.unpair 5), some (.fpx 5), some (.pstat 5 6)] := by decide

theorem test_decode_reserve_0 : [(decodeTableWord 32 0x007305B1), (decodeTableWord 32 0x020305B1), (decodeTableWord 32 0x040305B1),
    (decodeTableWord 32 0x067305B1)] = [
    some (.msdecl 5 6 7), some (.msopen 5 6), some (.msclose 5 6), some (.msquery 5 6 7)] := by decide

theorem test_decode_encoding16_0 : [(decodeTableWord 16 0x3142), (decodeTableWord 16 0x3162), (decodeTableWord 16 0x3144), (decodeTableWord 16
    0x3164), (decodeTableWord 16 0x3146), (decodeTableWord 16 0x14A8), (decodeTableWord 16 0x14AA), (decodeTableWord 16 0x14AC), (decodeTableWord
    16 0x14AE), (decodeTableWord 16 0x14B0), (decodeTableWord 16 0x14B2), (decodeTableWord 16 0x14B4)] = [
some (.add16 5 6), some (.sub16 5 6), some (.and16 5 6), some (.or16 5 6), some (.xor16 5 6), some (.addImm16 5 5), some (.li16 5 5), some (.shl16
    5 5), some (.shr16 5 5), some (.sar16 5 5), some (.ld16 5 5), some (.st16 5 5)] := by decide

theorem test_decode_encoding16_1 : [(decodeTableWord 16 0x0556), (decodeTableWord 16 0xA8D8), (decodeTableWord 16 0xA8DA), (decodeTableWord 16
    0x301C), (decodeTableWord 16 0x003C), (decodeTableWord 16 0x005C), (decodeTableWord 16 0x007C)] = [
    some (.b16 42), some (.beq16 6 42), some (.bne16 6 42), some (.jr16 6), some .nop16, some .rend16, some .ebrk16] := by decide
/-- Encodings printed in the vector chapter (R257). -/
theorem test_decode_vector_accesses : [decodeTableWord 32 0x0802036D, decodeTableWord 32 0x0002A06D] = [some (.vld 3 4 128), some (.vst 0 5 0)] := by
  decide

/-! ## Well-formedness: an ill-formed term for each check -/

theorem test_ill_formed_shifts_d :
    (WellFormed (.shlImmD 1 2 64), WellFormed (.shrImmD 1 2 64), WellFormed (.sarImmD 1 2 0x800)) = (false, false, false) := by decide

theorem test_ill_formed_shifts_w :
    (WellFormed (.shlImmW 1 2 32), WellFormed (.shrImmW 1 2 32), WellFormed (.sarImmW 1 2 63)) = (false, false, false) := by decide

theorem test_well_formed_shifts : (WellFormed (.shlImmD 1 2 63), WellFormed (.sarImmW 1 2 31)) = (true, true) := by decide

theorem test_ill_formed_jal : (WellFormed (.jal 0 4), WellFormed (.jal 1 4)) = (false, true) := by decide

theorem test_ill_formed_events : (WellFormed (.gangStop ⟨0, 0⟩), WellFormed (.ejectFlit 0), WellFormed .coldReset) = (false, false, false) := by decide

/-- Words that the encoding tables leave unassigned, and shift amounts out of range, are refused (R99, R110, R158). -/
theorem test_decode_refuses : [decodeTableWord 32 0x00734501, decodeTableWord 32 0xFFFFFFFF, decodeTableWord 16 0x001E] = [none, none, none] := by
  decide

/-! ## Values that the spec works out -/

/-- The table after R157: division, its corners, and 32-bit forms. -/
theorem test_division_table :
    (AluOp.div.apply 64 (-7) 2, AluOp.rem.apply 64 (-7) 2, AluOp.div.apply 64 12 0, AluOp.rem.apply 64 12 0) =
      (-3, -1, 0xFFFFFFFFFFFFFFFF#64, 12) := by decide

theorem test_division_overflow :
    (AluOp.div.apply 64 0x8000000000000000#64 (-1), AluOp.rem.apply 64 0x8000000000000000#64 (-1), AluOp.mulh.apply 64 (-1) 3) =
      (0x8000000000000000#64, 0, 0xFFFFFFFFFFFFFFFF#64) := by decide

/-- R45: the check value of the CRC. -/
theorem test_crc : crc32c [0x31, 0x32, 0x33, 0x34, 0x35, 0x36, 0x37, 0x38, 0x39] = 0xE3069283#32 := by decide +kernel

/-- The example of `vexp2.w`: 0.5, 3.5 and -2. -/
theorem test_vexp2 :
    [0x3F000000#32, 0x40600000#32, 0xC0000000#32].map (fun x => encodeNum .fp32 false false (exp2Of (f32 x))) =
      [0x3FB504F3, 0x413504F3, 0x3E800000] := by decide +kernel

/-! ## States for the witnesses -/

namespace W

/-- own SRAM at va 0, frame of memory at 0x4000. -/
def sram : Nat := globalAddr 0 0 0 0
def hbm : Nat := globalAddr 0 16 0 0
def root : Chamber := { chamberOf [] (hbm + 0x10000) 1 0 with cores := 64, power := 200, prio := 5, live := 1, cuse := 1, weights := 1, msave := 0x100000, ovr := 0 }
def ctxA : Context := ⟨1, hbm + 0x10000, 0, 0, 1, hbm + 0x10200, 0, 1, 0, 0, false, 2, [root]⟩
def taskA : Task := { placedTask with record := setBits (setBits 0 160 (1#32)) 448 (1#32), groups := 1 }
def core0 : Core := { Core.reset 0 with
  thr := ⟨Vector.ofFn fun i => BitVec.ofNat 64 (64 * i.val), 0x100, 0x8, 0, 0, 0, 0x1000, 0⟩
  ctl := { Control.reset with run := .task, task := some taskA, k := { KRegs.reset with kctx := ctxWord 1 1, kpower := 3 } }
  mem := { Mem.reset with
    tlb := [placedEntry 1 0 sram, placedEntry 1 0x4000 (hbm + 0x4000)]
    pages := Vector.ofFn fun i => if i.val < 4 then ⟨.tile, 0, true, true, 0⟩ else ⟨.free, 0, false, false, 0⟩ } }
def start : State := { State.reset with core := core0, work := { Work.reset with ctxs := [ctxA] } }
/-- Register 6 points to the HBM page. -/
def far : State := start.setG 6 0x4000
/-- The control sequencer leads a hinge pair with core 1. -/
def paired : State := { start with core := { core0 with pair := some ⟨1, [], 0, 0, 0, 0, core0.pairRegs, core0.pairRegs, 0, 0, false, .none, .none, false, .none⟩ } }
/-- A state with its acting core changed. -/
def withCore (s : State) (f : Core → Core) : State := { s with core := f s.core }
/-- The operand of a page instruction: one page of HBM. -/
def onePage : State := far.setG 7 1
/-- No local page is free. -/
def fullPages : State := W.withCore onePage fun k => k.modMem fun m => { m with pages := Vector.replicate 128 ⟨.tile, 0, true, true, 0⟩ }
/-- The task's scratch page at 0x8000 is in local page 4. -/
def scratchHere : State := (W.withCore ((start.setG 6 0x8000).setG 7 1) fun k => k.setPage 4 ⟨.scratch, 0, false, true, 0⟩).modCtl fun c =>
  { c with task := some { taskA with scratch := [⟨some 8, hbm / 4096 + 9, some 4⟩] } }
/-- The task's scratch page at 0x8000 is spilled. -/
def scratchAway : State := ((start.setG 6 0x8000).setG 7 1).modCtl fun c =>
  { c with task := some { taskA with scratch := [⟨some 8, hbm / 4096 + 9, .none⟩] } }
/-- The same with no free page. -/
def scratchFull : State := W.withCore scratchAway fun k => k.modMem fun m => { m with pages := Vector.replicate 128 ⟨.tile, 0, true, true, 0⟩ }
/-- A record of chamber 1 at 0x180, where register 6 points; register 7 holds 0. -/
def record : State := { start.setG 7 0 with mem := writeBytes [] (sram + 0x180) (recBytes taskA.record) }
/-- The same with a full deque. -/
def fullDeque : State := W.withCore record fun k => { k with sched := { k.sched with deque := List.replicate 256 ⟨taskA.record, 1, false, false, 0, 1⟩ } }
/-- The acting sequencer's request has its answer. -/
def answered : State := record.modCtl fun c => { c with awaits := [⟨1, .control, 0x100, 0, [(0, [0, 0, 0, 0, 0, 0, 0, 0])], 0, true, false, false, false, 0, 0, 0⟩] }
/-- At firmware privilege. -/
def firmware : State := start.modThr fun r => { r with kstatus := 0x28 }
/-- The task holds update window 3. -/
def windowed : State := start.modCtl fun c => { c with task := some { taskA with windows := [3] } }
/-- The resume list is full. -/
def fullResume : State := withCore start fun k => { k with sched := { k.sched with
  resume := List.replicate 32 ⟨⟨taskA, k.thr, k.ctl.idx, k.ctl.k, k.ctl.oc, k.vs, k.ms, k.vec, k.mem.tiles, [], .none, false, []⟩, true, false, false⟩ } }
/-- The bytes of an RCB without its CRC: its parent is at 0x10000, its version 1.0. -/
def rcbBytes : List Byte := toBytes 8 0x10000 ++ toBytes 8 0x0100 ++ List.replicate 236 0
/-- An RCB at 0x200, where register 6 points. -/
def rcb : State := { (start.setG 6 0x200).setG 7 0 with
  core := { ((start.setG 6 0x200).setG 7 0).core with mem := { core0.mem with tlb := core0.mem.tlb ++ [placedEntry 1 0x10000 (hbm + 0x10000)] } }
  mem := writeBytes [] (sram + 0x200) (rcbBytes ++ toBytes 4 0xE71C7D7C) }
/-- A lifeless chamber 2. -/
def lifeless : State := { (start.setG 6 2).setG 7 2 with work := { Work.reset with ctxs := [{ ctxA with
  chambers := [root, { root with cid := 2, rcb := hbm + 0x20000, parent := 1, cst := 4, live := 0, cuse := 0, weights := 0, power := 0, cores := 0, msave := 0 }] }] } }
/-- A nest of chamber 2 has iterations left. -/
def nested : State := { lifeless with work := { Work.reset with ctxs := [{ ctxA with
  chambers := [root, { root with cid := 2, rcb := hbm + 0x20000, parent := 1, nest := ⟨1, true, 9, 10, 3⟩ }] }] } }
/-- The iteration fetcher holds a chunk. -/
def chunk : State := start.modCtl fun c => { c with task := some { taskA with fetcher := ⟨5, 8, 0x0001000200030004, 1⟩ } }
/-- Its request for a chunk is answered with none. -/
def noChunk : State := start.modCtl fun c => { c with awaits := [⟨1, .control, 0x100, 0, [], 0, true, false, false, false, 0, 0, 0⟩] }
/-- Vector registers and masks that differ. -/
def vec : State := withCore start fun k => { k with vec := { k.vec with
  v := Vector.ofFn fun i => BitVec.ofNat 1024 ((i.val + 1) * 0x3C0045E1F2A3B4C5 ^ 15 + i.val * 0x3F80000041200000C2C80000)
  p := Vector.ofFn fun i => BitVec.ofNat 64 (0xF0F0A5A5C3C33C3C / (i.val + 1)) } }
/-- A prefix is pending: formats FA, FB, FD. -/
def prefixed (s : State) (fa fb fd : Nat) : State := s.modThr fun r => { r with kstatus := r.kstatus ||| 2, kpfx := BitVec.ofNat 64 (fa * 2 ^ 20 + fb * 2 ^ 16 + fd * 2 ^ 12) }
/-- A KV page of 8 tokens at the start of own memory. -/
def kvPage (ns : Nat) : State := { (vec.setG 6 0).setG 7 0 with mem := [(sram + 1, 1), (sram + 2, 1), (sram + 3, 8), (sram + 16, 120)] ++
  (if ns = 0 then [] else [(sram + 17, 1)]) ++ ((List.range 64).map fun i => (sram + 64 + 4 * i, BitVec.ofNat 8 (37 * i % 255 + 1))) ++
  ((List.range 32).map fun i => (sram + 0x4C0 + i, BitVec.ofNat 8 (37 * i % 255 + 1))) }
/-- The unit of a core, and the home slice of HBM. -/
def unitOf (c : CoreName) : UnitName := coreUnit start c
/-- A destination word for class `cls` of core 1 of die `die` of package `pkg`. -/
def target (pkg die unit cls : Nat) : Word := BitVec.ofNat 64 (pkg * 2 ^ 54 + die * 2 ^ 49 + unit * 2 ^ 41 + cls)
/-- Register 6 holds a destination word. -/
def sender (w : Word) : State := start.setG 6 w
/-- The package's scale-up ports are fused off. -/
def fusedOff : State := let s := sender (target 1 0 1 64); { s with mgmt := { s.mgmt with domain := { s.mgmt.domain with fused := true } } }
/-- A core of a service cluster, at user privilege. -/
def toService : State := (sender (target 0 0 51 64)).modThr fun r => { r with kstatus := 0x8 }
/-- Register 7 points to a binding block whose entry is 0x400; register 6 holds class 64. -/
def binder : State := { (start.setG 6 64).setG 7 0x200 with mem := [(sram + 0x201, 4)] }
/-- The block breaks the rules: its last doubleword is not 0. -/
def badBinder : State := { binder with mem := [(sram + 0x201, 4), (sram + 0x218, 1)] }
/-- A binding of class 64. -/
def bind64 (polled : Bool) (task : Nat) : Bind := ⟨0, 1, 64, polled, 0x400, 0x600, if polled then hbm + 0x4000 else 0, 1, 0, false, 0, task⟩
/-- Class 64 is bound. -/
def bound (b : Bind) : State := withCore binder fun k => { k with msg := { k.msg with binds := [b] } }
/-- Every core has the install. -/
def installed : State := { binder with
  core := { binder.core with ctl := { binder.core.ctl with awaits := [⟨0, .control, 0x100, 1, [], 0, true, false, false, false, 0, 0, 0⟩] } }
  work := { binder.work with parts := [⟨[0], [], 0, 0, false, [], 0, false, false, 0⟩] }
  fab := { binder.fab with installs := [⟨bind64 false 0, false, true, 5, 0, 1, (List.range 256).map (BitVec.ofNat 16)⟩] } }
/-- An accepted message of class 64, with its binding if it has one. -/
def message (nw : Bool) (b : Option Bind) : Inbound := ⟨unitOf 2, unitOf 0, 1, 5, 1, 64, nw, true, [9, 10, 11, 12], [], b⟩
/-- A polled class with a message. -/
def polled (nw : Bool) : State := withCore binder fun k => { k with msg := { k.msg with
  binds := [bind64 true 1], fast := [message nw (some (bind64 true 1))] } }
/-- A routine is to start. -/
def toStart : State := withCore start fun k => { k with msg := { k.msg with inbox := [message false (some (bind64 false 0))] } }
/-- A message that no class takes. -/
def unbound : State := withCore start fun k => { k with msg := { k.msg with unbound := [message false .none] } }
/-- A routine runs. -/
def routine : State := { withCore start fun k => { k with msg := { k.msg with busy := true, regs := (message false .none).bank (bind64 false 0) } } with seq := .routine }
/-- An outstanding request of core 0 with its answer. -/
def asked (cls : BitVec 10) (dst : UnitName) (b : Body) (p : Purpose) (a : Option (Byte × Body)) : Outst :=
  ⟨unitOf 0, dst, 1, 4, cls, 1, false, false, false, 0, b, p, false, false, false, .none, .none, a⟩
/-- A message's completion has come. -/
def completed : State := { start with fab := { start.fab with
  outst := [asked 64 (unitOf 1) (.msg [0, 0, 0, 0] []) (.send 0 .control 6 (target 0 0 1 64) 1 7) (some (0, .value [3]))] } }
/-- An install that has reached no core. -/
def installing : State := { installed with fab := { installed.fab with installs := [⟨bind64 false 0, false, true, 5, 0, 1, []⟩] } }
/-- The control word of a block: length, direction, offset in lines. -/
def controlWord (out : Bool) (off len : Nat) : Word := BitVec.ofNat 64 (off * 2 ^ 32 + (if out then 2 ^ 31 else 0) + len)
/-- A tensor map: its base, elements a row less one, rows less one, format; extents 64 by 4, a row every 256 bytes. -/
def mapOf (base cols rows fmt : Nat) : TMap := BitVec.ofNat 256 (base + 63 * 2 ^ 64 + 3 * 2 ^ 80 + 256 * 2 ^ 128 + fmt * 2 ^ 224 + 2 ^ 228 + cols * 2 ^ 230 + rows * 2 ^ 238 + 2 ^ 255)
/-- Tile 3 has 16 pages and tile 4 one, both ready; map 2 is of HBM; the block in registers 9 to 11. -/
def tiled (x y z : Word) : State := withCore (((start.setG 9 x).setG 10 y).setG 11 z) fun k => { k with
  vec := { k.vec with m := k.vec.m.set 2 (mapOf 0x4000 31 1 0) }
  mem := { k.mem with
    tiles := (k.mem.tiles.set 3 0x10F2).set 4 0x2802
    pages := Vector.ofFn fun i => if i.val < 4 ∨ 16 ≤ i.val ∧ i.val < 41 then ⟨.tile, if i.val = 40 then 4 else 3, true, true, 0⟩ else ⟨.free, 0, false, false, 0⟩ } }
/-- At service privilege. -/
def service (s : State) : State := s.modThr fun r => { r with kstatus := 0x18 }
/-- Region 0 of the stripe table, of context `x`. -/
def striped (s : State) (x : BitVec 16) : State := { s with stripes := [⟨0, x, 4, (List.range 6).map fun i => globalAddr 0 (16 + i % 4) 0 (0x100000 + 0x100000 * i), 0, true, 0⟩] }
/-- An operation of core 0's table: one piece from HBM to tile 3. -/
def op (kind : OpKind) (m : Move) : EngineOp := ⟨7, 1, .control, kind, 5, 0, false, some 3, 0x4000, [m], 0, 0, 0⟩
/-- A piece. -/
def move (src dst : Nat) (data : List Byte) : Move := ⟨some src, some dst, 0x4000, 4, 0, data, false, .todo⟩
/-- Core 0 has the operation, and the queue holds a request about it. -/
def serving (o : Option EngineOp) (r : Recv) : State := { withCore (tiled 0 0 0) (fun k => k.modMem fun m => { m with ops := o.toList }) with
  fab := { start.fab with rxq := [r], srcCh := [], dstCh := [⟨r.src, r.dst, 1, 5, []⟩] } }
/-- A request in a queue. -/
def recv (src dst : UnitName) (cls : BitVec 10) (b : Body) : Recv := ⟨src, dst, 1, 4, cls, 1, false, false, b, [], [], false, false, .none, false⟩
/-- The home slice of HBM line 0x4000. -/
def home : UnitName := start.ownerUnit (hbm + 0x4000)
/-- The piece from HBM to the first bytes of tile 3, and the other way. -/
def inMove : Move := move (hbm + 0x4000) (sram + 0x10000) []
def outMove : Move := { move (sram + 0x10000) (hbm + 0x4000) [1, 2, 3, 4] with st := .sent }
/-- The task owes two reads of partition 1. -/
def debtor : Task := { taskA with record := setBits (setBits taskA.record 384 (partWord 1)) 472 (2#8) }
/-- The basin: partition 1 of chamber 1 with a tile sealed and one open. -/
def basin1 : BPart := ⟨1, 1, 1, 8, 4, 3, Vector.replicate 16 ⟨0, .none⟩, [⟨1, 1, .sealed, false, 2, [1], (1, 3), 32, [7, 8]⟩, ⟨2, 1, .opened, false, 1, [1], (1, 3), 0, []⟩], [], []⟩
/-- Register 6 holds `w`; tiles 3 and 4 are ready and tile 5 is empty. -/
def basined (w : Word) : State := { ((tiled 0 0 0).setG 6 w).modCtl fun c => { c with task := some debtor } with basins := [basin1] }
/-- No page is free. -/
def crowded (w : Word) : State := withCore (basined w) fun k => k.modMem fun m => { m with pages := Vector.replicate 128 ⟨.tile, 3, true, true, 0⟩ }
/-- The answer to the instruction's request. -/
def told (s : State) (w : Word) : State := s.modCtl fun c => { c with awaits := [⟨1, .control, 0x100, 0, [(0, toBytes 8 w.toNat)], 0, true, false, false, false, 0, 0, 0⟩] }
/-- Tile 3 is bound to sequence 2. -/
def boundTile3 : State := withCore (basined 0) fun k => k.setTile 3 (boundEntry 0x10F2 (partWord 1 ||| 2))
/-- A basin request that waits at the slice. -/
def basinRecv (q : BasinReq) : Recv := recv (unitOf 0) (sliceUnit 0 0 0) 22 (.basin q)
/-- An allocation that can be granted, and a read that can be served. -/
def granting : State := { basined 0 with
  fab := { start.fab with rxq := [basinRecv (.alloc 1 1 1 1 1 3)] }
  work := { start.work with ctxs := [{ ctxA with chambers := [{ root with basin := 0x100000 }] }] }
  basins := [{ basin1 with queue := [⟨(unitOf 0, 1, 4), 1, 1, 1, (1, 3)⟩] }] }
/-- Tile 3 is bound to a basin tile that there is not. -/
def strayTile3 : State := withCore (basined 0) fun k => k.setTile 3 (boundEntry 0x10F2 (partWord 2 ||| 5))
/-- A read that the slice can accept, of the sealed tile at the cursor. -/
def readRecv : Recv := basinRecv (.read (partWord 1 ||| 1) 2 16 1 7)
def accepting : State := { basined 0 with
  fab := { start.fab with rxq := [readRecv] }
  basins := [{ basin1 with lanes := Vector.replicate 16 ⟨1, .none⟩ }] }
/-- A read that the slice serves, a line of it to be sent. -/
def sendingLine : State := { basined 0 with fab := { start.fab with rxq := [basinRecv (.serving 1 1 7 (List.replicate 128 5) 0 1)], srcCh := [⟨sliceUnit 0 0 0, unitOf 0, 1, 5, true⟩] } }
def serveRead : State := { basined 0 with
  fab := { start.fab with rxq := [basinRecv (.read (partWord 1) 2 16 1 7)] }
  basins := [{ basin1 with reads := [⟨0, (unitOf 0, 1, 4), partWord 1, 1, 0, 16, 1, 7⟩] }] }
/-- A map of M8 elements that starts a tile, 32 by 4. -/
def m8Map : TMap := mapOf 0x4000 31 3 3
/-- The unit is on; register 6 holds `w`; map 2 is of the format `f`. -/
def matrix (w : Word) (f : Nat) : State := withCore ((tiled 0 0 0).setG 6 w) fun k => { k with
  vec := { k.vec with m := k.vec.m.set 2 (mapOf 0x4000 31 3 f) } }
/-- Slot 2 and bank 0 hold M8 operands of 32 by 4. -/
def filled (m : Matrix) : Matrix :=
  let b := m.fillSlots 2 .m8 ((List.range 512).map fun i => BitVec.ofNat 8 (i % 64)) false false false 128 4 2
  b.setBank 0 ⟨descOf 1 false false false 3 4 (rowsField 1), loadA ((List.range 128).map fun i => BitVec.ofNat 8 (i % 50)) .m8 false false 128 1 4, false⟩
def loaded (w : Word) : State := withCore (matrix w 3) fun k => { k with mat := filled k.mat }
/-- The slot's checksum column is wrong. -/
def corrupted (w : Word) : State := withCore (loaded w) fun k => { k with mat := k.mat.setSlot 2 { k.mat.slot 2 with
  panel := { (k.mat.slot 2).panel with cs := (k.mat.slot 2).panel.cs.map (· + 1) } } }
/-- A task of a team of one row and two columns, at column `col`. -/
def teamTask (col : Nat) : Task := { taskA with record := setBits (setBits taskA.record 466 (1#3)) 465 (1#1), team := some ⟨0, col, 5⟩ }
/-- Cores 0 and 1 run the two members, each with the matrix unit `m`, the operations `l` and whatever is due. -/
def team (m : Matrix) (l : List EngineOp) (due : Bool) : State :=
  let k (col : Nat) : Core := { core0 with
    ctl := { core0.ctl with task := some (teamTask col), due := { Due.reset with preempt := due } }
    mat := m
    mem := { core0.mem with ops := l } }
  { start with core := k 0, cores := [(1, k 1)] }
/-- A task that runs alone and whose unit is in the team of its word. -/
def teamed (m : Matrix) (w : Word) : State := withCore (loaded w) fun k => { k with mat := { filled k.mat with team := m.team, accs := m.accs } }
/-- A member's partial sum for tile 3 and step 1. -/
def partial3 : Partial := ⟨0, 7, 0, 3, 1, 0, 0, 0, false, false, [[1, 2] ++ List.replicate 30 0]⟩
/-- The owner with the message that brings it. -/
def owner (m : Matrix) : State := { withCore start fun k => { k with mat := m, mem := { k.mem with ops := [op (.mmat partial3 false 0) inMove] } } with
  fab := { start.fab with rxq := [recv (unitOf 0) (unitOf 0) 17 (.psum (partial3.message 0))] } }
/-- A core whose `mmat` has one message to send. -/
def sendingSum (m : Matrix) : State := withCore start fun k => { k with mat := m, mem := { k.mem with
  ops := [{ op (.mmat partial3 false 0) inMove with moves := partial3.sends false }] } }
/-- One of the two messages of a partial. -/
def half : State := { owner Matrix.reset with fab := { start.fab with
  rxq := [recv (unitOf 0) (unitOf 0) 17 (.psum (({ partial3 with data := partial3.data ++ partial3.data } : Partial).message 0))] } }
/-- A matrix unit in a team of one, with a record of tile 3. -/
def inTeam : Matrix := { Matrix.reset with team := teamWord 0 1 1 0 0, accs := [newRecord 3] }
/-- The partial that an `mmat` issued last. -/
def issuedPartial (s : State) (i : Instr) : Partial :=
  match exec i s with
  | .next t => ((t.core.mem.ops.getLast?).bind fun o => match o.kind with
    | OpKind.mmat p _ _ => some p
    | _ => .none).getD partial3
  | _ => partial3
/-- A slot pair of format PAIR in slots 2 and 6. -/
def pairs (w : Word) : State := withCore ((tiled 0 0 0).setG 6 w) fun k => { k with mat := k.mat.fillSlots 2 .pair ((List.range 1024).map fun i => BitVec.ofNat 8 (i % 64)) false false false 128 4 2 }
/-- A fresh pair of core `c`'s registers. -/
def pairOf (k : Core) : Pair := ⟨1, [], 5, 5, 0, 7, k.pairRegs, k.pairRegs, 3, 1, false, some k.thr.pc, .none, false, .none⟩
/-- The control sequencer leads a pair, with the partner as checker; `f` changes the pair. -/
def leads (f : Pair → Pair) : State := { withCore (start.setG 6 1) fun k => { k with pair := some (f (pairOf k)) } with cores := [(1, { Core.reset 1 with ctl := { Control.reset with run := .checker } })] }
/-- The partner is reserved and idle. -/
def reservedPartner : State := { start with cores := [(start.partner, { Core.reset 1 with sched := { Sched.reset 1 with reserved := some (.pair 0) } })] }
/-- A task on core 0x22, whose partner serves translations. -/
def besideService : State := { start with cur := 0x32 }
/-- The matrix unit at power `p`. -/
def power (p : MPower) : State := { withCore start fun k => { k with mat := { k.mat with power := p } } with
  govs := if p = .queued then start.govs.set 0 { Governor.reset with wakes := [0] } else start.govs }
/-- An engine operation whose pieces have ended. -/
def ended : State := withCore start fun k => { k with
  ctl := { k.ctl with oc := { k.ctl.oc with occ := 1 }, holds := [⟨.control, 5, false⟩] }
  mem := { k.mem with ops := [op .copyIn { inMove with st := .done }], locks := [⟨.copy, true, false, sram + 0x10000, 4, [7]⟩] } }
/-- The translation service core 0x33 at firmware privilege, with registers 6, 7 and 8. -/
def walker (x y w : Word) : State := ((({ start with cur := 0x33 } : State).modThr fun r => { r with kstatus := 0x28 }).setG 6 x).setG 7 y |>.setG 8 w
/-- A good TLB entry of context 1. -/
def entry : TlbEntry := placedEntry 1 0x8000 (hbm + 0x8000)
/-- The operand word of `tlbw`: its context 1, the target field, the core, and a token. -/
def tlbWord (target core : Nat) : Word := BitVec.ofNat 64 (2 ^ 48 + target * 2 ^ 16 + core)
def tokenWord (n : Nat) : Word := BitVec.ofNat 64 (2 ^ 48 + 2 ^ 35 + n * 2 ^ 36)
/-- A miss of core 0's control sequencer at 0x8000. -/
def miss : MissReq := ⟨0x8000, 0, .control, false, 1, 0x100⟩
/-- The service holds token 4 for it. -/
def token : Token := ⟨4, 0, .control, 1, miss⟩
/-- The cluster's service. -/
def service33 (s : State) (l : List Token) (p : List (Nat × Ship)) (ring : Nat) : State := { s with services := [⟨0x33, [], ring, l, p⟩] }
/-- The miss ring. -/
def ring : Nat := hbm + 0x100000
/-- Core 0 runs the task that missed. -/
def withTask (s : State) : State := { s with cores := [(0, core0)] }
/-- Tlb entries to remove: core 0x22 of the cluster holds one of context 1 at 0x8000. -/
def withEntries (s : State) : State := { s with
  cores := [(0x22, { Core.reset 0x22 with mem := { Mem.reset with tlb := [entry, placedEntry 2 0x8000 (hbm + 0x8000)] } })], services := [⟨0x33, [entry], 0, [], []⟩] }
/-- The answer counts what the instruction removed. -/
def counted (s : State) : State := s.modCtl fun c => { c with awaits := [⟨1, .control, 0x100, 0, [(3, [])], 0, true, false, false, false, 0, 0, 0⟩] }
/-- A migration of partition 0. -/
def migrating (moved : Nat) (s : State) : State := { s with homes := { s.homes with migrations := [⟨0, 0, hbm + 0x4000, hbm + 0x8000, 128, moved⟩] } }
/-- A page of the home moves to another memory die, its first line already there. -/
def movingTo (s : State) : State := { s with homes := { s.homes with migrations := [⟨0, 0, hbm + 0x4000, globalAddr 0 17 0 0x8000, 128, 1⟩] } }
/-- The cluster's ring is set, for a core whose service is 0x33. -/
def ringed : State := { start.setG 6 0x8000 |>.setG 7 1 with services := [⟨0x33, [], ring, [], []⟩] }
/-- A parked task. -/
def parked : Ship := ⟨⟨taskA, core0.thr, core0.ctl.idx, core0.ctl.k, core0.ctl.oc, core0.vs, core0.ms, core0.vec, core0.mem.tiles, [], .none, false, []⟩, .none, [], 0x8000, []⟩
/-- The task as it is shipped. -/
def shipped : Ship := Ship.of parked.saved .none [] 0x8000
/-- Core 0 waits for its miss, and the service 0x33 holds the entries `l` and the message about it. -/
def missing (waits : Bool) (l : List TlbEntry) (body : Body) (cls : BitVec 10) (src dst : UnitName) : State := { start with
  core := { core0 with ctl := { core0.ctl with misses := if waits then [⟨.control, 0x8000, 0, false, .none⟩] else [] } }
  services := [⟨0x33, l, ring, [], []⟩]
  fab := { start.fab with rxq := [recv src dst cls body] } }
/-- The task met a page opcode. -/
def toPages : State := start.modCtl fun c => { c with stalls := [(.control, .migration)] }
/-- A load that was redirected. -/
def redirected : State := { start with fab := { start.fab with
  outst := [asked 1 home (.ld (hbm + 0x4000) 4 false) (.load 0 9 0) (some (0, .redir (hbm + 0x8000)))] } }
/-- An extent with handle 0 of context 1. -/
def extent0 (opens : Nat) : Extent := ⟨0, 9, opens, true, 2, 3, hbm + 0x4000, 1, 1, 0x4000⟩
/-- Registers 6 to 8 for the must-save instructions; the reserve has charge, and holds the extents `l`; the task holds windows `ws`. -/
def reserve (x y w : Word) (l : List Extent) (ws : List (BitVec 12)) (cap : Nat) : State :=
  let s := (((start.setG 6 x).setG 7 y).setG 8 w).modCtl fun c => { c with task := some { taskA with windows := ws } }
  { s with mgmt := { s.mgmt with reserve := ⟨1000, cap, false, l, .none, 0⟩ }
           work := { s.work with parts := [⟨List.range 22, [], cap, 0, false, [], 0, false, false, 0⟩] } }
/-- The byte address and the line that the requests below name. -/
def pa : Nat := hbm + 0x4000
def line : Nat := pa / 128
/-- A queue that holds `r`, in core 0's package. -/
def queue (r : Recv) : State := { start with fab := { start.fab with rxq := [r] } }
/-- A registry entry of core `c` for the line. -/
def reg (c : CoreName) (mask : W32) : RegEntry := ⟨unitOf c, line, mask, false, [(mask, 1, 3)], 0⟩
/-- Core `c` owns words of the line. -/
def owned (c : CoreName) (mask : W32) (s : State) : State := { s with homes := { s.homes with registry := [reg c mask] } }
/-- The line carries the poison marker. -/
def poisoned (s : State) : State := { s with homes := { s.homes with poison := [line] } }
/-- The acting core's stash holds the first words of the line in state `w`, in local page 5. -/
def stashed (w : WordState) (s : State) : State := withCore s fun k => { k with mem := { k.mem with
  pages := k.mem.pages.set 5 ⟨.stash, 0, false, true, BitVec.ofNat 52 (pa / 4096)⟩, stash := [(pa / 4, w), (pa / 4 + 1, w)] } }
/-- What core 0 has outstanding, with its loads and stores. -/
def waiting (l : List Outst) (ls : List LoadRec) (ss : List StoreRec) : State := { withCore start (fun k => { k with
  ctl := { k.ctl with oc := ⟨ls.length, ss.length, 0, 0⟩, holds := ls.map fun x => ⟨x.q, x.reg, false⟩ }, mem := { k.mem with loads := ls, stores := ss } }) with
  fab := { start.fab with outst := l, srcCh := l.map fun o => ⟨o.src, o.dst, 1, 5, true⟩ } }
/-- A load of four bytes into register 5. -/
def load9 : LoadRec := ⟨9, 1, .control, 5, 4, 0x4000, pa, false, 1, 0, 0, [], 0x100, true⟩
/-- A store. -/
def store9 : StoreRec := ⟨[9], 1, .control, 0x4000, [(pa, 4)], 0, .none⟩
/-- A spilled page on its way. -/
def spilling : State := withCore start fun k => { k with mem := { k.mem with spills := [⟨3, hbm + 0x9000, [1, 2, 3, 4]⟩] } }
/-- A flit of package 0 from core 0 to the home slice, standing where it is going. -/
def flit (kind : Kind) (seq : BitVec 16) (body : Body) (src dst : UnitName) : Flit :=
  let f : Flit := ⟨1, kind, 0, false, false, false, false, 0, 0, 1, 0, 1, seq, 1, 0, dst, src, 0, 0, body, ⟨0, 0, 0⟩, 0, .none⟩
  { f.seal with at_ := start.heading 0 f }
/-- The fabric holds a flit, the channel it comes by, and what is outstanding. -/
def arriving (f : Flit) (l : List Outst) : State := { start with fab := { start.fab with flits := [f], outst := l, srcCh := l.map (fun o => ⟨o.src, o.dst, 1, 5, true⟩), dstCh := [⟨unitOf 0, home, 1, 5, []⟩] } }
/-- A load that core 0 has asked home for. -/
def askedLoad : Outst := asked 1 home (.ld pa 4 false) (.load 0 9 0) .none
/-- The map entry of die 16 says that it is fenced. -/
def fencedDie : Die := { Die.reset with map := Vector.ofFn fun n => fuseEntry n.val ||| (if n.val = 16 then 2#32 <<< 29 else 0) }
def fenced : State :=
  let s := arriving (flit .request 5 (.ld pa 4 false) (unitOf 0) home) [askedLoad]
  { s with dies := Vector.replicate 24 fencedDie }
/-- A record of chamber 1 in a deque. -/
def slot : Slot := ⟨recFix taskA.record, 1, false, false, 0, 1⟩
/-- Core 0 idle, with the deque `l` and a steal attempt. -/
def idle (l : List Slot) (st : Option Steal) : State := withCore start fun k => { k with
  ctl := { k.ctl with run := .idle, task := .none }, sched := { k.sched with deque := l, steal := st } }
/-- The same with a queue, or with something outstanding. -/
def idleQueue (l : List Slot) (r : Recv) : State := { idle l .none with fab := { start.fab with rxq := [r] } }
def idleWaiting (o : Outst) : State := { idle [] (some ⟨0, 0, 0, true, false⟩) with fab := { start.fab with outst := [o], srcCh := [⟨o.src, o.dst, 1, 5, true⟩] } }
/-- A busy core with an attempt that pauses. -/
def busyPaused : State := withCore start fun k => { k with sched := { k.sched with steal := some ⟨0, 0, 0, false, true⟩ } }
/-- A gang of two idle cores. -/
def teamSlot : Slot := { slot with record := recFix (setBits (setBits taskA.record 466 (1#3)) 465 (1#1)) }
def gang : Gang := ⟨4, 0, teamSlot, [0, 1], 2, [], 5⟩
/-- The gang with its record, and its cores reserved. -/
def ganged (budget : Nat) : State :=
  let s := idle [] .none
  let k := { s.core with sched := { s.core.sched with reserved := some (.gang 4) } }
  { s with core := k, cores := [(1, k)], work := { s.work with gangs := [gang] }, govs := s.govs.set 0 { Governor.reset with budget := budget } }
/-- A reservation message for gang 4 at core 1; its core is idle, or not to be used. -/
def reserving (g : List Gang) (k : Core) : State :=
  let s := idle [] .none
  { s with cores := [(1, k)], work := { s.work with gangs := g }, fab := { s.fab with rxq := [recv (unitOf 0) (unitOf 1) 28 (.rsv 4)] } }
/-- A chamber with a nest at work. -/
def nesting : State := { queue (recv (unitOf 1) (unitOf 0) 21 (.claim 1 1)) with work := { start.work with ctxs := [{ ctxA with chambers := [{ root with nest := ⟨1, true, 9, 10, 2⟩ }] }] } }
/-- A restart that waits, and a push that waits. -/
def restarting : State := { start with work := { start.work with restarts := [⟨0, slot, 1, 5, 9⟩] } }
def pushing : State := { start with work := { start.work with pushes := [⟨0, slot, 1, false, false, false⟩] } }
/-- A launch record at HBM line 0x2000: VER 1.0, OVR 0x3F, 64 cores, 200 credits, FREP, one initial record; a change of its bytes. -/
def launchRec (f : List Byte → List Byte) : List Byte :=
  let bs := f (toBytes 8 0 ++ toBytes 8 0x3F0100 ++ toBytes 4 64 ++ toBytes 4 200 ++ List.replicate 88 0 ++ toBytes 16 1 ++ toBytes 8 0x10000 ++ toBytes 8 (hbm + 0x2200) ++
    toBytes 4 1 ++ List.replicate 12 0 ++ List.replicate 92 0)
  bs ++ toBytes 4 0xE1A89432
/-- The window takes launches and holds that record, or is busy with it. -/
def launchable (f : List Byte → List Byte) (b : Option (LaunchWindow × Word × List (Word × Nat × Nat))) : State :=
  let s : State := { State.reset with mem := writeBytes (writeBytes [] (hbm + 0x2000) (launchRec f)) (hbm + 0x2200) (recBytes (recFix (setBits (setBits (0 : Rec) 160 (1#32)) 448 (1#32)))) }
  (s.modSp 0 fun p => { p with state := 1 }).modMgmt fun m => { m with win := { m.win with busy := b } }
/-- A context with nothing left; ends that wait. -/
def endedCtx : State := { State.reset with work := { Work.reset with ctxs := [{ ctxA with chambers := [{ root with live := 0, cuse := 0, weights := 0 }] }] } }
def ending (n : Word) : State := State.reset.modMgmt fun m => { m with win := { m.win with tail := n, waiting := [⟨hbm, 3, 0, 0, 0, 0⟩] } }
/-- Core 0 with its sequencer controls changed; with its task changed. -/
def ctl0 (f : Control → Control) : State := start.modCtl f
def task0 (f : Task → Task) : State := start.modCtl fun c => { c with task := some (f taskA) }
/-- A pre-emption is due on core 0; an access of its has not its point. -/
def preempting : State := ctl0 fun c => { c with due := { c.due with preempt := true } }
def preemptingBusy : State := withCore preempting fun k => { k with mem := { k.mem with loads := [load9] } }
/-- A break is due on core 0. -/
def breaking : State := ctl0 fun c => { c with due := { c.due with brk := true } }
/-- A state whose one partition has only die 0. -/
def oneDie (q : Partition → Partition) (s : State) : State := { s with work := { s.work with parts := [q ⟨[0], [], 0, 0, false, [], 0, false, false, 0x100000⟩] } }
def launched20 : State := { start with work := { start.work with ctxs := [{ ctxA with ckpt := 20 }] } }
/-- A diagnosis record: class, rung, subject die, core; with its CRC. -/
def diagnosis (cls rung die : Nat) : Rec :=
  let r : Rec := (BitVec.ofNat 512 cls ||| (BitVec.ofNat 512 rung <<< 8)) ||| (BitVec.ofNat 512 die <<< 32)
  setBits r 480 (crc32c ((recBytes r).take 60))
/-- The package serves; a vote on a diagnosis is under way. -/
def served : State := (start.modSp 0 fun p => { p with state := 1 }).modSp 1 fun p => { p with state := 1 }
def voted (second : Option Rec) (refs : Bool) : State := { served with
  mgmt := { served.mgmt with votes := [⟨some (diagnosis 10 5 3), second, 0, refs, []⟩], domain := { served.mgmt.domain with packages := 1 } }
  fab := { start.fab with rxq := [recv (start.spUnit 1) (start.spUnit 0) 27 (.spmb (some (diagnosis 10 5 3)))], dstCh := [⟨start.spUnit 1, start.spUnit 0, 1, 5, []⟩] } }
/-- A passing diagnosis. -/
def passed (cls rung die : Nat) (d : Domain → Domain) : State := served.modMgmt fun m => { m with passed := [diagnosis cls rung die], domain := d m.domain }
/-- A recovery in progress. -/
def rebuilding : State := served.modMgmt fun m => { m with recov := [⟨3, [0], []⟩] }
/-- A request of an OP with its arguments, of context 1; mailbox 0 holds it. -/
def request (op : Nat) (a : List Nat) : List Byte := withCrc ([BitVec.ofNat 8 op, 0, 0, 0, 1, 0, 0, 0] ++ a.flatMap (toBytes 8) ++ List.replicate (52 - 8 * a.length) 0)
def asking (s : State) (e : List Byte) : State :=
  { s with mem := writeBytes (writeBytes s.mem (s.mailbox 0 + 0x1008) [1]) (s.mailbox 0 + 0x1040) e, mgmt := { s.mgmt with sps := served.mgmt.sps } }
/-- Six shards of one group over three memory gateways, described at HBM 0x8000. -/
def shards : List Nat := (List.range 6).map fun k => globalAddr 0 (16 + k / 2) (k % 2) 0x20000
def region : Region := ⟨0, 1, 1, shards, 0, false, 0⟩
def described : State := { start with mem := writeBytes start.mem (hbm + 0x8000) (shards.flatMap (toBytes 8) ++ toBytes 8 1 ++ List.replicate 8 0) }
/-- The partition of die 0 is held, a die of it halted. -/
def heldDie (halted : List Nat) : State := oneDie (fun q => { q with held := true, halted := halted }) start
/-- Core 5 owns the words of the host's line 0. -/
def hostLine : Nat := globalAddr 0 16 128 0
def coreOwned : State := { start with homes := { start.homes with registry := [⟨unitOf 5, hostLine / 128, 0xFFFFFFFF, false, [], 0⟩] } }
/-- A back-invalidation of a line that the host holds. -/
def snooped : State := { start with homes := { start.homes with registry := [⟨start.hostUnit, hostLine / 128, 0xFFFFFFFF, true, [], 0⟩], snoops := [(hostLine / 128, 0xFFFFFFFF)] } }
/-- Port 0 has an entry in each ring. -/
def ueEntry : List Byte := withCrc (toBytes 8 0x1234 ++ toBytes 8 (hbm + 0x4000) ++ toBytes 4 16 ++ List.replicate 40 0)
def ueReady (s : State) : State := { s with mem := writeBytes (writeBytes (writeBytes (writeBytes [] (s.sendRing 0 + 8) [1]) (s.sendRing 0 + 64) ueEntry) (s.receiveRing 0 + 8) [1]) (s.receiveRing 0 + 64) ueEntry }
def ueTaken : State := (ueReady start).modMgmt fun m => { m with ue := [(0, 0)] }
/-- A boundary of that partition, after which a diagnosis of rung 4 passed. -/
def bounded : State := (oneDie id launched20).modMgmt fun m => { m with
  passed := [diagnosis 9 4 0]
  bounds := [⟨0, [(0, core0)], [], [], [], [], [], launched20.work.ctxs, ([], [], []), [], [], Fabric.reset, 0⟩] }
/-- The partner runs a task of the same chamber. -/
def busyPartner : State := { start with cores := [(start.partner, { core0 with ctl := { core0.ctl with task := some { taskA with id := 77 } } })] }
end W

/-! ## Conditions of the statements, from their decisions -/

/-- The conditions of `Accepts`, decided. -/
def acceptsB (s : State) (f : Form) : Bool :=
  s.pm != 3 && (s.seq != .routine || s.core.msg.bank.isSome) && (!s.core.pp s.seq || f.pfx) && bit (coreGroups s.cur) f.group &&
  (match s.seq with
    | .vector => f.inVector
    | .matrix => f.inMatrix
    | .routine => f.inRoutine
    | .control => (!s.core.vs.opened || f.withVector) && (!s.core.ms.opened || f.withMatrix)) &&
  (s.seq != .control || s.core.pair.all fun p => f.inPair && !p.draining && decide (p.count < 4096) && (!f.exchange || p.forces s.pc))

theorem accepts_iff (s : State) (f : Form) : acceptsB s f = true ↔ s.Accepts f := by
  unfold acceptsB State.Accepts Core.HasSeq
  cases hq : s.seq <;> cases hp : s.core.pair <;>
    simp [Bool.and_eq_true, Bool.or_eq_true, and_assoc] <;> grind

theorem free_of (s : State) (rs : List Reg) (h : (rs.all fun r => !s.held r) = true) : s.Free rs := by
  simpa [State.Free] using h

theorem memoryWf_of (s : State) (h : Memory.wf s.mem = true) : s.MemoryWf := h

theorem requests_of (s : State) (n op : Nat) (e : List Byte) (line : Nat)
    (h : (s.serves n && reqForm e && decide (field e 0 1 = op) && decide (s.requestIn n = some (e, line)) &&
      (s.requester line).permits e) = true) : s.Requests n op e := by
  simp only [Bool.and_eq_true, decide_eq_true_eq] at h
  exact ⟨h.1.1.1.1, h.1.1.1.2, h.1.1.2, line, h.1.2, h.2⟩

theorem hasHandler_of (s : State) (h : (!s.tt && decide (s.thr.kvec ≠ 0)) = true) : s.HasHandler := by
  simpa [State.HasHandler] using h

theorem ok_of {α : Type} [DecidableEq α] (x : Try α) (y : α) (h : (match x with | .ok z => decide (z = y) | .error _ => false) = true) :
    x = .ok y := by
  cases x with
  | ok z => simpa using h
  | error e => simp at h

theorem illegal_of {α : Type} (s : State) (x : Try α)
    (h : (match x with | .error (.trap c) => decide (c = ⟨0x01, s.pc, 0, false, false⟩) | _ => false) = true) : x = illegal s := by
  unfold illegal raise at *
  cases x with
  | ok z => simp at h
  | error e => cases e <;> simp_all

theorem matrixOn_of (s : State) (h : decide (2 ≤ (bits s.core.ctl.k.kpower 0 2).toNat ∧ s.core.mat.power = .awake) = true) : s.MatrixOn := by
  simpa [State.MatrixOn] using h

/-- The conditions of `Holds`, decided. -/
def holdsB (s : State) (pa n : Nat) : Bool :=
  (decide (s.route pa = .here) || (decide (s.route pa = .stash) && (wordsOf pa n).all fun w => decide (s.core.word w ≠ none))) &&
    !s.poisoned pa n && !s.pendingWord pa n

theorem holds_of (s : State) (pa n : Nat) (h : holdsB s pa n = true) : s.Holds pa n := by
  simpa [State.Holds, holdsB, and_assoc] using h

theorem hasPieces_of (s : State) (ps : List (Nat × Nat)) (h : (ps.all fun q => holdsB s q.1 q.2) = true) : s.HasPieces ps :=
  fun q hq => holds_of s q.1 q.2 (List.all_eq_true.1 h q hq)

theorem calm_of (k : Core) (h : (!k.thr.inDoubleTrap && !k.msg.bank.any (·.thr.inDoubleTrap)) = true) : k.Calm := by
  simpa [Core.Calm] using h

theorem all_calm_of (s : State) (l : List CoreName)
    (h : (l.all fun c => !(s.getCore c).thr.inDoubleTrap && !(s.getCore c).msg.bank.any (·.thr.inDoubleTrap)) = true) :
    ∀ c ∈ l, (s.getCore c).Calm := fun c hc => calm_of _ (List.all_eq_true.1 h c hc)

theorem noAlloc_of (s : State) (c : CoreName)
    (h : ((s.getCore c).ctl.task.all fun t => s.basins.all (fun b => b.queue.all fun a => a.holder.1 != t.id) &&
      s.fab.outst.all fun o => !s.underway (BasinReq.allocBy t.id) o) = true) : s.NoAlloc c := by
  unfold State.NoAlloc
  cases hk : (s.getCore c).ctl.task with
  | none => simp
  | some t => simpa [hk, List.all_eq_true] using h

theorem toBytes_length_eq (n x : Nat) : (toBytes n x).length = n := by
  induction n generalizing x with
  | zero => rfl
  | succ n ih => simp [toBytes, ih]

theorem wordsBytes_length_eq (l : List Word) : (wordsBytes l).length = 8 * l.length := by
  induction l with
  | nil => rfl
  | cons a l ih => simp_all [wordsBytes, List.flatMap_cons, toBytes_length_eq]; omega

theorem withCrc_sound (l : List Byte) (h : l.length = 508) : shipSound (withCrc l) = true := by
  simp [shipSound, withCrc, ← h]

theorem ship_sound (v : Saved) (e : Option TlbEntry) (l : List (TileNo × List Byte)) (a : Word) : shipSound (Ship.of v e l a).record = true := by
  have hi : (v.idx.toList.flatMap fun x => toBytes 4 x.toNat).length = 16 := by
    have : ∀ l : List W32, (l.flatMap fun x => toBytes 4 x.toNat).length = 4 * l.length := by
      intro l
      induction l with
      | nil => rfl
      | cons a l ih => simp only [List.flatMap_cons, List.length_append, toBytes_length_eq, ih, List.length_cons]; omega
    rw [this, Vector.length_toList]
  apply withCrc_sound
  cases e <;> simp [wordsBytes_length_eq, toBytes_length_eq, recBytes, hi]

theorem sound_seal (f : Flit) : f.seal.sound = true := by
  exact beq_iff_eq.2 rfl

theorem flit_sound (k : Kind) (n : Nat) (b : Body) (x y : UnitName) : (W.flit k n b x y).sound = true := sound_seal _

theorem not_ok_of {α β : Type} (x : Except α β) (v : β) (h : (match x with | .ok _ => false | .error _ => true) = true) : x ≠ .ok v := by
  rintro rfl
  simp at h

theorem all_some_of {α : Type} {o : Option α} {P : α → Prop} [DecidablePred P] (h : (o.all fun x => decide (P x)) = true) (x : α)
    (hx : o = some x) : P x := by
  subst hx
  simpa using h

theorem some_of {α : Type} {o : Option α} {P : α → Prop} [DecidablePred P] (h : (o.any fun x => decide (P x)) = true) :
    ∃ x, o = some x ∧ P x := by
  cases o with
  | none => simp at h
  | some x => exact ⟨x, rfl, by simpa using h⟩

theorem ball_of {α : Type} {l : List α} {P : α → Prop} [DecidablePred P] (h : (l.all fun x => decide (P x)) = true) : ∀ x ∈ l, P x := by
  simpa using h

theorem not_ball_of {α : Type} {l : List α} {P : α → Prop} [DecidablePred P] (h : (l.all fun x => decide (P x)) = false) :
    ¬∀ x ∈ l, P x := by
  simpa using h

/-- `k n`, with `n` evaluated first. -/
def strict : Nat → (Nat → Nat) → Nat
  | 0, k => k 0
  | n + 1, k => k (n + 1)

/-- The fold of the CRC, byte after byte. -/
def crcFold : List Byte → Nat → Nat
  | [], n => n
  | b :: l, n => strict (crcByte (BitVec.ofNat 32 n) b).toNat (crcFold l)

theorem crcFold_eq (l : List Byte) (c : W32) : crcFold l c.toNat = (l.foldl crcByte c).toNat := by
  induction l generalizing c with
  | nil => rfl
  | cons b l ih =>
    have hs : ∀ n k, strict n k = k n := fun n k => by cases n <;> rfl
    rw [crcFold, hs, List.foldl_cons, BitVec.ofNat_toNat, BitVec.setWidth_eq, ih]

theorem rcbCrc_eq (bs : List Byte) : rcbCrc bs = (field bs 0xFC 4 == 0xFFFFFFFF - crcFold (bs.take 0xA0) 0xFFFFFFFF) := by
  have := crcFold_eq (bs.take 0xA0) 0xFFFFFFFF#32
  rw [rcbCrc, crc32c, BitVec.toNat_not, ← this]
  rfl

theorem spare_of (u : State) (n p : Nat) (e : W32) (h : u.mgmt.domain.spare = some p)
    (he : 0xE0000000#32 ||| (u.mgmt.domain.pkg.setWidth 32 <<< 5) ||| BitVec.ofNat 32 p = e) :
    u.spareEntry n = some (e, u.modMgmt fun m => { m with domain := { u.mgmt.domain with spare := none } }) := by
  simp only [State.spareEntry, h, he]

theorem none_of {α : Type} {o : Option α} (h : o.isNone = true) : o = none := by simpa using h

theorem isSome_of {α : Type} {o : Option α} (h : o.isSome = true) : ∃ x, o = some x := Option.isSome_iff_exists.1 h

theorem next_of {α β γ : Type} {x : Host.Outcome α β γ} (h : (match x with | .next _ => true | _ => false) = true) : ∃ t, x = .next t := by
  cases x <;> simp_all

/-- The bytes fetched at the pc are these. -/
def fetched (s : State) (bs : List Byte) : Bool :=
  match s.fetch with
  | .ok l => l == bs
  | .error _ => false

/-- Core 0 at pc 0x100, where these bytes stand. -/
def codeAt (bs : List Byte) : State := { W.start with mem := writeBytes [] (W.sram + 0x100) bs }


/-! ## Witnesses: the hypotheses of each statement are met -/

/-- States and operands that meet the hypotheses of VectorIntegers. -/
theorem witness_vector_integers :
    (let s : State := W.vec
     let i : Instr := Sys2Proof.Instr.vshl (Sys2Proof.Lane.h16) (some 0x3#3) 0x05#5 0x06#5 0x1f#5
     s.Accepts Form.vec ∧ BitVec.toNat (5 : BitVec 5) < laneBits Lane.h16 ∧ laneBits Lane.h16 ≤ BitVec.toNat (31 : BitVec 5) ∧ i ∈ [i, Instr.vshr
       Lane.h16 (some (3 : BitVec 3)) (5 : Reg) (6 : Reg) (31 : BitVec 5), Instr.vsar Lane.h16 (some (3 : BitVec 3)) (5 : Reg) (6 : Reg) (31 :
       BitVec 5)]) :=
  ⟨(accepts_iff _ _).1 (by decide +kernel), by decide +kernel⟩

/-- States and operands that meet the hypotheses of PageExtension. -/
theorem witness_page_extension :
    (let s : State := W.kvPage 0
     let bs : List Byte := [0x00#8, 0x01#8, 0x01#8, 0x08#8, 0x00#8, 0x00#8, 0x00#8, 0x00#8, 0x00#8, 0x00#8, 0x00#8, 0x00#8, 0x00#8, 0x00#8, 0x00#8,
       0x00#8, 0x78#8, 0x00#8, 0x00#8, 0x00#8, 0x00#8, 0x00#8, 0x00#8, 0x00#8, 0x01#8, 0x26#8, 0x4b#8, 0x70#8, 0x95#8, 0xba#8, 0xdf#8, 0x05#8,
       0x2a#8, 0x4f#8, 0x74#8, 0x99#8, 0xbe#8, 0xe3#8, 0x09#8, 0x2e#8, 0x53#8, 0x78#8, 0x9d#8, 0xc2#8, 0xe7#8, 0x0d#8, 0x32#8, 0x57#8, 0x7c#8,
       0xa1#8, 0xc6#8, 0xeb#8, 0x11#8, 0x36#8, 0x5b#8, 0x80#8]
     s.Accepts Form.page ∧ s.Free [(6 : Reg), (7 : Reg)] ∧ (s.pending = none ∧ Fmt.fp16 = Fmt.fp16 ∨ ∃ (x : Prefix), s.pending = some x ∧ fmtOf
       x.fd = some Fmt.fp16 ∧ (Fmt.fp16 = Fmt.fp16 ∨ Fmt.fp16 = Fmt.bf16)) ∧ s.readRuns (s.g (6 : Reg)) [headerRun, (320 + 4 * 0, 4), (1216 + 64 *
       0 + 32 * 0, 32)] = Except.ok (Sum.inl bs) ∧ s.g (7 : Reg) = BitVec.ofNat 64 (0 + 256 * 0) ∧ BitVec.toNat (s.g (6 : Reg)) % 16384 = 0 ∧
       pageOk bs = true) ∧
    (let s : State := { (W.kvPage 0) with mem := [] }
     let bs : List Byte := [0x00#8, 0x00#8, 0x00#8, 0x00#8, 0x00#8, 0x00#8, 0x00#8, 0x00#8, 0x00#8, 0x00#8, 0x00#8, 0x00#8, 0x00#8, 0x00#8, 0x00#8,
       0x00#8, 0x00#8, 0x00#8, 0x00#8, 0x00#8, 0x00#8, 0x00#8, 0x00#8, 0x00#8, 0x00#8, 0x00#8, 0x00#8, 0x00#8, 0x00#8, 0x00#8, 0x00#8, 0x00#8,
       0x00#8, 0x00#8, 0x00#8, 0x00#8, 0x00#8, 0x00#8, 0x00#8, 0x00#8, 0x00#8, 0x00#8, 0x00#8, 0x00#8, 0x00#8, 0x00#8, 0x00#8, 0x00#8, 0x00#8,
       0x00#8, 0x00#8, 0x00#8, 0x00#8, 0x00#8, 0x00#8, 0x00#8]
     s.Accepts Form.page ∧ s.Free [(6 : Reg), (7 : Reg)] ∧ (s.pending = none ∧ Fmt.fp16 = Fmt.fp16 ∨ ∃ (x : Prefix), s.pending = some x ∧ fmtOf
       x.fd = some Fmt.fp16 ∧ (Fmt.fp16 = Fmt.fp16 ∨ Fmt.fp16 = Fmt.bf16)) ∧ s.readRuns (s.g (6 : Reg)) [headerRun, (320 + 4 * 0, 4), (1216 + 64 *
       0 + 32 * 0, 32)] = Except.ok (Sum.inl bs) ∧ s.g (7 : Reg) = BitVec.ofNat 64 (0 + 256 * 0) ∧ BitVec.toNat (s.g (6 : Reg)) % 16384 = 0 ∧
       pageOk bs = false) ∧
    (let s : State := W.kvPage 0
     let bs : List Byte := readBytes (W.kvPage 0).mem W.sram 20 ++ readBytes (W.kvPage 0).mem (W.sram+0x40) 256
     s.Accepts Form.page ∧ s.Free [(6 : Reg), (6 : Reg)] ∧ (s.pending = none ∧ Fmt.fp16 = Fmt.fp16 ∨ ∃ (x : Prefix), s.pending = some x ∧ fmtOf
       x.fa = some Fmt.fp16 ∧ (Fmt.fp16 = Fmt.fp16 ∨ Fmt.fp16 = Fmt.bf16)) ∧ s.readRuns (s.g (6 : Reg)) [headerRun, (64, 256)] = Except.ok (Sum.inl
       bs) ∧ bit (6 : Reg) 0 = false ∧ BitVec.toNat (s.g (6 : Reg)) % 16384 = 0 ∧ pageOk bs = true ∧ (byteAt bs 17 % 2 == 1) = s.ns) ∧
    (let s : State := W.kvPage 1
     let bs : List Byte := readBytes (W.kvPage 1).mem W.sram 20 ++ readBytes (W.kvPage 1).mem (W.sram+0x40) 256
     s.Accepts Form.page ∧ s.Free [(6 : Reg), (6 : Reg)] ∧ (s.pending = none ∧ Fmt.fp16 = Fmt.fp16 ∨ ∃ (x : Prefix), s.pending = some x ∧ fmtOf
       x.fa = some Fmt.fp16 ∧ (Fmt.fp16 = Fmt.fp16 ∨ Fmt.fp16 = Fmt.bf16)) ∧ s.readRuns (s.g (6 : Reg)) [headerRun, (64, 256)] = Except.ok (Sum.inl
       bs) ∧ bit (6 : Reg) 0 = false ∧ BitVec.toNat (s.g (6 : Reg)) % 16384 = 0 ∧ pageOk bs = true ∧ (byteAt bs 17 % 2 == 1) = !s.ns) ∧
    (let s : State := ({(W.kvPage 0) with mem := []}:State)
     let bs : List Byte := readBytes (({(W.kvPage 0) with mem := []}:State)).mem W.sram 20 ++ readBytes (({(W.kvPage 0) with mem := []}:State)).mem
       (W.sram+0x40) 256
     s.Accepts Form.page ∧ s.Free [(6 : Reg), (6 : Reg)] ∧ (s.pending = none ∧ Fmt.fp16 = Fmt.fp16 ∨ ∃ (x : Prefix), s.pending = some x ∧ fmtOf
       x.fa = some Fmt.fp16 ∧ (Fmt.fp16 = Fmt.fp16 ∨ Fmt.fp16 = Fmt.bf16)) ∧ s.readRuns (s.g (6 : Reg)) [headerRun, (64, 256)] = Except.ok (Sum.inl
       bs) ∧ bit (6 : Reg) 0 = false ∧ BitVec.toNat (s.g (6 : Reg)) % 16384 = 0 ∧ pageOk bs = false) ∧
    (let s : State := (W.kvPage 0).setG 7 0x500000000
     s.Accepts Form.page ∧ s.Free [(6 : Reg), (7 : Reg)] ∧ s.g (7 : Reg) = BitVec.ofNat 64 (0 + 2 ^ 32 * 5) ∧ 0 < 2 ^ 32 ∧ bit (8 : Reg) 0 = false) :=
  ⟨⟨(accepts_iff _ _).1 (by decide +kernel), free_of _ _ (by decide +kernel), Or.inl (by decide +kernel), ok_of _ _ (by decide +kernel), by
    decide +kernel⟩, ⟨(accepts_iff _ _).1 (by decide +kernel), free_of _ _ (by decide +kernel), Or.inl (by decide +kernel), ok_of _ _ (by
    decide +kernel), by decide +kernel⟩, ⟨(accepts_iff _ _).1 (by decide +kernel), free_of _ _ (by decide +kernel), Or.inl (by decide +kernel),
    ok_of _ _ (by decide +kernel), by decide +kernel⟩, ⟨(accepts_iff _ _).1 (by decide +kernel), free_of _ _ (by decide +kernel), Or.inl (by
    decide +kernel), ok_of _ _ (by decide +kernel), by decide +kernel⟩, ⟨(accepts_iff _ _).1 (by decide +kernel), free_of _ _ (by decide +kernel),
    Or.inl (by decide +kernel), ok_of _ _ (by decide +kernel), by decide +kernel⟩, ⟨(accepts_iff _ _).1 (by decide +kernel), free_of _ _ (by
    decide +kernel), by decide +kernel⟩⟩

/-- States and operands that meet the hypotheses of Sending. -/
theorem witness_sending :
    (let s : State := W.sender (W.target 0 0 1 5)
     s.Accepts { Form.message with inRoutine := true } ∧ s.Free [(6 : Reg)] ∧ s.checkSend (s.g (6 : Reg)) (7 : Reg) = illegal s ∧ Instr.send (5 :
       Reg) (6 : Reg) (7 : Reg) ∈ [Instr.send (5 : Reg) (6 : Reg) (7 : Reg), Instr.sendd (5 : Reg) (6 : Reg) (7 : Reg)]) ∧
    (let s : State := W.fusedOff
     s.Accepts { Form.message with inRoutine := true } ∧ s.Free [(5 : Reg), (6 : Reg), (7 : Reg), (7 : Reg) + (1 : Reg), (7 : Reg) + (2 : Reg), (7
       : Reg) + (3 : Reg)] ∧ s.checkSend (s.g (6 : Reg)) (7 : Reg) = Except.ok () ∧ (Instr.send (5 : Reg) (6 : Reg) (7 : Reg) = Instr.send (5 :
       Reg) (6 : Reg) (7 : Reg) ∧ ([] : List Nat) = [] ∨ Instr.send (5 : Reg) (6 : Reg) (7 : Reg) = Instr.sendd (5 : Reg) (6 : Reg) (7 : Reg) ∧
       s.accessSegs (s.g ((7 : Reg) + (3 : Reg))) 128 4 Need.load = Except.ok [] ∧ s.pendingAnswer = none ∧ s.HasPieces (segPieces []) ∧ [] =
       packWords 16 (s.pieceBytes (segPieces []))) ∧ s.unreachable (s.g (6 : Reg)) = true ∧ s.released = true ∧ s.oc.ocs < 32) ∧
    (let s : State := W.sender (W.target 1 0 1 64)
     s.Accepts { Form.message with inRoutine := true } ∧ s.Free [(5 : Reg), (6 : Reg), (7 : Reg), (7 : Reg) + (1 : Reg), (7 : Reg) + (2 : Reg), (7
       : Reg) + (3 : Reg)] ∧ s.checkSend (s.g (6 : Reg)) (7 : Reg) = Except.ok () ∧ (Instr.send (5 : Reg) (6 : Reg) (7 : Reg) = Instr.send (5 :
       Reg) (6 : Reg) (7 : Reg) ∧ ([] : List Nat) = [] ∨ Instr.send (5 : Reg) (6 : Reg) (7 : Reg) = Instr.sendd (5 : Reg) (6 : Reg) (7 : Reg) ∧
       s.accessSegs (s.g ((7 : Reg) + (3 : Reg))) 128 4 Need.load = Except.ok [] ∧ s.pendingAnswer = none ∧ s.HasPieces (segPieces []) ∧ [] =
       packWords 16 (s.pieceBytes (segPieces []))) ∧ s.unreachable (s.g (6 : Reg)) = false ∧ s.inPartition (s.g (6 : Reg)) = false) ∧
    (let s : State := W.toService
     s.Accepts { Form.message with inRoutine := true } ∧ s.Free [(5 : Reg), (6 : Reg), (7 : Reg), (7 : Reg) + (1 : Reg), (7 : Reg) + (2 : Reg), (7
       : Reg) + (3 : Reg)] ∧ s.checkSend (s.g (6 : Reg)) (7 : Reg) = Except.ok () ∧ (Instr.send (5 : Reg) (6 : Reg) (7 : Reg) = Instr.send (5 :
       Reg) (6 : Reg) (7 : Reg) ∧ ([] : List Nat) = [] ∨ Instr.send (5 : Reg) (6 : Reg) (7 : Reg) = Instr.sendd (5 : Reg) (6 : Reg) (7 : Reg) ∧
       s.accessSegs (s.g ((7 : Reg) + (3 : Reg))) 128 4 Need.load = Except.ok [] ∧ s.pendingAnswer = none ∧ s.HasPieces (segPieces []) ∧ [] =
       packWords 16 (s.pieceBytes (segPieces []))) ∧ s.unreachable (s.g (6 : Reg)) = false ∧ s.inPartition (s.g (6 : Reg)) = true ∧ isService
       (wordCore (s.g (6 : Reg))) = true ∧ s.pm = (0 : BitVec 2)) ∧
    (let s : State := W.sender (W.target 0 0 1 64)
     s.Accepts { Form.message with inRoutine := true } ∧ s.Free [(5 : Reg), (6 : Reg), (7 : Reg), (7 : Reg) + (1 : Reg), (7 : Reg) + (2 : Reg), (7
       : Reg) + (3 : Reg)] ∧ s.checkSend (s.g (6 : Reg)) (7 : Reg) = Except.ok () ∧ (Instr.send (5 : Reg) (6 : Reg) (7 : Reg) = Instr.send (5 :
       Reg) (6 : Reg) (7 : Reg) ∧ ([] : List Nat) = [] ∨ Instr.send (5 : Reg) (6 : Reg) (7 : Reg) = Instr.sendd (5 : Reg) (6 : Reg) (7 : Reg) ∧
       s.accessSegs (s.g ((7 : Reg) + (3 : Reg))) 128 4 Need.load = Except.ok [] ∧ s.pendingAnswer = none ∧ s.HasPieces (segPieces []) ∧ [] =
       packWords 16 (s.pieceBytes (segPieces []))) ∧ s.unreachable (s.g (6 : Reg)) = false ∧ s.inPartition (s.g (6 : Reg)) = true ∧ (isService
       (wordCore (s.g (6 : Reg))) = true → s.pm ≠ (0 : BitVec 2)) ∧ s.released = true ∧ s.oc.ocs < 32 ∧ s.canPost s.unit (wordUnit (s.g (6 : Reg)))
       1 = true) :=
  ⟨⟨(accepts_iff _ _).1 (by decide +kernel), free_of _ _ (by decide +kernel), illegal_of _ _ (by decide +kernel), by decide +kernel⟩, ⟨(accepts_iff
    _ _).1 (by decide +kernel), free_of _ _ (by decide +kernel), ok_of _ _ (by decide +kernel), Or.inl ⟨rfl, rfl⟩, by decide +kernel⟩,
    ⟨(accepts_iff _ _).1 (by decide +kernel), free_of _ _ (by decide +kernel), ok_of _ _ (by decide +kernel), Or.inl ⟨rfl, rfl⟩, by
    decide +kernel⟩, ⟨(accepts_iff _ _).1 (by decide +kernel), free_of _ _ (by decide +kernel), ok_of _ _ (by decide +kernel), Or.inl ⟨rfl, rfl⟩,
    by decide +kernel⟩, ⟨(accepts_iff _ _).1 (by decide +kernel), free_of _ _ (by decide +kernel), ok_of _ _ (by decide +kernel), Or.inl ⟨rfl,
    rfl⟩, by decide +kernel⟩⟩

/-- States and operands that meet the hypotheses of Binding. -/
theorem witness_binding :
    (let s : State := W.badBinder
     let cls : BitVec 10 := 0x040#10
     let bs : List Byte := [0x00#8, 0x04#8, 0x00#8, 0x00#8, 0x00#8, 0x00#8, 0x00#8, 0x00#8, 0x00#8, 0x00#8, 0x00#8, 0x00#8, 0x00#8, 0x00#8, 0x00#8,
       0x00#8, 0x00#8, 0x00#8, 0x00#8, 0x00#8, 0x00#8, 0x00#8, 0x00#8, 0x00#8, 0x01#8, 0x00#8, 0x00#8, 0x00#8, 0x00#8, 0x00#8, 0x00#8, 0x00#8]
     s.Accepts Form.message ∧ s.Free [(5 : Reg), (6 : Reg), (7 : Reg)] ∧ s.classOf (s.g (6 : Reg)) = Except.ok cls ∧ s.readBlock (s.g (7 : Reg)) 32
       8 = Except.ok (Sum.inl bs) ∧ s.blockRing (bit (s.g (6 : Reg)) 10) bs = Except.ok none ∧ s.sentAnswer = none) ∧
    (let s : State := W.bound (W.bind64 true 9)
     let cls : BitVec 10 := 0x040#10
     let bs : List Byte := [0x00#8, 0x04#8, 0x00#8, 0x00#8, 0x00#8, 0x00#8, 0x00#8, 0x00#8, 0x00#8, 0x00#8, 0x00#8, 0x00#8, 0x00#8, 0x00#8, 0x00#8,
       0x00#8, 0x00#8, 0x00#8, 0x00#8, 0x00#8, 0x00#8, 0x00#8, 0x00#8, 0x00#8, 0x00#8, 0x00#8, 0x00#8, 0x00#8, 0x00#8, 0x00#8, 0x00#8, 0x00#8]
     s.Accepts Form.message ∧ s.Free [(5 : Reg), (6 : Reg), (7 : Reg)] ∧ s.classOf (s.g (6 : Reg)) = Except.ok cls ∧ s.readBlock (s.g (7 : Reg)) 32
       8 = Except.ok (Sum.inl bs) ∧ s.blockRing (bit (s.g (6 : Reg)) 10) bs = Except.ok (some 0) ∧ s.sentAnswer = none ∧ (Option.any (fun (e :
       Machine.Bind) => e.polled && e.task != s.taskId || bit (s.g (6 : Reg)) 10 && !e.polled) (s.core.binding s.ctx cls) = true) ∧ s.core.binding
       s.ctx cls = some (W.bind64 true 9) ∧ (W.bind64 true 9).polled = true ∧ (W.bind64 true 9).task ≠ s.taskId) ∧
    (let s : State := W.binder
     let cls : BitVec 10 := 0x040#10
     let bs : List Byte := [0x00#8, 0x04#8, 0x00#8, 0x00#8, 0x00#8, 0x00#8, 0x00#8, 0x00#8, 0x00#8, 0x00#8, 0x00#8, 0x00#8, 0x00#8, 0x00#8, 0x00#8,
       0x00#8, 0x00#8, 0x00#8, 0x00#8, 0x00#8, 0x00#8, 0x00#8, 0x00#8, 0x00#8, 0x00#8, 0x00#8, 0x00#8, 0x00#8, 0x00#8, 0x00#8, 0x00#8, 0x00#8]
     s.Accepts Form.message ∧ s.Free [(5 : Reg), (6 : Reg), (7 : Reg)] ∧ s.classOf (s.g (6 : Reg)) = Except.ok cls ∧ s.readBlock (s.g (7 : Reg)) 32
       8 = Except.ok (Sum.inl bs) ∧ s.blockRing (bit (s.g (6 : Reg)) 10) bs = Except.ok (some 0) ∧ s.sentAnswer = none ∧ (Option.any (fun (e :
       Machine.Bind) => e.polled && e.task != s.taskId || bit (s.g (6 : Reg)) 10 && !e.polled) (s.core.binding s.ctx cls) = false) ∧ s.released =
       true ∧ s.core.binding s.ctx cls = none) ∧
    (let s : State := W.bound (W.bind64 true 1)
     let cls : BitVec 10 := 0x040#10
     s.Accepts Form.message ∧ s.Free [(5 : Reg), (6 : Reg), (7 : Reg)] ∧ s.classOf (s.g (6 : Reg)) = Except.ok cls ∧ s.sentAnswer = none ∧
       s.core.binding s.ctx cls = some (W.bind64 true 1) ∧ ((W.bind64 true 1).polled = false ∨ (W.bind64 true 1).task = s.taskId) ∧ s.released =
       true) ∧
    (let s : State := W.installed
     let cls : BitVec 10 := 0x040#10
     let w : Await :=
       { id := 0, q := Sys2Proof.Seq.control, pc := 0x0000000000000100#64, left := 1, got := [], status := 0x00#8, sent := true, unit := false, carried := false, back := false, asked := 0, out := 0, fail := 0 }
     let i : Install :=
       { bind := W.bind64 false 0, remove := false, was := true, reg := (5 : Reg), core := (0 : CoreName), task := 1, done := List.map (BitVec.ofNat 16) (List.range 256) }
     s.Accepts Form.message ∧ s.Free [(5 : Reg), (6 : Reg), (7 : Reg)] ∧ s.classOf (s.g (6 : Reg)) = Except.ok cls ∧ s.sentAnswer = some w ∧
       s.installing = some i ∧ s.coreCount s.cur ≤ i.done.length ∧ s.oldRoutines i.bind = false ∧ Instr.cbind (5 : Reg) (6 : Reg) (7 : Reg) ∈
       [Instr.cbind (5 : Reg) (6 : Reg) (7 : Reg), Instr.cunbind (5 : Reg) (6 : Reg)]) :=
  ⟨⟨(accepts_iff _ _).1 (by decide +kernel), free_of _ _ (by decide +kernel), ok_of _ _ (by decide +kernel), ok_of _ _ (by decide +kernel), ok_of _
    _ (by decide +kernel), by decide +kernel⟩, ⟨(accepts_iff _ _).1 (by decide +kernel), free_of _ _ (by decide +kernel), ok_of _ _ (by
    decide +kernel), ok_of _ _ (by decide +kernel), ok_of _ _ (by decide +kernel), by decide +kernel⟩, ⟨(accepts_iff _ _).1 (by decide +kernel),
    free_of _ _ (by decide +kernel), ok_of _ _ (by decide +kernel), ok_of _ _ (by decide +kernel), ok_of _ _ (by decide +kernel), by
    decide +kernel⟩, ⟨(accepts_iff _ _).1 (by decide +kernel), free_of _ _ (by decide +kernel), ok_of _ _ (by decide +kernel), by decide +kernel⟩,
    ⟨(accepts_iff _ _).1 (by decide +kernel), free_of _ _ (by decide +kernel), ok_of _ _ (by decide +kernel), by decide +kernel⟩⟩

/-- States and operands that meet the hypotheses of Taking. -/
theorem witness_taking :
    (let s : State := W.binder
     s.Accepts Form.message ∧ s.Free [(5 : Reg), (6 : Reg), (7 : Reg), (7 : Reg) + (1 : Reg), (7 : Reg) + (2 : Reg), (7 : Reg) + (3 : Reg)] ∧
       s.Accepts Form.shared ∧ s.seq = Seq.control ∧ bits (s.g (6 : Reg)) 10 54 = (0 : BitVec 54) ∧ 64 ≤ (bits (s.g (6 : Reg)) 0 10).toNat ∧
       BitVec.toNat (7 : Reg) ≤ 28 ∧ (Option.filter (fun (e : Machine.Bind) => e.polled && e.task == s.taskId) (s.core.binding s.ctx (bits (s.g (6
       : Reg)) 0 10)) = none) ∧ s.seq ≠ Seq.routine) ∧
    (let s : State := W.bound (W.bind64 true 1)
     s.Accepts Form.message ∧ s.Free [(5 : Reg), (6 : Reg), (7 : Reg), (7 : Reg) + (1 : Reg), (7 : Reg) + (2 : Reg), (7 : Reg) + (3 : Reg)] ∧ s.seq
       = Seq.control ∧ bits (s.g (6 : Reg)) 10 54 = (0 : BitVec 54) ∧ 64 ≤ (bits (s.g (6 : Reg)) 0 10).toNat ∧ BitVec.toNat (7 : Reg) ≤ 28 ∧
       (Option.filter (fun (e : Machine.Bind) => e.polled && e.task == s.taskId) (s.core.binding s.ctx (bits (s.g (6 : Reg)) 0 10)) = some
       (W.bind64 true 1)) ∧ s.oldestMessage (W.bind64 true 1) = none) ∧
    (let s : State := W.polled false
     let src : Word := 0x0000040000000040#64
     let args : List Word := [0x0000000000000009#64, 0x000000000000000a#64, 0x000000000000000b#64, 0x000000000000000c#64]
     let nw : Bool := false
     let ns : Bool := true
     let u : State := { (W.polled false) with core := (W.polled false).core.modMsg fun (x : Msg) => { x with fast := dropAt 0 x.fast } }
     s.Accepts Form.message ∧ s.Free [(5 : Reg), (6 : Reg), (7 : Reg), (7 : Reg) + (1 : Reg), (7 : Reg) + (2 : Reg), (7 : Reg) + (3 : Reg)] ∧ s.seq
       = Seq.control ∧ bits (s.g (6 : Reg)) 10 54 = (0 : BitVec 54) ∧ 64 ≤ (bits (s.g (6 : Reg)) 0 10).toNat ∧ BitVec.toNat (7 : Reg) ≤ 28 ∧
       (Option.filter (fun (e : Machine.Bind) => e.polled && e.task == s.taskId) (s.core.binding s.ctx (bits (s.g (6 : Reg)) 0 10)) = some
       (W.bind64 true 1)) ∧ s.oldestMessage (W.bind64 true 1) = some (src, args, nw, ns, u) ∧ (nw = false ∨ ns = bit s.thr.kstatus 2)) ∧
    (let s : State := W.polled true
     let src : Word := 0x0000040000000040#64
     let args : List Word := [0x0000000000000009#64, 0x000000000000000a#64, 0x000000000000000b#64, 0x000000000000000c#64]
     let nw : Bool := true
     let ns : Bool := true
     let u : State := { (W.polled true) with core := (W.polled true).core.modMsg fun (x : Msg) => { x with fast := dropAt 0 x.fast } }
     s.Accepts Form.message ∧ s.Free [(5 : Reg), (6 : Reg), (7 : Reg), (7 : Reg) + (1 : Reg), (7 : Reg) + (2 : Reg), (7 : Reg) + (3 : Reg)] ∧ s.seq
       = Seq.control ∧ bits (s.g (6 : Reg)) 10 54 = (0 : BitVec 54) ∧ 64 ≤ (bits (s.g (6 : Reg)) 0 10).toNat ∧ BitVec.toNat (7 : Reg) ≤ 28 ∧
       (Option.filter (fun (e : Machine.Bind) => e.polled && e.task == s.taskId) (s.core.binding s.ctx (bits (s.g (6 : Reg)) 0 10)) = some
       (W.bind64 true 1)) ∧ s.oldestMessage (W.bind64 true 1) = some (src, args, nw, ns, u) ∧ nw = true ∧ ns ≠ bit s.thr.kstatus 2) ∧
    (let s : State := W.routine
     s.Accepts Form.shared ∧ s.seq = Seq.routine ∧ s.oc.ocl = 0 ∧ s.oc.ocs = 0 ∧ s.released = true ∧ s.tt = false) :=
  ⟨⟨(accepts_iff _ _).1 (by decide +kernel), free_of _ _ (by decide +kernel), (accepts_iff _ _).1 (by decide +kernel), by decide +kernel⟩,
    ⟨(accepts_iff _ _).1 (by decide +kernel), free_of _ _ (by decide +kernel), by decide +kernel⟩, ⟨(accepts_iff _ _).1 (by decide +kernel),
    free_of _ _ (by decide +kernel), by decide +kernel⟩, ⟨(accepts_iff _ _).1 (by decide +kernel), free_of _ _ (by decide +kernel), by
    decide +kernel⟩, ⟨(accepts_iff _ _).1 (by decide +kernel), by decide +kernel⟩⟩

/-- States and operands that meet the hypotheses of Dispatching. -/
theorem witness_dispatching :
    (let s : State := W.toStart
     let m : Inbound := W.message false (some (W.bind64 false 0))
     let rest : List Inbound := []
     (s.getCore (0 : CoreName)).msg.inbox = m :: rest ∧ m.bind = some (W.bind64 false 0) ∧ (s.getCore (0 : CoreName)).msg.bank = none ∧ (s.getCore
       (0 : CoreName)).ctl.stopped = false ∧ s.dieHalted (dieOf (0 : CoreName)) = false) ∧
    (let s : State := W.unbound
     (s.getCore (0 : CoreName)).msg.unbound[0]? = some (W.message false none)) ∧
    (let s : State := W.installing
     let i : Install := { bind := W.bind64 false 0, remove := false, was := true, reg := (5 : Reg), core := (0 : CoreName), task := 1, done := [] }
     s.fab.installs[(3 / 4096 : Nat)]? = some i ∧ i.done.contains (BitVec.ofNat 16 (3 % 4096)) = false ∧ (Option.any (fun (p : Partition) =>
       p.dies.contains (dieOf (BitVec.ofNat 16 (3 % 4096)))) ((s.partOf (dieOf i.core)).bind s.part) = true)) ∧
    (let s : State := W.completed
     let o : Outst :=
       { src := { pkg := 0x000#10, die := 0x00#5, unit := 0x00#8, slice := false }, dst := { pkg := 0x000#10, die := 0x00#5, unit := 0x01#8, slice := false }, epoch := 0x01#8, seq := 0x0004#16, cls := 0x040#10, ctx := 0x0001#16, nw := false, ns := false, opening := false, plane := 0x0#3, body := Sys2Proof.Machine.Body.msg [0x0000000000000000#64, 0x0000000000000000#64, 0x0000000000000000#64, 0x0000000000000000#64] [], purpose := Sys2Proof.Machine.Purpose.send 0x0000#16 (Sys2Proof.Seq.control) 0x06#5 0x0000020000000040#64 1 7, noticed := false, fence := false, stale := false, first := none, line := none, answer := some (0x00#8, Sys2Proof.Machine.Body.value [0x0000000000000003#64]) }
     let dw : Word := 0x0000020000000040#64
     let ws : List Word := []
     s.fab.outst[0]? = some o ∧ o.answer = some ((0 : Byte), Body.value ((3 : Word) :: ws)) ∧ o.purpose = Purpose.send (0 : CoreName) Seq.control
       (6 : Reg) dw 1 7 ∧ (Option.any (fun (x : Machine.Task) => x.id == 1) (s.getCore (0 : CoreName)).ctl.task = true) ∧ (6 : Reg) ≠ (0 : Reg)) :=
  ⟨by decide +kernel, by decide +kernel, by decide +kernel, by decide +kernel⟩

/-- States and operands that meet the hypotheses of Copies. -/
theorem witness_copies :
    (let s : State := W.tiled (0x4000) (W.controlWord false 1 256) (0)
     let off : Nat := 128
     let out : Bool := false
     let n : Nat := 256
     let e : Word := 0x00000000000010f2#64
     let pa : Nat := 9007199254757376
     s.Accepts Form.streamer ∧ s.Free [(5 : Reg), (9 : Reg), (9 : Reg) + (1 : Reg)] ∧ s.controlWord (s.g ((9 : Reg) + (1 : Reg))) false = Except.ok
       (off, out, n) ∧ s.readyTile (3 : TileNo) = Except.ok e ∧ s.engineSpan (s.g (9 : Reg)) n (if out = true then Need.engineWrite else
       Need.engineRead) = Except.ok pa ∧ s.mayIssue false [(Eng.copy, !out, s.tileAddr (3 : TileNo) + off, n), (Eng.copy, out, pa, n)] = Except.ok
       () ∧ (s.roomForUnits (if out = true then [] else List.map (fun (x : UnitName × Nat × (Nat → Body)) => x.1) (s.askUnit pa)) = Except.ok ()) ∧
       BitVec.toNat (9 : Reg) + 2 ≤ 32 ∧ BitVec.toNat (s.g (9 : Reg)) % 4 = 0 ∧ off + n ≤ tileBytes e) ∧
    (let s : State := W.tiled (0x50000) (W.controlWord true 1 0) (0)
     let off : Nat := 128
     let out : Bool := true
     let n : Nat := 0
     let e : Word := 0x00000000000010f2#64
     let map : TMap := s.core.vec.m.get (BitVec.toFin (2 : BitVec 4))
     let rb : Nat := mapRowBytes map
     let rows : List (Nat × Option (Word × Nat)) := List.map (fun (y : Nat) => (y, rowSpan map (s.g (9 : Reg)) y)) (List.range (mapRows map))
     let ta : Nat := s.tileAddr (3 : TileNo) + off
     let used : List (Word × Nat) := List.filterMap (fun (r : Nat × Option (Word × Nat)) => Option.map (fun (x : Word × Nat) => (BitVec.ofNat 64
       (ta + r.1 * rb), x.2)) r.2) rows
     let own : List (Eng × Bool × Nat × Nat) := if out = true then (boundsOf used).elim [] fun (b : Nat × Nat) => [(Eng.copy, false, b.1, b.2 -
       b.1)] else [(Eng.copy, true, ta, mapRows map * rb)]
     s.Accepts Form.streamer ∧ s.Free [(5 : Reg), (9 : Reg), (9 : Reg) + (1 : Reg)] ∧ s.controlWord (s.g ((9 : Reg) + (1 : Reg))) true = Except.ok
       (off, out, n) ∧ s.readyTile (3 : TileNo) = Except.ok e ∧ s.mayIssue false own = Except.ok () ∧ BitVec.toNat (9 : Reg) + 2 ≤ 32 ∧ mapTileOk
       map (s.g (9 : Reg)) = true ∧ off + mapRows map * rb ≤ tileBytes e ∧ (boundsOf (List.filterMap (fun (x : Nat × Option (Word × Nat)) => x.2)
       rows) = none)) ∧
    (let s : State := W.tiled (0x0) (W.controlWord false 1 0) (0)
     let off : Nat := 128
     let out : Bool := false
     let n : Nat := 0
     let e : Word := 0x00000000000010f2#64
     let map : TMap := s.core.vec.m.get (BitVec.toFin (2 : BitVec 4))
     let rb : Nat := mapRowBytes map
     let rows : List (Nat × Option (Word × Nat)) := List.map (fun (y : Nat) => (y, rowSpan map (s.g (9 : Reg)) y)) (List.range (mapRows map))
     let ta : Nat := s.tileAddr (3 : TileNo) + off
     let used : List (Word × Nat) := List.filterMap (fun (r : Nat × Option (Word × Nat)) => Option.map (fun (x : Word × Nat) => (BitVec.ofNat 64
       (ta + r.1 * rb), x.2)) r.2) rows
     let own : List (Eng × Bool × Nat × Nat) := if out = true then (boundsOf used).elim [] fun (b : Nat × Nat) => [(Eng.copy, false, b.1, b.2 -
       b.1)] else [(Eng.copy, true, ta, mapRows map * rb)]
     let lo : Nat := 16384
     let hi : Nat := 16768
     let pa : Nat := 9007199254757376
     s.Accepts Form.streamer ∧ s.Free [(5 : Reg), (9 : Reg), (9 : Reg) + (1 : Reg)] ∧ s.controlWord (s.g ((9 : Reg) + (1 : Reg))) true = Except.ok
       (off, out, n) ∧ s.readyTile (3 : TileNo) = Except.ok e ∧ s.engineSpan (BitVec.ofNat 64 lo) (hi - lo) (if out = true then Need.engineWrite
       else Need.engineRead) = Except.ok pa ∧ s.mayIssue false (own ++ [(Eng.copy, out, pa, hi - lo)]) = Except.ok () ∧ (s.roomForUnits (if out =
       true then [] else List.map (fun (x : UnitName × Nat × (Nat → Body)) => x.1) (s.askUnit pa)) = Except.ok ()) ∧ BitVec.toNat (9 : Reg) + 2 ≤
       32 ∧ mapTileOk map (s.g (9 : Reg)) = true ∧ off + mapRows map * rb ≤ tileBytes e ∧ (boundsOf (List.filterMap (fun (x : Nat × Option (Word ×
       Nat)) => x.2) rows) = some (lo, hi))) ∧
    (let s : State := W.tiled (0x4000) (256) (77)
     let n : Nat := 256
     let pa : Nat := 9007199254757376
     s.Accepts Form.streamer ∧ s.Free [(5 : Reg), (9 : Reg), (9 : Reg) + (1 : Reg)] ∧ s.controlWord (s.g ((9 : Reg) + (1 : Reg))) false = Except.ok
       (0, false, n) ∧ s.engineSpan (s.g (9 : Reg)) n Need.engineWrite = Except.ok pa ∧ s.mayIssue false [(Eng.copy, true, pa, n)] = Except.ok () ∧
       (s.roomForUnits (List.map (fun (x : UnitName × Nat × (Nat → Body)) => x.1) (s.askUnit pa)) = Except.ok ()) ∧ BitVec.toNat (9 : Reg) + 2 ≤ 32
       ∧ BitVec.toNat (9 : Reg) + 3 ≤ 32 ∧ s.held ((9 : Reg) + (2 : Reg)) = false ∧ BitVec.toNat (s.g (9 : Reg)) % 4 = 0) ∧
    (let s : State := W.tiled (0x4000) (0) (0x0)
     let out : Bool := false
     let pa : Nat := 9007199254757376
     let sa : Nat := 0
     s.Accepts Form.streamer ∧ s.Free [(5 : Reg), (9 : Reg), (9 : Reg) + (1 : Reg)] ∧ s.engineSpan (s.g (9 : Reg)) 16384 Need.engineWrite =
       Except.ok pa ∧ s.engineSpan (s.g ((9 : Reg) + (2 : Reg))) 16384 Need.engineRead = Except.ok sa ∧ s.mayIssue false [(Eng.copy, false, sa,
       16384), (Eng.copy, true, pa, 16384)] = Except.ok () ∧ s.roomForUnits (if s.place sa = Place.hole then [] else [s.ownerUnit sa]) = Except.ok
       () ∧ BitVec.toNat (9 : Reg) + 2 ≤ 32 ∧ BitVec.toNat (9 : Reg) + 3 ≤ 32 ∧ s.held ((9 : Reg) + (2 : Reg)) = false ∧ bits (s.g ((9 : Reg) + (1
       : Reg))) 9 22 = (0 : BitVec 22) ∧ out = false ∧ (0 : TileNo) = (0 : TileNo) ∧ bits (s.g ((9 : Reg) + (1 : Reg))) 32 32 = (0 : BitVec 32) ∧
       bits (s.g ((9 : Reg) + (1 : Reg))) 0 9 = (0 : BitVec 9) ∧ BitVec.toNat (s.g (9 : Reg)) % 16384 = 0 ∧ BitVec.toNat (s.g ((9 : Reg) + (2 :
       Reg))) % 16384 = 0) ∧
    (let s : State := W.tiled (0x4000) (0x80000005) (0)
     let e : Word := 0x00000000000010f2#64
     let pa : Nat := 9007199254757376
     s.Accepts Form.streamer ∧ s.Free [(5 : Reg), (9 : Reg), (9 : Reg) + (1 : Reg)] ∧ s.readyTile (3 : TileNo) = Except.ok e ∧ s.engineSpan (s.g (9
       : Reg)) 16384 Need.engineWrite = Except.ok pa ∧ s.mayIssue false [(Eng.copy, false, s.tileAddr (3 : TileNo), 57344), (Eng.copy, true, pa,
       16384)] = Except.ok () ∧ BitVec.toNat (9 : Reg) + 2 ≤ 32 ∧ BitVec.toNat (9 : Reg) + 3 ≤ 32 ∧ s.held ((9 : Reg) + (2 : Reg)) = false ∧ bits
       (s.g ((9 : Reg) + (1 : Reg))) 9 22 = (0 : BitVec 22) ∧ bit (s.g ((9 : Reg) + (1 : Reg))) 31 = true ∧ 1 ≤ (bits (s.g ((9 : Reg) + (1 : Reg)))
       0 8).toNat ∧ (bits (s.g ((9 : Reg) + (1 : Reg))) 0 8).toNat ≤ 224 ∧ 57344 ≤ tileBytes e ∧ BitVec.toNat (s.g (9 : Reg)) % 16384 = 0) :=
  ⟨⟨(accepts_iff _ _).1 (by decide +kernel), free_of _ _ (by decide +kernel), ok_of _ _ (by decide +kernel), ok_of _ _ (by decide +kernel), ok_of _
    _ (by decide +kernel), ok_of _ _ (by decide +kernel), ok_of _ _ (by decide +kernel), by decide +kernel⟩, ⟨(accepts_iff _ _).1 (by
    decide +kernel), free_of _ _ (by decide +kernel), ok_of _ _ (by decide +kernel), ok_of _ _ (by decide +kernel), ok_of _ _ (by decide +kernel),
    by decide +kernel⟩, ⟨(accepts_iff _ _).1 (by decide +kernel), free_of _ _ (by decide +kernel), ok_of _ _ (by decide +kernel), ok_of _ _ (by
    decide +kernel), ok_of _ _ (by decide +kernel), ok_of _ _ (by decide +kernel), ok_of _ _ (by decide +kernel), by decide +kernel⟩, ⟨(accepts_iff
    _ _).1 (by decide +kernel), free_of _ _ (by decide +kernel), ok_of _ _ (by decide +kernel), ok_of _ _ (by decide +kernel), ok_of _ _ (by
    decide +kernel), ok_of _ _ (by decide +kernel), by decide +kernel⟩, ⟨(accepts_iff _ _).1 (by decide +kernel), free_of _ _ (by decide +kernel),
    ok_of _ _ (by decide +kernel), ok_of _ _ (by decide +kernel), ok_of _ _ (by decide +kernel), ok_of _ _ (by decide +kernel), by decide +kernel⟩,
    ⟨(accepts_iff _ _).1 (by decide +kernel), free_of _ _ (by decide +kernel), ok_of _ _ (by decide +kernel), ok_of _ _ (by decide +kernel), ok_of
    _ _ (by decide +kernel), by decide +kernel⟩⟩

/-- States and operands that meet the hypotheses of GatherAndParity. -/
theorem witness_gather_and_parity :
    (let s : State := W.striped (W.tiled 0 2 5) 1
     let e : Word := 0x00000000000010f2#64
     let ei : Word := 0x0000000000002802#64
     let rows : List (Nat × Option (Word × Nat)) := [(0, some (0x0000000000004000#64, 9007199254757376)), (1, some (0x0000000000004000#64,
       9007199254757376))]
     let map : TMap := s.core.vec.m.get (BitVec.toFin (2 : BitVec 4))
     let n : Nat := mapCols map * mapWidth map / 8
     let ta : Nat := s.tileAddr (3 : TileNo)
     let range : Eng × Bool × Nat × Nat := (Eng.gather, true, ta, mapRows map * mapRowBytes map)
     let moves : List Move := List.flatMap
       (fun (r : Nat × Option (Word × Nat)) => match r.2 with | some (va, pa) => movesIn va pa (ta + r.1 * mapRowBytes map) (r.1 * mapRowBytes map) n | none => zeroPieces (ta + r.1 * mapRowBytes map) (r.1 * mapRowBytes map) n)
       rows
     let units : List UnitName := List.map (fun (x : UnitName × Nat × (Nat → Body)) => x.1) (s.listRequests moves (mapRowBytes map) false)
     let r : Region :=
       { rid := 0, ctx := 0x0001#16, ngrp := 4, shards := [9007199255789568, 9570149210259456, 10133099164729344, 10696049119199232, 9007199259983872, 9570149214453760], lost := 0x00#6, standing := true, crc := 0x00000000#32 }
     let from_ : Eng × Bool × Nat × Nat := (Eng.gather, false, ta, mapRows map * mapRowBytes map)
     let moves' : List Move := List.flatMap
       (fun (r : Nat × Option (Word × Nat)) => match r.2 with | some (va, pa) => s.movesOut va pa (r.1 * mapRowBytes map) (readBytes s.mem (ta + r.1 * mapRowBytes map) n) (some (ta + r.1 * mapRowBytes map, 1)) | none => [])
       rows
     let units' : List UnitName := List.map (fun (x : UnitName × Nat × (Nat → Body)) => x.1) (s.listRequests moves' (mapRowBytes map) true)
     let first : Nat := 0
     let n' : Nat := 2
     s.Accepts Form.streamer ∧ s.Free [(5 : Reg)] ∧ s.readyTile (3 : TileNo) = Except.ok e ∧ s.readyTile (4 : TileNo) = Except.ok ei ∧
       s.translateRows n Need.engineRead (s.listRows map (4 : TileNo)) = Except.ok rows ∧ s.mayIssue false [range] = Except.ok () ∧ s.roomForUnits
       units = Except.ok () ∧ s.translateRows n Need.engineWrite (s.listRows map (4 : TileNo)) = Except.ok rows ∧ s.mayIssue false [from_] =
       Except.ok () ∧ s.roomForUnits units' = Except.ok () ∧ s.Free [(5 : Reg), (9 : Reg), (9 : Reg) + (1 : Reg)] ∧ s.groupsOf (s.g (9 : Reg)) (s.g
       ((9 : Reg) + (1 : Reg))) = Except.ok (r, first, n') ∧ s.mayIssue false [] = Except.ok () ∧ s.roomForUnits [s.ownerUnit (r.base 4)] =
       Except.ok () ∧ (3 : TileNo) ≠ (4 : TileNo) ∧ mapOk map = true ∧ mapCols map ≤ mapExt map 0 + 1 ∧ mapCols map * mapWidth map % 32 = 0 ∧ bits
       map 0 2 = (0 : BitVec 2) ∧ bits map 128 2 = (0 : BitVec 2) ∧ 4 * mapRows map ≤ tileBytes ei ∧ mapRows map * mapRowBytes map ≤ tileBytes e ∧
       s.countersInUse + units.eraseDups.length ≤ 64 ∧ s.countersInUse + units'.eraseDups.length ≤ 64 ∧ BitVec.toNat (9 : Reg) + 2 ≤ 32 ∧ (s.pm ≠
       (0 : BitVec 2) ∨ r.ctx = s.ctx) ∧ s.pm = (0 : BitVec 2) ∧ BitVec.toNat (9 : Reg) + 3 ≤ 32 ∧ s.held ((9 : Reg) + (2 : Reg)) = false) ∧
    (let s : State := W.striped (W.tiled 0 2 5) 2
     let r : Region :=
       { rid := 0, ctx := 0x0002#16, ngrp := 4, shards := [9007199255789568, 9570149210259456, 10133099164729344, 10696049119199232, 9007199259983872, 9570149214453760], lost := 0x00#6, standing := true, crc := 0x00000000#32 }
     let first : Nat := 0
     let n' : Nat := 2
     s.Accepts Form.streamer ∧ s.Free [(5 : Reg), (9 : Reg), (9 : Reg) + (1 : Reg)] ∧ s.groupsOf (s.g (9 : Reg)) (s.g ((9 : Reg) + (1 : Reg))) =
       Except.ok (r, first, n') ∧ BitVec.toNat (9 : Reg) + 2 ≤ 32 ∧ s.pm = (0 : BitVec 2) ∧ r.ctx ≠ s.ctx) ∧
    (let s : State := W.striped (W.service (W.tiled 0 2 5)) 2
     let r : Region :=
       { rid := 0, ctx := 0x0002#16, ngrp := 4, shards := [9007199255789568, 9570149210259456, 10133099164729344, 10696049119199232, 9007199259983872, 9570149214453760], lost := 0x00#6, standing := true, crc := 0x00000000#32 }
     let first : Nat := 0
     let n' : Nat := 2
     let l : List Nat := [2]
     s.Accepts Form.streamer ∧ s.Free [(5 : Reg), (9 : Reg), (9 : Reg) + (1 : Reg)] ∧ s.groupsOf (s.g (9 : Reg)) (s.g ((9 : Reg) + (1 : Reg))) =
       Except.ok (r, first, n') ∧ s.mayIssue false [] = Except.ok () ∧ s.roomForUnits [s.ownerUnit (r.base 0)] = Except.ok () ∧ BitVec.toNat (9 :
       Reg) + 2 ≤ 32 ∧ s.pm ≠ (0 : BitVec 2) ∧ BitVec.toNat (9 : Reg) + 3 ≤ 32 ∧ s.held ((9 : Reg) + (2 : Reg)) = false ∧ (List.filter (fun (x :
       Nat) => bit (s.g ((9 : Reg) + (2 : Reg))) x) (List.range 6) = 0 :: l) ∧ l.length ≤ 1 ∧ bits (s.g ((9 : Reg) + (2 : Reg))) 6 58 = (0 : BitVec
       58)) :=
  ⟨⟨(accepts_iff _ _).1 (by decide +kernel), free_of _ _ (by decide +kernel), ok_of _ _ (by decide +kernel), ok_of _ _ (by decide +kernel), ok_of _
    _ (by decide +kernel), ok_of _ _ (by decide +kernel), ok_of _ _ (by decide +kernel), ok_of _ _ (by decide +kernel), ok_of _ _ (by
    decide +kernel), ok_of _ _ (by decide +kernel), free_of _ _ (by decide +kernel), ok_of _ _ (by decide +kernel), ok_of _ _ (by decide +kernel),
    ok_of _ _ (by decide +kernel), by decide +kernel⟩, ⟨(accepts_iff _ _).1 (by decide +kernel), free_of _ _ (by decide +kernel), ok_of _ _ (by
    decide +kernel), by decide +kernel⟩, ⟨(accepts_iff _ _).1 (by decide +kernel), free_of _ _ (by decide +kernel), ok_of _ _ (by decide +kernel),
    ok_of _ _ (by decide +kernel), ok_of _ _ (by decide +kernel), by decide +kernel⟩⟩

/-- States and operands that meet the hypotheses of StreamerUnits (part 1). -/
theorem witness_streamer_units_1 :
    (let s : State := W.serving none (W.recv (W.unitOf 0) W.home 9 (.copyq 0 7))
     let r : Recv := W.recv (W.unitOf (0 : CoreName)) W.home (9 : BitVec 10) (Body.copyq (0 : CoreName) 7)
     s.request 0 [9] = some r ∧ r.body = Body.copyq (0 : CoreName) 7 ∧ s.findOp (0 : CoreName) 7 = none) ∧
    (let s : State := W.movingTo (W.serving (some (W.op .copyIn W.inMove)) (W.recv (W.unitOf 0) W.home 9 (.copyq 0 7)))
     let m : Move := W.inMove
     let r : Recv := W.recv (W.unitOf 0) W.home 9 (.copyq 0 7)
     let x : Nat := W.sram
     let x' : Nat := W.hbm
     let b : Nat := 9570149208195072
     s.findOp (0 : CoreName) 7 = some (W.op OpKind.copyIn m) ∧ (W.op OpKind.copyIn m).moves[0]? = some m ∧ m.st = Progress.todo ∧ m.src = some (x'
       + 16384) ∧ m.dst = some (x + 65536) ∧ (∀ x ∈ (W.op OpKind.copyIn m).moves, x.st = Progress.todo ∧ ∀ (y : Nat), x.src = some y →
       s.engineStatus (0 : CoreName) y x.bytes = (0 : Byte)) ∧ (s.request 0 [9] = some r ∧ r.body = Body.copyq (0 : CoreName) 7 ∧ (W.op
       OpKind.copyIn m).kind = OpKind.copyIn ∧ 0 = 0 ∧ Instr.copyq 0 = Instr.copyq 0 ∨ s.request 0 [11] = some r ∧ r.body = Body.gsub (0 :
       CoreName) 7 [[0]] ∧ [[0]].flatten.head? = some 0 ∧ (W.op OpKind.copyIn m).kind = OpKind.gather ∧ Instr.copyq 0 = Instr.gsub 0) ∧ s.atUnit
       r.dst (x' + 16384) = Serving.redir b) ∧
    (let s : State := W.serving (some (W.op .copyIn W.inMove)) (W.recv (W.unitOf 0) W.home 9 (.copyq 0 7))
     let m : Move := W.inMove
     let r : Recv := W.recv (W.unitOf 0) W.home 9 (.copyq 0 7)
     let x : Nat := W.sram
     let x' : Nat := W.hbm
     s.findOp (0 : CoreName) 7 = some (W.op OpKind.copyIn m) ∧ (W.op OpKind.copyIn m).moves[0]? = some m ∧ m.st = Progress.todo ∧ m.src = some (x'
       + 16384) ∧ m.dst = some (x + 65536) ∧ (∀ x ∈ (W.op OpKind.copyIn m).moves, x.st = Progress.todo ∧ ∀ (y : Nat), x.src = some y →
       s.engineStatus (0 : CoreName) y x.bytes = (0 : Byte)) ∧ (s.request 0 [9] = some r ∧ r.body = Body.copyq (0 : CoreName) 7 ∧ (W.op
       OpKind.copyIn m).kind = OpKind.copyIn ∧ 0 = 0 ∧ Instr.copyq 0 = Instr.copyq 0 ∨ s.request 0 [11] = some r ∧ r.body = Body.gsub (0 :
       CoreName) 7 [[0]] ∧ [[0]].flatten.head? = some 0 ∧ (W.op OpKind.copyIn m).kind = OpKind.gather ∧ Instr.copyq 0 = Instr.gsub 0) ∧ s.atUnit
       r.dst (x' + 16384) = Serving.here (x' + 16384) ∧ s.homeSt (x' + 16384) = 0 ∧ s.canPost r.dst (coreUnit s (0 : CoreName)) 1 = true) ∧
    (let s : State := W.serving (some (W.op .gather { W.inMove with src := some (W.sram + 0x50000) })) (W.recv (W.unitOf 0) (W.unitOf 0) 11 (.gsub
       0 7 [[0]]))
     let x : Nat := W.sram
     let r : Recv := W.recv (W.unitOf (0 : CoreName)) (W.unitOf (0 : CoreName)) (11 : BitVec 10) (Body.gsub (0 : CoreName) 7 [[0]])
     let o : EngineOp :=
       { id := 7, task := 1, q := Sys2Proof.Seq.control, kind := Sys2Proof.Machine.OpKind.gather, reg := 0x05#5, fn := 0x0#3, ocx := false, tile := some 0x03#6, va := 0x0000000000004000#64, moves := [{ src := some 327680, dst := some 65536, va := 0x0000000000004000#64, bytes := 4, offset := 0, data := [], poison := false, st := Sys2Proof.Machine.Progress.todo }], count := 0, code := 0x00#8, addr := 0x0000000000000000#64 }
     let m : Move :=
       { src := some 327680, dst := some 65536, va := 0x0000000000004000#64, bytes := 4, offset := 0, data := [], poison := false, st := Sys2Proof.Machine.Progress.todo }
     s.request 0 [11] = some r ∧ r.body = Body.gsub (0 : CoreName) 7 [[0]] ∧ s.findOp (0 : CoreName) 7 = some o ∧ o.kind = OpKind.gather ∧ o.moves
       = [m] ∧ m.st = Progress.todo ∧ m.src = some (x + 327680) ∧ s.ownerUnit (x + 327680) = r.dst ∧ s.engineStatus (0 : CoreName) (x + 327680)
       m.bytes ≠ (0 : Byte)) ∧
    (let s : State := W.serving (some (W.op .copyIn W.inMove)) (W.recv W.home (W.unitOf 0) 10 (.copyd 0 7 0 (W.sram+0x10000) [1,2,3,4] false))
     let x : Nat := W.sram
     let r : Recv :=
       { src := { pkg := 0x000#10, die := 0x10#5, unit := 0x00#8, slice := false }, dst := { pkg := 0x000#10, die := 0x00#5, unit := 0x00#8, slice := false }, epoch := 0x01#8, seq := 0x0004#16, cls := 0x00a#10, ctx := 0x0001#16, nw := false, ns := false, body := Sys2Proof.Machine.Body.copyd 0x0000#16 7 0 65536 [0x01#8, 0x02#8, 0x03#8, 0x04#8] false, left := [], pieces := [], notified := false, held := false, victim := none, stalled := false }
     let bs : List Byte := [0x01#8, 0x02#8, 0x03#8, 0x04#8]
     s.MemoryWf ∧ s.request 0 [10] = some r ∧ r.body = Body.copyd (0 : CoreName) 7 0 (x + 65536) bs false ∧ s.findOp (0 : CoreName) 7 = some (W.op
       OpKind.copyIn W.inMove) ∧ (W.op OpKind.copyIn W.inMove).moves[0]? = some W.inMove ∧ r.dst = coreUnit s (0 : CoreName) ∧ (W.op OpKind.copyIn
       W.inMove).kind ≠ OpKind.kvmove ∧ (W.inMove.st = Progress.todo ∨ W.inMove.st = Progress.sent) ∧ s.codedStall (x + 65536) bs.length = false ∧
       s.deltaRoom r.dst (x + 65536) bs.length = true ∧ (false = true → (W.op OpKind.copyIn W.inMove).tile ≠ none → Option.any (fun (x :
       Machine.Task) => x.id == (W.op OpKind.copyIn W.inMove).task) (s.getCore (0 : CoreName)).ctl.task = true)) ∧
    (let s : State := W.movingTo (W.serving (some (W.op .copyOut W.outMove)) (W.recv (W.unitOf 0) W.home 10 (.copyd 0 7 0 (W.hbm+0x4000) [1,2,3,4]
       false)))
     let x' : Nat := W.hbm
     let r : Recv :=
       { src := { pkg := 0x000#10, die := 0x00#5, unit := 0x00#8, slice := false }, dst := { pkg := 0x000#10, die := 0x10#5, unit := 0x00#8, slice := false }, epoch := 0x01#8, seq := 0x0004#16, cls := 0x00a#10, ctx := 0x0001#16, nw := false, ns := false, body := Sys2Proof.Machine.Body.copyd 0x0000#16 7 0 9007199254757376 [0x01#8, 0x02#8, 0x03#8, 0x04#8] false, left := [], pieces := [], notified := false, held := false, victim := none, stalled := false }
     let bs : List Byte := [0x01#8, 0x02#8, 0x03#8, 0x04#8]
     let a : Nat := 9570149208195072
     s.MemoryWf ∧ s.request 0 [10] = some r ∧ r.body = Body.copyd (0 : CoreName) 7 0 (x' + 16384) bs false ∧ s.findOp (0 : CoreName) 7 = some (W.op
       OpKind.copyOut W.outMove) ∧ (W.op OpKind.copyOut W.outMove).moves[0]? = some W.outMove ∧ (r.dst ≠ coreUnit s (0 : CoreName) ∨ (W.op
       OpKind.copyOut W.outMove).kind = OpKind.kvmove) ∧ s.refusal (0 : CoreName) (W.op OpKind.copyOut W.outMove) 0 (x' + 16384) bs.length = (0 :
       Byte) ∧ s.atUnit r.dst (x' + 16384) = Serving.redir a) :=
  ⟨by decide +kernel, by decide +kernel, by decide +kernel, by decide +kernel, ⟨memoryWf_of _ (by decide +kernel), by decide +kernel⟩, ⟨memoryWf_of
    _ (by decide +kernel), by decide +kernel⟩⟩

/-- States and operands that meet the hypotheses of StreamerUnits (part 2). -/
theorem witness_streamer_units_2 :
    (let s : State := W.serving (some (W.op .copyOut W.outMove)) (W.recv (W.unitOf 0) W.home 10 (.copyd 0 7 0 (W.hbm+0x4000) [1,2,3,4] false))
     let x' : Nat := W.hbm
     let r : Recv :=
       { src := { pkg := 0x000#10, die := 0x00#5, unit := 0x00#8, slice := false }, dst := { pkg := 0x000#10, die := 0x10#5, unit := 0x00#8, slice := false }, epoch := 0x01#8, seq := 0x0004#16, cls := 0x00a#10, ctx := 0x0001#16, nw := false, ns := false, body := Sys2Proof.Machine.Body.copyd 0x0000#16 7 0 9007199254757376 [0x01#8, 0x02#8, 0x03#8, 0x04#8] false, left := [], pieces := [], notified := false, held := false, victim := none, stalled := false }
     let bs : List Byte := [0x01#8, 0x02#8, 0x03#8, 0x04#8]
     s.MemoryWf ∧ s.request 0 [10] = some r ∧ r.body = Body.copyd (0 : CoreName) 7 0 (x' + 16384) bs false ∧ s.findOp (0 : CoreName) 7 = some (W.op
       OpKind.copyOut W.outMove) ∧ (W.op OpKind.copyOut W.outMove).moves[0]? = some W.outMove ∧ (r.dst ≠ coreUnit s (0 : CoreName) ∨ (W.op
       OpKind.copyOut W.outMove).kind = OpKind.kvmove) ∧ s.refusal (0 : CoreName) (W.op OpKind.copyOut W.outMove) 0 (x' + 16384) bs.length = (0 :
       Byte) ∧ s.atUnit r.dst (x' + 16384) = Serving.here (x' + 16384) ∧ s.homeSt (x' + 16384) = 0 ∧ s.codedStall (x' + 16384) bs.length = false ∧
       s.deltaRoom r.dst (x' + 16384) bs.length = true ∧ (s.place (x' + 16384) ≠ Place.memory ∨ s.reclaim ((x' + 16384) / 128) (wordMask (x' +
       16384) bs.length) (0 : W32) = none)) ∧
    (let s : State := W.serving (some (W.op .scatter {W.outMove with st := .todo})) (W.recv (W.unitOf 0) W.home 12 (.ssub 0 7 [[0]]))
     let x' : Nat := W.hbm
     let r : Recv := W.recv (W.unitOf (0 : CoreName)) W.home (12 : BitVec 10) (Body.ssub (0 : CoreName) 7 [[0]])
     let o : EngineOp :=
       { id := 7, task := 1, q := Sys2Proof.Seq.control, kind := Sys2Proof.Machine.OpKind.scatter, reg := 0x05#5, fn := 0x0#3, ocx := false, tile := some 0x03#6, va := 0x0000000000004000#64, moves := [{ src := some 65536, dst := some 9007199254757376, va := 0x0000000000004000#64, bytes := 4, offset := 0, data := [0x01#8, 0x02#8, 0x03#8, 0x04#8], poison := false, st := Sys2Proof.Machine.Progress.todo }], count := 0, code := 0x00#8, addr := 0x0000000000000000#64 }
     let m : Move :=
       { src := some 65536, dst := some 9007199254757376, va := 0x0000000000004000#64, bytes := 4, offset := 0, data := [0x01#8, 0x02#8, 0x03#8, 0x04#8], poison := false, st := Sys2Proof.Machine.Progress.todo }
     s.MemoryWf ∧ s.request 0 [12] = some r ∧ r.body = Body.ssub (0 : CoreName) 7 [[0]] ∧ [[0]].flatten.head? = some 0 ∧ s.findOp (0 : CoreName) 7
       = some o ∧ o.moves[0]? = some m ∧ o.kind = OpKind.scatter ∧ m.st = Progress.todo ∧ m.dst = some (x' + 16384) ∧ (∀ x ∈ o.moves, x.st =
       Progress.todo ∧ ∀ (y : Nat), x.dst = some y → s.engineStatus (0 : CoreName) y x.bytes = (0 : Byte)) ∧ s.atUnit r.dst (x' + 16384) =
       Serving.here (x' + 16384) ∧ s.homeSt (x' + 16384) = 0 ∧ s.codedStall (x' + 16384) m.data.length = false ∧ s.deltaRoom r.dst (x' + 16384)
       m.data.length = true ∧ (s.place (x' + 16384) ≠ Place.memory ∨ s.reclaim ((x' + 16384) / 128) (wordMask (x' + 16384) m.data.length) (0 : W32)
       = none)) ∧
    (let s : State := W.striped (W.serving none (W.recv (W.unitOf 0) W.home 25 (.stripe (W.hbm+0x100000) (List.replicate 128 3)))) 1
     let x' : Nat := W.hbm
     let r : Recv := W.recv (W.unitOf (0 : CoreName)) W.home (25 : BitVec 10) (Body.stripe (W.hbm + 1048576) (List.replicate 128 (3 : Byte)))
     let delta : List Byte := List.replicate 128 (3 : Byte)
     s.MemoryWf ∧ s.request 0 [25] = some r ∧ r.body = Body.stripe (x' + 1048576) delta ∧ delta.length = 128 ∧ s.lostAt (x' + 1048576) = false ∧
       (s.place (x' + 1048576) ≠ Place.memory ∨ s.reclaim ((x' + 1048576) / 128) (BitVec.ofNat 32 4294967295) (0 : W32) = none)) :=
  ⟨⟨memoryWf_of _ (by decide +kernel), by decide +kernel⟩, ⟨memoryWf_of _ (by decide +kernel), by decide +kernel⟩, ⟨memoryWf_of _ (by
    decide +kernel), by decide +kernel⟩⟩

/-- States and operands that meet the hypotheses of BasinAnswers (part 1). -/
theorem witness_basin_answers_1 :
    (let s : State := W.basined (0x8000000000000000 ||| partWord 0x2000)
     s.Accepts Form.basin ∧ s.Free [(5 : Reg), (6 : Reg)] ∧ bits (s.g (6 : Reg)) 60 3 = (0 : BitVec 3) ∧ bits (s.g (6 : Reg)) 10 27 = (0 : BitVec
       27) ∧ bit (s.g (6 : Reg)) 63 = true ∧ bits (s.g (6 : Reg)) 0 10 = (0 : BitVec 10) ∧ s.partSlice (wordPart (s.g (6 : Reg))) = none ∧
       BitVec.toNat (2 : BitVec 4) ≤ 4 ∧ (2 : BitVec 4) ≠ (3 : BitVec 4)) ∧
    (let s : State := W.basined 0x8000002000000000
     let v : UnitName := { pkg := 0x000#10, die := 0x00#5, unit := 0x00#8, slice := true }
     let k : Machine.Task := W.debtor
     let v' : UnitName := { pkg := 0x000#10, die := 0x00#5, unit := 0x00#8, slice := true }
     s.Accepts Form.basin ∧ s.Free [(5 : Reg), (6 : Reg)] ∧ bits (s.g (6 : Reg)) 60 3 = (0 : BitVec 3) ∧ bits (s.g (6 : Reg)) 10 27 = (0 : BitVec
       27) ∧ bit (s.g (6 : Reg)) 63 = true ∧ bits (s.g (6 : Reg)) 0 10 = (0 : BitVec 10) ∧ s.partSlice (wordPart (s.g (6 : Reg))) = some v ∧
       s.sentAnswer = none ∧ s.canPost s.unit v 1 = true ∧ s.core.ctl.task = some k ∧ recOwed k.record ≠ 0 ∧ s.partSlice (wordPart (recArg k.record
       3)) = some v' ∧ s.canPost s.unit v' 1 = true ∧ BitVec.toNat (2 : BitVec 4) ≤ 4 ∧ (2 : BitVec 4) ≠ (3 : BitVec 4) ∧ tileState (s.core.tile (3
       : TileNo)) = (2 : BitVec 2) ∧ bit (s.core.tile (3 : TileNo)) 34 = false ∧ s.unseen (3 : TileNo) = false ∧ s.core.locked (s.tileAddr (3 :
       TileNo)) (tileBytes (s.core.tile (3 : TileNo))) = false) ∧
    (let s : State := W.told (W.basined 0x8000002000000000) 5
     let v : UnitName := { pkg := 0x000#10, die := 0x00#5, unit := 0x00#8, slice := true }
     let w : Await :=
       { id := 1, q := Sys2Proof.Seq.control, pc := 0x0000000000000100#64, left := 0, got := [(0, [0x05#8, 0x00#8, 0x00#8, 0x00#8, 0x00#8, 0x00#8, 0x00#8, 0x00#8])], status := 0x00#8, sent := true, unit := false, carried := false, back := false, asked := 0, out := 0, fail := 0 }
     let k : Machine.Task := W.debtor
     let v' : UnitName := { pkg := 0x000#10, die := 0x00#5, unit := 0x00#8, slice := true }
     s.Accepts Form.basin ∧ s.Free [(5 : Reg), (6 : Reg)] ∧ bits (s.g (6 : Reg)) 60 3 = (0 : BitVec 3) ∧ bits (s.g (6 : Reg)) 10 27 = (0 : BitVec
       27) ∧ bit (s.g (6 : Reg)) 63 = true ∧ bits (s.g (6 : Reg)) 0 10 = (0 : BitVec 10) ∧ s.partSlice (wordPart (s.g (6 : Reg))) = some v ∧
       s.sentAnswer = some w ∧ w.left = 0 ∧ w.status = (0 : Byte) ∧ s.core.ctl.task = some k ∧ recOwed k.record ≠ 0 ∧ s.partSlice (wordPart (recArg
       k.record 3)) = some v' ∧ BitVec.toNat (2 : BitVec 4) ≤ 4 ∧ (2 : BitVec 4) ≠ (3 : BitVec 4)) ∧
    (let s : State := W.basined 3
     let k : Machine.Task := W.debtor
     let v : UnitName := { pkg := 0x000#10, die := 0x00#5, unit := 0x00#8, slice := true }
     s.Accepts Form.basin ∧ s.Free [(5 : Reg), (6 : Reg)] ∧ bits (s.g (6 : Reg)) 60 3 = (0 : BitVec 3) ∧ bits (s.g (6 : Reg)) 10 27 = (0 : BitVec
       27) ∧ bit (s.g (6 : Reg)) 63 = false ∧ wordPart (s.g (6 : Reg)) = (0 : BitVec 23) ∧ 1 ≤ (bits (s.g (6 : Reg)) 0 10).toNat ∧ (bits (s.g (6 :
       Reg)) 0 10).toNat ≤ 512 ∧ s.sentAnswer = none ∧ s.canPost s.unit (sliceUnit s.mgmt.domain.pkg (dieOf s.cur) (cluster s.cur)) 1 = true ∧
       s.core.ctl.task = some k ∧ BitVec.toNat (s.g (6 : Reg)) ≤ 255 ∧ recOwed k.record ≠ 0 ∧ s.partSlice (wordPart (recArg k.record 3)) = some v ∧
       s.canPost s.unit v 1 = true) ∧
    (let s : State := W.told (W.basined 3) 5
     let w : Await :=
       { id := 1, q := Sys2Proof.Seq.control, pc := 0x0000000000000100#64, left := 0, got := [(0, [0x05#8, 0x00#8, 0x00#8, 0x00#8, 0x00#8, 0x00#8, 0x00#8, 0x00#8])], status := 0x00#8, sent := true, unit := false, carried := false, back := false, asked := 0, out := 0, fail := 0 }
     let k : Machine.Task := W.debtor
     let v : UnitName := { pkg := 0x000#10, die := 0x00#5, unit := 0x00#8, slice := true }
     s.Accepts Form.basin ∧ s.Free [(5 : Reg), (6 : Reg)] ∧ bits (s.g (6 : Reg)) 60 3 = (0 : BitVec 3) ∧ bits (s.g (6 : Reg)) 10 27 = (0 : BitVec
       27) ∧ bit (s.g (6 : Reg)) 63 = false ∧ wordPart (s.g (6 : Reg)) = (0 : BitVec 23) ∧ 1 ≤ (bits (s.g (6 : Reg)) 0 10).toNat ∧ (bits (s.g (6 :
       Reg)) 0 10).toNat ≤ 512 ∧ s.sentAnswer = some w ∧ w.left = 0 ∧ w.status = (0 : Byte) ∧ s.core.ctl.task = some k ∧ BitVec.toNat (s.g (6 :
       Reg)) ≤ 255 ∧ recOwed k.record ≠ 0 ∧ s.partSlice (wordPart (recArg k.record 3)) = some v) ∧
    (let s : State := W.start.setG 6 5
     let k : Machine.Task := W.taskA
     s.Accepts Form.basin ∧ s.Free [(5 : Reg), (6 : Reg)] ∧ s.core.ctl.task = some k ∧ BitVec.toNat (s.g (6 : Reg)) ≤ 255 ∧ (recOwed k.record = 0 ∨
       s.partSlice (wordPart (recArg k.record 3)) = none)) :=
  ⟨⟨(accepts_iff _ _).1 (by decide +kernel), free_of _ _ (by decide +kernel), by decide +kernel⟩, ⟨(accepts_iff _ _).1 (by decide +kernel), free_of
    _ _ (by decide +kernel), by decide +kernel⟩, ⟨(accepts_iff _ _).1 (by decide +kernel), free_of _ _ (by decide +kernel), by decide +kernel⟩,
    ⟨(accepts_iff _ _).1 (by decide +kernel), free_of _ _ (by decide +kernel), by decide +kernel⟩, ⟨(accepts_iff _ _).1 (by decide +kernel),
    free_of _ _ (by decide +kernel), by decide +kernel⟩, ⟨(accepts_iff _ _).1 (by decide +kernel), free_of _ _ (by decide +kernel), by
    decide +kernel⟩⟩

/-- States and operands that meet the hypotheses of BasinAnswers (part 2). -/
theorem witness_basin_answers_2 :
    (let s : State := W.crowded 0x8000000000000001
     s.Accepts Form.basin ∧ s.Free [(5 : Reg), (6 : Reg)] ∧ bits (s.g (6 : Reg)) 60 3 = (0 : BitVec 3) ∧ bits (s.g (6 : Reg)) 16 21 = (0 : BitVec
       21) ∧ bits (s.g (6 : Reg)) 4 4 = (0 : BitVec 4) ∧ bit (s.g (6 : Reg)) 63 = true ∧ wordPart (s.g (6 : Reg)) = (0 : BitVec 23) ∧ bits (s.g (6
       : Reg)) 8 8 = (0 : BitVec 8) ∧ tileState (s.core.tile (5 : TileNo)) = (0 : BitVec 2) ∧ s.core.freeRun ((bits (s.g (6 : Reg)) 0 4).toNat + 1)
       = none) ∧
    (let s : State := W.basined 0x8000000000000001
     s.Accepts Form.basin ∧ s.Free [(5 : Reg), (6 : Reg)] ∧ s.MemoryWf ∧ bits (s.g (6 : Reg)) 60 3 = (0 : BitVec 3) ∧ bits (s.g (6 : Reg)) 16 21 =
       (0 : BitVec 21) ∧ bits (s.g (6 : Reg)) 4 4 = (0 : BitVec 4) ∧ bit (s.g (6 : Reg)) 63 = true ∧ wordPart (s.g (6 : Reg)) = (0 : BitVec 23) ∧
       bits (s.g (6 : Reg)) 8 8 = (0 : BitVec 8) ∧ tileState (s.core.tile (5 : TileNo)) = (0 : BitVec 2) ∧ s.core.freeRun ((bits (s.g (6 : Reg)) 0
       4).toNat + 1) = some 4) ∧
    (let s : State := W.basined (partWord 0x2000 ||| 0x200)
     let e : Word := 0x00000000000010f2#64
     s.Accepts Form.basin ∧ s.Free [(5 : Reg), (6 : Reg)] ∧ s.readyTile (3 : TileNo) = Except.ok e ∧ bits (s.g (6 : Reg)) 60 3 = (0 : BitVec 3) ∧
       bits (s.g (6 : Reg)) 16 21 = (0 : BitVec 21) ∧ bits (s.g (6 : Reg)) 4 4 = (0 : BitVec 4) ∧ bit (s.g (6 : Reg)) 63 = false ∧ bits (s.g (6 :
       Reg)) 8 8 ≠ (0 : BitVec 8) ∧ bits (s.g (6 : Reg)) 0 4 = (0 : BitVec 4) ∧ bit e 34 = false ∧ s.partSlice (wordPart (s.g (6 : Reg))) = none) ∧
    (let s : State := W.basined (partWord 1 ||| 0x200)
     let v' : UnitName := { pkg := 0x000#10, die := 0x00#5, unit := 0x00#8, slice := true }
     let e : Word := 0x00000000000010f2#64
     s.Accepts Form.basin ∧ s.Free [(5 : Reg), (6 : Reg)] ∧ s.readyTile (3 : TileNo) = Except.ok e ∧ bits (s.g (6 : Reg)) 60 3 = (0 : BitVec 3) ∧
       bits (s.g (6 : Reg)) 16 21 = (0 : BitVec 21) ∧ bits (s.g (6 : Reg)) 4 4 = (0 : BitVec 4) ∧ bit (s.g (6 : Reg)) 63 = false ∧ bits (s.g (6 :
       Reg)) 8 8 ≠ (0 : BitVec 8) ∧ bits (s.g (6 : Reg)) 0 4 = (0 : BitVec 4) ∧ bit e 34 = false ∧ s.partSlice (wordPart (s.g (6 : Reg))) = some v'
       ∧ s.sentAnswer = none ∧ s.canPost s.unit v' 1 = true) ∧
    (let s : State := W.told (W.basined (partWord 1 ||| 0x200)) (-1)
     let w : Await :=
       { id := 1, q := Sys2Proof.Seq.control, pc := 0x0000000000000100#64, left := 0, got := [(0, [0xff#8, 0xff#8, 0xff#8, 0xff#8, 0xff#8, 0xff#8, 0xff#8, 0xff#8])], status := 0x00#8, sent := true, unit := false, carried := false, back := false, asked := 0, out := 0, fail := 0 }
     let v' : UnitName := { pkg := 0x000#10, die := 0x00#5, unit := 0x00#8, slice := true }
     let e : Word := 0x00000000000010f2#64
     s.Accepts Form.basin ∧ s.Free [(5 : Reg), (6 : Reg)] ∧ s.readyTile (3 : TileNo) = Except.ok e ∧ bits (s.g (6 : Reg)) 60 3 = (0 : BitVec 3) ∧
       bits (s.g (6 : Reg)) 16 21 = (0 : BitVec 21) ∧ bits (s.g (6 : Reg)) 4 4 = (0 : BitVec 4) ∧ bit (s.g (6 : Reg)) 63 = false ∧ bits (s.g (6 :
       Reg)) 8 8 ≠ (0 : BitVec 8) ∧ bits (s.g (6 : Reg)) 0 4 = (0 : BitVec 4) ∧ bit e 34 = false ∧ s.partSlice (wordPart (s.g (6 : Reg))) = some v'
       ∧ s.sentAnswer = some w ∧ w.left = 0 ∧ w.status = (0 : Byte) ∧ (-1 : Word) = BitVec.ofNat 64 (ofBytes (List.take 8 ((assocGet 0 w.got).getD
       []))) ∧ bit (-1 : Word) 63 = true) ∧
    (let s : State := W.told (W.basined (partWord 1 ||| 0x200)) 3
     let w : Await :=
       { id := 1, q := Sys2Proof.Seq.control, pc := 0x0000000000000100#64, left := 0, got := [(0, [0x03#8, 0x00#8, 0x00#8, 0x00#8, 0x00#8, 0x00#8, 0x00#8, 0x00#8])], status := 0x00#8, sent := true, unit := false, carried := false, back := false, asked := 0, out := 0, fail := 0 }
     let v' : UnitName := { pkg := 0x000#10, die := 0x00#5, unit := 0x00#8, slice := true }
     let e : Word := 0x00000000000010f2#64
     s.Accepts Form.basin ∧ s.Free [(5 : Reg), (6 : Reg)] ∧ s.readyTile (3 : TileNo) = Except.ok e ∧ bits (s.g (6 : Reg)) 60 3 = (0 : BitVec 3) ∧
       bits (s.g (6 : Reg)) 16 21 = (0 : BitVec 21) ∧ bits (s.g (6 : Reg)) 4 4 = (0 : BitVec 4) ∧ bit (s.g (6 : Reg)) 63 = false ∧ bits (s.g (6 :
       Reg)) 8 8 ≠ (0 : BitVec 8) ∧ bits (s.g (6 : Reg)) 0 4 = (0 : BitVec 4) ∧ bit e 34 = false ∧ s.partSlice (wordPart (s.g (6 : Reg))) = some v'
       ∧ s.sentAnswer = some w ∧ w.left = 0 ∧ w.status = (0 : Byte) ∧ (3 : Word) = BitVec.ofNat 64 (ofBytes (List.take 8 ((assocGet 0 w.got).getD
       []))) ∧ bit (3 : Word) 63 = false) :=
  ⟨⟨(accepts_iff _ _).1 (by decide +kernel), free_of _ _ (by decide +kernel), by decide +kernel⟩, ⟨(accepts_iff _ _).1 (by decide +kernel), free_of
    _ _ (by decide +kernel), memoryWf_of _ (by decide +kernel), by decide +kernel⟩, ⟨(accepts_iff _ _).1 (by decide +kernel), free_of _ _ (by
    decide +kernel), ok_of _ _ (by decide +kernel), by decide +kernel⟩, ⟨(accepts_iff _ _).1 (by decide +kernel), free_of _ _ (by decide +kernel),
    ok_of _ _ (by decide +kernel), by decide +kernel⟩, ⟨(accepts_iff _ _).1 (by decide +kernel), free_of _ _ (by decide +kernel), ok_of _ _ (by
    decide +kernel), by decide +kernel⟩, ⟨(accepts_iff _ _).1 (by decide +kernel), free_of _ _ (by decide +kernel), ok_of _ _ (by decide +kernel),
    by decide +kernel⟩⟩

/-- States and operands that meet the hypotheses of BasinTransfers (part 1). -/
theorem witness_basin_transfers_1 :
    (let s : State := W.boundTile3
     let e : Word := 0x00000214000010f2#64
     let b : BTile :=
       { seq := 0x00000002#32, pages := 1, state := Sys2Proof.Machine.BState.opened, poison := false, reads := 1, line := [0x00000001#32], holder := (1, 0x03#6), lines := 0, data := [] }
     let v : UnitName := { pkg := 0x000#10, die := 0x00#5, unit := 0x00#8, slice := true }
     s.Accepts Form.basin ∧ s.Free [(5 : Reg)] ∧ s.readyTile (3 : TileNo) = Except.ok e ∧ s.mayIssue true [(Eng.basin, false, s.tileAddr (3 :
       TileNo), tileBytes e)] = Except.ok () ∧ bit e 34 = true ∧ s.boundTile s.taskId (3 : TileNo) e = some b ∧ s.partSlice (bits e 41 23) = some v) ∧
    (let s : State := W.strayTile3
     let e : Word := 0x0000042c000010f2#64
     s.Accepts Form.basin ∧ s.Free [(5 : Reg)] ∧ s.readyTile (3 : TileNo) = Except.ok e ∧ s.mayIssue true [(Eng.basin, false, s.tileAddr (3 :
       TileNo), tileBytes e)] = Except.ok () ∧ bit e 34 = true ∧ (s.boundTile s.taskId (3 : TileNo) e = none ∨ s.partSlice (bits e 41 23) = none)) ∧
    (let s : State := W.basined 0
     let k : Machine.Task := W.debtor
     let e : Word := 0x00000000000010f2#64
     let v : UnitName := { pkg := 0x000#10, die := 0x00#5, unit := 0x00#8, slice := true }
     s.Accepts Form.basin ∧ s.Free [(5 : Reg)] ∧ s.readyTile (3 : TileNo) = Except.ok e ∧ s.mayIssue true [(Eng.basin, true, s.tileAddr (3 :
       TileNo), tileBytes e)] = Except.ok () ∧ s.roomForUnits [v] = Except.ok () ∧ bit e 34 = false ∧ s.core.ctl.task = some k ∧ recOwed k.record ≠
       0 ∧ s.partSlice (wordPart (recArg k.record 3)) = some v) ∧
    (let s : State := W.tiled 0 0 0
     let k : Machine.Task := W.taskA
     let e : Word := 0x00000000000010f2#64
     s.Accepts Form.basin ∧ s.Free [(5 : Reg)] ∧ s.readyTile (3 : TileNo) = Except.ok e ∧ s.mayIssue true [(Eng.basin, true, s.tileAddr (3 :
       TileNo), tileBytes e)] = Except.ok () ∧ bit e 34 = false ∧ s.core.ctl.task = some k ∧ (recOwed k.record = 0 ∨ s.partSlice (wordPart (recArg
       k.record 3)) = none)) ∧
    (let s : State := W.granting
     let b : BPart := have __src := W.basin1;
       { __src with queue := [{ key := (W.unitOf (0 : CoreName), (1 : Byte), (4 : BitVec 16)), pages := 1, reads := 1, cid := (1 : W32), holder := (1, (3 : TileNo)) }] }
     let a : BAlloc :=
       { key := ({ pkg := 0x000#10, die := 0x00#5, unit := 0x00#8, slice := false }, 0x01#8, 0x0004#16), pages := 1, reads := 1, cid := 0x00000001#32, holder := (1, 0x03#6) }
     let rest : List BAlloc := []
     let r : Recv := W.basinRecv (BasinReq.alloc (1 : BitVec 23) 1 1 (1 : W32) 1 (3 : TileNo))
     s.basin (s.partName 0 1) = some b ∧ b.queue = a :: rest ∧ s.canGrant b = true ∧ s.recvOf a.key = some r) ∧
    (let s : State := W.accepting
     let r : Recv := W.readRecv
     let b : BPart := have __src := W.basin1; { __src with lanes := Vector.replicate 16 { cursor := (1 : W32), pend := none } }
     let y : BTile :=
       { seq := 0x00000001#32, pages := 1, state := Sys2Proof.Machine.BState.sealed, poison := false, reads := 2, line := [0x00000001#32], holder := (1, 0x03#6), lines := 32, data := [0x07#8, 0x08#8] }
     s.basin (wordPart (partWord (1 : BitVec 23) ||| (1 : Word))) = some b ∧ seqMax (b.lane (debtLane (partWord (1 : BitVec 23) ||| (1 :
       Word)))).cursor (wordSeq (partWord (1 : BitVec 23) ||| (1 : Word))) = (1 : W32) ∧ seqBefore (b.lane (debtLane (partWord (1 : BitVec 23) |||
       (1 : Word)))).cursor (wordSeq (partWord (1 : BitVec 23) ||| (1 : Word))) = false ∧ seqBefore (1 : W32) (wordSeq (partWord (1 : BitVec 23)
       ||| (1 : Word)) + BitVec.ofNat 32 2) = true ∧ b.tile (1 : W32) = some y ∧ y.state = BState.sealed ∧ y.poison = false ∧ y.pages ≤ 16 ∧ 1 <
       y.reads ∧ s.recvOf (r.src, r.epoch, r.seq) = some r) :=
  ⟨⟨(accepts_iff _ _).1 (by decide +kernel), free_of _ _ (by decide +kernel), ok_of _ _ (by decide +kernel), ok_of _ _ (by decide +kernel), by
    decide +kernel⟩, ⟨(accepts_iff _ _).1 (by decide +kernel), free_of _ _ (by decide +kernel), ok_of _ _ (by decide +kernel), ok_of _ _ (by
    decide +kernel), by decide +kernel⟩, ⟨(accepts_iff _ _).1 (by decide +kernel), free_of _ _ (by decide +kernel), ok_of _ _ (by decide +kernel),
    ok_of _ _ (by decide +kernel), ok_of _ _ (by decide +kernel), by decide +kernel⟩, ⟨(accepts_iff _ _).1 (by decide +kernel), free_of _ _ (by
    decide +kernel), ok_of _ _ (by decide +kernel), ok_of _ _ (by decide +kernel), by decide +kernel⟩, by decide +kernel, by decide +kernel⟩

/-- States and operands that meet the hypotheses of BasinTransfers (part 2). -/
theorem witness_basin_transfers_2 :
    (let s : State := W.sendingLine
     let r : Recv := W.basinRecv (BasinReq.serving (1 : BitVec 23) (1 : W32) 7 (List.replicate 128 (5 : Byte)) 0 1)
     let data : List Byte := List.replicate 128 (5 : Byte)
     (s.servedReads (s.partName 0 1))[0]? = some r ∧ r.body = Body.basin (BasinReq.serving (1 : BitVec 23) (1 : W32) 7 data 0 1) ∧ 128 * (0 + 1) ≤
       data.length ∧ s.canPost r.dst r.src 1 = true) :=
  by decide +kernel

/-- States and operands that meet the hypotheses of MatrixLoads. -/
theorem witness_matrix_loads :
    (let s : State := W.prefixed (W.matrix 0 3) 3 3 0
     let e : Word := 0x00000000000010f2#64
     let map : TMap := s.core.vec.m.get (BitVec.toFin (2 : BitVec 4))
     let n : Nat := mapRows map * mapRowBytes map + if Option.any (fun (x : Prefix) => x.esB) s.pending = true then 64 * ((mapRows map + 31) / 32)
       else 0
     let n' : Nat := mapRows map * mapRowBytes map + if Option.any (fun (x : Prefix) => x.esA) s.pending = true then 4 * mapRows map else 0
     s.Accepts (Form.matrix true) ∧ s.MatrixOn ∧ s.Free [(6 : Reg)] ∧ s.readyTile (3 : TileNo) = Except.ok e ∧ (s.operandFmt (fun (x : Prefix) =>
       x.fb) true = Except.ok Fmt.m8) ∧ s.mayIssue true [(Eng.matrix, false, s.tileAddr (3 : TileNo), n)] = Except.ok () ∧ (s.operandFmt (fun (x :
       Prefix) => x.fa) false = Except.ok Fmt.m8) ∧ s.mayIssue true [(Eng.matrix, false, s.tileAddr (3 : TileNo), n')] = Except.ok () ∧ mapOk map =
       true ∧ mapFmt map = some Fmt.m8 ∧ BitVec.toNat (1 : BitVec 5) ≤ 7 ∧ (Fmt.m8.width = 8 ∨ BitVec.toNat (1 : BitVec 5) ≤ 3) ∧ (Fmt.m8 ≠
       Fmt.pair ∨ Option.any (fun (x : Prefix) => x.esB) s.pending = false) ∧ mapRows map ≤ 128 ∧ mapCols map ≤ 64 ∧ n ≤ tileBytes e ∧ BitVec.toNat
       (1 : BitVec 5) ≤ 1 ∧ mapRows map ≤ 256 ∧ mapCols map ≤ 128 ∧ n' ≤ tileBytes e) :=
  ⟨(accepts_iff _ _).1 (by decide +kernel), matrixOn_of _ (by decide +kernel), free_of _ _ (by decide +kernel), ok_of _ _ (by decide +kernel),
    ok_of _ _ (by decide +kernel), ok_of _ _ (by decide +kernel), ok_of _ _ (by decide +kernel), ok_of _ _ (by decide +kernel), by decide +kernel⟩

/-- States and operands that meet the hypotheses of Accumulators. -/
theorem witness_accumulators :
    (let s : State := W.loaded 0
     let rows : List (List W32) := ((W.loaded 0).product 0 2).1
     let cause : Byte := ((W.loaded 0).product 0 2).2.1
     let l : List (Option Bool) := ((W.loaded 0).product 0 2).2.2
     let e : Word := 0x00000000000010f2#64
     s.MatrixOn ∧ s.Free [(6 : Reg)] ∧ s.readyTile (3 : TileNo) = Except.ok e ∧ s.MemoryWf ∧ s.Accepts (Form.matrix true) ∧ s.Accepts (Form.matrix
       false) ∧ s.core.locked (s.tileAddr (3 : TileNo)) (tileBytes e) = false ∧ s.mmatOn (some (3 : TileNo)) = false ∧ BitVec.toNat (2 : BitVec 5)
       ≤ 7 ∧ bits (s.g (6 : Reg)) 56 8 = (0 : BitVec 8) ∧ bits (s.g (6 : Reg)) 41 15 = (0 : BitVec 15) ∧ bits (s.g (6 : Reg)) 32 8 = (0 : BitVec 8)
       ∧ s.productFmt (bits (s.g (6 : Reg)) 40 1).toNat (BitVec.toNat (2 : BitVec 5)) = true ∧ productOk e (s.core.mat.bank (bits (s.g (6 : Reg))
       40 1).toNat).desc (s.core.mat.slot (BitVec.toNat (2 : BitVec 5))).desc = true ∧ s.loadsDone (s.core.mat.panelSlots (BitVec.toNat (2 : BitVec
       5))) (some (bits (s.g (6 : Reg)) 40 1).toNat) = true ∧ s.product (bits (s.g (6 : Reg)) 40 1).toNat (BitVec.toNat (2 : BitVec 5)) = (rows,
       cause, l) ∧ cause = (0 : Byte) ∧ s.held (2 : BitVec 5) = false ∧ BitVec.toNat (s.g (6 : Reg)) ≤ 7 ∧ (Option.all (fun (p : Prefix) => (fmtOf
       p.fb).isSome) s.pending = true) ∧ s.loadsDone (s.core.mat.panelSlots (BitVec.toNat (s.g (6 : Reg)))) none = true ∧ s.scrub (BitVec.toNat
       (s.g (6 : Reg))) ≠ (1 : Word) ∧ BitVec.toNat (s.g (6 : Reg)) ≤ 63 ∧ BitVec.toNat (s.g (6 : Reg)) < 8 ∧ s.loadsDone [BitVec.toNat (s.g (6 :
       Reg))] none = true ∧ s.g (6 : Reg) = (0 : Word)) ∧
    (let s : State := W.corrupted 0
     let rows : List (List W32) := ((W.corrupted 0).product 0 2).1
     let cause : Byte := ((W.corrupted 0).product 0 2).2.1
     let l : List (Option Bool) := ((W.corrupted 0).product 0 2).2.2
     let e : Word := 0x00000000000010f2#64
     s.MatrixOn ∧ s.Free [(6 : Reg)] ∧ s.readyTile (3 : TileNo) = Except.ok e ∧ s.MemoryWf ∧ s.Accepts (Form.matrix true) ∧ s.core.locked
       (s.tileAddr (3 : TileNo)) (tileBytes e) = false ∧ s.mmatOn (some (3 : TileNo)) = false ∧ BitVec.toNat (2 : BitVec 5) ≤ 7 ∧ bits (s.g (6 :
       Reg)) 56 8 = (0 : BitVec 8) ∧ bits (s.g (6 : Reg)) 41 15 = (0 : BitVec 15) ∧ bits (s.g (6 : Reg)) 32 8 = (0 : BitVec 8) ∧ s.productFmt (bits
       (s.g (6 : Reg)) 40 1).toNat (BitVec.toNat (2 : BitVec 5)) = true ∧ productOk e (s.core.mat.bank (bits (s.g (6 : Reg)) 40 1).toNat).desc
       (s.core.mat.slot (BitVec.toNat (2 : BitVec 5))).desc = true ∧ s.loadsDone (s.core.mat.panelSlots (BitVec.toNat (2 : BitVec 5))) (some (bits
       (s.g (6 : Reg)) 40 1).toNat) = true ∧ s.product (bits (s.g (6 : Reg)) 40 1).toNat (BitVec.toNat (2 : BitVec 5)) = (rows, cause, l) ∧ cause ≠
       (0 : Byte)) ∧
    (let s : State := W.matrix 0x3E80000 0
     let x : Nat := W.sram+4096*16+5000
     let e : Word := 0x00000000000010f2#64
     let sa : Reg := s.pending.elim (0 : Reg) fun (x : Prefix) => x.sa
     let sb : Reg := s.pending.elim (0 : Reg) fun (x : Prefix) => x.sb
     let own : Eng × Bool × Nat × Nat := (Eng.matrix, false, s.tileAddr (3 : TileNo), tileBytes e)
     let map : TMap := s.core.vec.m.get (BitVec.toFin (2 : BitVec 4))
     let rows' : List (Nat × Word × Nat) := List.filterMap (fun (y : Nat) => Option.map (fun (r : Word × Nat) => (y, r)) (rowSpan map (s.g (6 :
       Reg)) y)) (List.range (mapRows map))
     s.MatrixOn ∧ s.Free [(6 : Reg)] ∧ s.Accepts (Form.matrix true) ∧ (s.pending.elim (Fmt.fp32 = Fmt.fp32) fun (p : Prefix) => fmtOf p.fd = some
       Fmt.fp32 ∧ Fmt.fp32 ∈ [Fmt.fp32, Fmt.fp16, Fmt.bf16, Fmt.m8]) ∧ s.readyTile (3 : TileNo) = Except.ok e ∧ s.Free [sa, sb] ∧ s.mayIssue true
       [own] = Except.ok () ∧ s.held (2 : BitVec 5) = false ∧ mapTileOk map (s.g (6 : Reg)) = true ∧ mapFmt map = some Fmt.fp32 ∧ mapCols map ≤ 64
       ∧ 256 * mapRows map ≤ tileBytes e ∧ (boundsOf (List.map (fun (x : Nat × Word × Nat) => x.2) rows') = none)) ∧
    (let s : State := W.matrix 0 0
     let x : Nat := W.sram+4096*16+5000
     let e : Word := 0x00000000000010f2#64
     let sa : Reg := s.pending.elim (0 : Reg) fun (x : Prefix) => x.sa
     let sb : Reg := s.pending.elim (0 : Reg) fun (x : Prefix) => x.sb
     let own : Eng × Bool × Nat × Nat := (Eng.matrix, false, s.tileAddr (3 : TileNo), tileBytes e)
     let map : TMap := s.core.vec.m.get (BitVec.toFin (2 : BitVec 4))
     let rows' : List (Nat × Word × Nat) := List.filterMap (fun (y : Nat) => Option.map (fun (r : Word × Nat) => (y, r)) (rowSpan map (s.g (6 :
       Reg)) y)) (List.range (mapRows map))
     let lo : Nat := 16384
     let hi : Nat := 17280
     let pa : Nat := 9007199254757376
     s.MatrixOn ∧ s.Free [(6 : Reg)] ∧ s.Accepts (Form.matrix true) ∧ (s.pending.elim (Fmt.fp32 = Fmt.fp32) fun (p : Prefix) => fmtOf p.fd = some
       Fmt.fp32 ∧ Fmt.fp32 ∈ [Fmt.fp32, Fmt.fp16, Fmt.bf16, Fmt.m8]) ∧ s.readyTile (3 : TileNo) = Except.ok e ∧ s.Free [sa, sb] ∧ s.engineSpan
       (BitVec.ofNat 64 lo) (hi - lo) Need.engineWrite = Except.ok pa ∧ s.mayIssue true [own, (Eng.matrix, true, pa, hi - lo)] = Except.ok () ∧
       s.held (2 : BitVec 5) = false ∧ mapTileOk map (s.g (6 : Reg)) = true ∧ mapFmt map = some Fmt.fp32 ∧ mapCols map ≤ 64 ∧ 256 * mapRows map ≤
       tileBytes e ∧ (boundsOf (List.map (fun (x : Nat × Word × Nat) => x.2) rows') = some (lo, hi))) ∧
    (let s : State := W.corrupted 2
     s.MatrixOn ∧ s.Free [(6 : Reg)] ∧ s.Accepts (Form.matrix true) ∧ s.held (2 : BitVec 5) = false ∧ BitVec.toNat (s.g (6 : Reg)) ≤ 7 ∧
       (Option.all (fun (p : Prefix) => (fmtOf p.fb).isSome) s.pending = true) ∧ s.loadsDone (s.core.mat.panelSlots (BitVec.toNat (s.g (6 : Reg))))
       none = true ∧ s.scrub (BitVec.toNat (s.g (6 : Reg))) = (1 : Word)) ∧
    (let s : State := W.loaded 8
     s.MatrixOn ∧ s.Free [(6 : Reg)] ∧ s.Accepts (Form.matrix true) ∧ s.held (2 : BitVec 5) = false ∧ 8 ≤ BitVec.toNat (s.g (6 : Reg)) ∧
       BitVec.toNat (s.g (6 : Reg)) ≤ 9 ∧ s.loadsDone [] (some (BitVec.toNat (s.g (6 : Reg)) - 8)) = true) :=
  ⟨⟨matrixOn_of _ (by decide +kernel), free_of _ _ (by decide +kernel), ok_of _ _ (by decide +kernel), memoryWf_of _ (by decide +kernel),
    (accepts_iff _ _).1 (by decide +kernel), (accepts_iff _ _).1 (by decide +kernel), by decide +kernel⟩, ⟨matrixOn_of _ (by decide +kernel),
    free_of _ _ (by decide +kernel), ok_of _ _ (by decide +kernel), memoryWf_of _ (by decide +kernel), (accepts_iff _ _).1 (by decide +kernel), by
    decide +kernel⟩, ⟨matrixOn_of _ (by decide +kernel), free_of _ _ (by decide +kernel), (accepts_iff _ _).1 (by decide +kernel), (rfl : Fmt.fp32
    = Fmt.fp32), ok_of _ _ (by decide +kernel), free_of _ _ (by decide +kernel), ok_of _ _ (by decide +kernel), by decide +kernel⟩, ⟨matrixOn_of _
    (by decide +kernel), free_of _ _ (by decide +kernel), (accepts_iff _ _).1 (by decide +kernel), (rfl : Fmt.fp32 = Fmt.fp32), ok_of _ _ (by
    decide +kernel), free_of _ _ (by decide +kernel), ok_of _ _ (by decide +kernel), ok_of _ _ (by decide +kernel), by decide +kernel⟩,
    ⟨matrixOn_of _ (by decide +kernel), free_of _ _ (by decide +kernel), (accepts_iff _ _).1 (by decide +kernel), by decide +kernel⟩, ⟨matrixOn_of
    _ (by decide +kernel), free_of _ _ (by decide +kernel), (accepts_iff _ _).1 (by decide +kernel), by decide +kernel⟩⟩

/-- States and operands that meet the hypotheses of Teams (part 1). -/
theorem witness_teams_1 :
    (let k : Machine.Task := W.taskA
     let s : State := W.start.setG 6 0
     s.Accepts (Form.matrix false) ∧ s.MatrixOn ∧ s.Free [(2 : BitVec 5), (6 : Reg)] ∧ s.core.ctl.task = some k ∧ s.core.mat.inTeam = false ∧ bits
       (s.g (6 : Reg)) 4 60 = (0 : BitVec 60) ∧ (bits (s.g (6 : Reg)) 1 3).toNat < (recTeam k.record).1 ∧ k.team = none) ∧
    (let k : Machine.Task := W.teamTask 0
     let s : State := (W.team Matrix.reset [] false).setG 6 0
     let p : Member := { row := 0, col := 0, gang := 5 }
     s.Accepts (Form.matrix false) ∧ s.MatrixOn ∧ s.Free [(2 : BitVec 5), (6 : Reg)] ∧ s.core.ctl.task = some k ∧ s.core.mat.inTeam = false ∧ bits
       (s.g (6 : Reg)) 4 60 = (0 : BitVec 60) ∧ (bits (s.g (6 : Reg)) 1 3).toNat < (recTeam k.record).1 ∧ k.team = some p) ∧
    (let k : Machine.Task := W.taskA
     let s : State := W.teamed W.inTeam 0
     s.Accepts (Form.matrix false) ∧ s.MatrixOn ∧ s.Free [(2 : BitVec 5), (6 : Reg)] ∧ s.core.ctl.task = some k ∧ s.core.mat.inTeam = true ∧
       s.mmatOn none = false) ∧
    (let k : Machine.Task := W.teamTask 0
     let s : State := W.team {Matrix.reset with join := some ⟨0, 5, .control⟩} [] false
     (∀ x ∈ s.teamCores 5, (s.getCore x).ctl.stopped = false ∧ (s.getCore x).ctl.run = RunState.task ∧ Option.map (fun (x : Join) => x.word)
       (s.getCore x).mat.join = Option.map (fun (x : Join) => x.word) (s.getCore (0 : CoreName)).mat.join ∧ (s.getCore x).mat.join.isSome = true) ∧
       (s.getCore (0 : CoreName)).ctl.task = some k ∧ k.team = some { row := 0, col := 0, gang := 5 } ∧ (s.teamCores 5).Nodup ∧ (s.teamCores
       5).length = recSize k.record) ∧
    (let s : State := W.teamed W.inTeam 0x0100000000000000
     let rows : List (List W32) := ((W.teamed W.inTeam 0x0100000000000000).product 0 2).1
     let cause : Byte := ((W.teamed W.inTeam 0x0100000000000000).product 0 2).2.1
     let l : List (Option Bool) := ((W.teamed W.inTeam 0x0100000000000000).product 0 2).2.2
     let e : Word := 0x00000000000010f2#64
     s.Accepts (Form.matrix true) ∧ s.MatrixOn ∧ s.Free [(6 : Reg)] ∧ s.readyTile (3 : TileNo) = Except.ok e ∧ s.mayIssue true (if s.core.mat.owns
       = true then [(Eng.matrix, true, s.tileAddr (3 : TileNo), 256 * rows.length)] else []) = Except.ok () ∧ BitVec.toNat (2 : BitVec 5) ≤ 7 ∧
       bits (s.g (6 : Reg)) 56 8 ≠ (0 : BitVec 8) ∧ bits (s.g (6 : Reg)) 41 15 = (0 : BitVec 15) ∧ bits (s.g (6 : Reg)) 32 8 = (0 : BitVec 8) ∧
       s.core.mat.inTeam = true ∧ s.productFmt (bits (s.g (6 : Reg)) 40 1).toNat (BitVec.toNat (2 : BitVec 5)) = true ∧ productOk e
       (s.core.mat.bank (bits (s.g (6 : Reg)) 40 1).toNat).desc (s.core.mat.slot (BitVec.toNat (2 : BitVec 5))).desc = true ∧ s.product (bits (s.g
       (6 : Reg)) 40 1).toNat (BitVec.toNat (2 : BitVec 5)) = (rows, cause, l) ∧ (s.core.mat.owns = true → (s.core.mat.needRecord (3 :
       TileNo)).isSome = true ∧ s.mmatOn (some (3 : TileNo)) = false)) ∧
    (let s : State := W.sendingSum W.inTeam
     let o : EngineOp := have __src := W.op (OpKind.mmat W.partial3 false (0 : Byte)) W.inMove; { __src with moves := W.partial3.sends false }
     let i : Word := 0x8000000000000000#64
     (s.getCore (0 : CoreName)).mem.ops[0]? = some o ∧ o.kind = OpKind.mmat W.partial3 false (0 : Byte) ∧ s.taskEnded (0 : CoreName) o = false ∧
       o.moves = W.partial3.sends false ∧ W.partial3.data.length * W.partial3.groups = 1 ∧ s.canPost (coreUnit s (0 : CoreName)) (coreUnit s
       (memberCore (0 : CoreName) (bits i 50 3).toNat (bits i 59 3).toNat)) 1 = true ∧ ((List.map (fun (x : EngineOp) => x.id) (s.getCore (0 :
       CoreName)).mem.ops).Nodup)) :=
  ⟨⟨(accepts_iff _ _).1 (by decide +kernel), matrixOn_of _ (by decide +kernel), free_of _ _ (by decide +kernel), by decide +kernel⟩, ⟨(accepts_iff
    _ _).1 (by decide +kernel), matrixOn_of _ (by decide +kernel), free_of _ _ (by decide +kernel), by decide +kernel⟩, ⟨(accepts_iff _ _).1 (by
    decide +kernel), matrixOn_of _ (by decide +kernel), free_of _ _ (by decide +kernel), by decide +kernel⟩, ⟨ball_of (by decide +kernel), by
    decide +kernel⟩, ⟨(accepts_iff _ _).1 (by decide +kernel), matrixOn_of _ (by decide +kernel), free_of _ _ (by decide +kernel), ok_of _ _ (by
    decide +kernel), ok_of _ _ (by decide +kernel), by decide +kernel⟩, by decide +kernel⟩

/-- States and operands that meet the hypotheses of Teams (part 2). -/
theorem witness_teams_2 :
    (let s : State := W.half
     let y : Psum := ({ W.partial3 with data := W.partial3.data ++ W.partial3.data } : Partial).message 0
     let r : Recv := W.recv (W.unitOf (0 : CoreName)) (W.unitOf (0 : CoreName)) (17 : BitVec 10) (Body.psum
       ({ W.partial3 with data := W.partial3.data ++ W.partial3.data }.message 0))
     s.request 0 [17] = some r ∧ r.body = Body.psum y ∧ (s.findOp y.src y.op).isSome = true ∧ (((s.getCore (unitCore r.dst)).mat.reorder.any fun (x
       : Partial) => x.op == y.op) = false) ∧ gathered (s.psumsOf r.dst y) y = none) ∧
    (let p : Partial := W.partial3
     let s : State := W.owner Matrix.reset
     let r : Recv := W.recv (W.unitOf (0 : CoreName)) (W.unitOf (0 : CoreName)) (17 : BitVec 10) (Body.psum (W.partial3.message 0))
     s.request 0 [17] = some r ∧ r.body = Body.psum (p.message 0) ∧ (s.findOp (p.message 0).src (p.message 0).op).isSome = true ∧ (((s.getCore
       (unitCore r.dst)).mat.reorder.any fun (x : Partial) => x.op == (p.message 0).op) = false) ∧ gathered (s.psumsOf r.dst (p.message 0))
       (p.message 0) = some p ∧ p.src = (p.message 0).src ∧ p.op = (p.message 0).op ∧ (s.getCore (unitCore r.dst)).mat.inTeam = false) ∧
    (let p : Partial := W.partial3
     let s : State := W.owner W.inTeam
     let r : Recv := W.recv (W.unitOf (0 : CoreName)) (W.unitOf (0 : CoreName)) (17 : BitVec 10) (Body.psum (W.partial3.message 0))
     s.request 0 [17] = some r ∧ r.body = Body.psum (p.message 0) ∧ (s.findOp (p.message 0).src (p.message 0).op).isSome = true ∧ (((s.getCore
       (unitCore r.dst)).mat.reorder.any fun (x : Partial) => x.op == (p.message 0).op) = false) ∧ gathered (s.psumsOf r.dst (p.message 0))
       (p.message 0) = some p ∧ p.src = (p.message 0).src ∧ p.op = (p.message 0).op ∧ (s.getCore (unitCore r.dst)).mat.inTeam = true ∧ (s.getCore
       (unitCore r.dst)).mat.record p.tile = some (newRecord (3 : TileNo)) ∧ (Option.any (fun (k : Machine.Task) => p.src == unitCore r.dst ||
       Option.any (fun (x : Member) => x.gang == p.gang) k.team) (s.getCore (unitCore r.dst)).ctl.task = true) ∧ precedes p.step (newRecord (3 :
       TileNo)) = false ∧ ((((s.getCore (unitCore r.dst)).mat.ofStep p.tile p.step).any fun (q : Partial) => q.row == p.row && q.col == p.col) =
       false) ∧ s.openSteps (unitCore r.dst) p.tile = []) ∧
    (let s : State := W.team Matrix.reset [W.op (.mmat W.partial3 false 0) W.inMove] true
     s.deferred (0 : CoreName) = true ∧ (((s.leavers (0 : CoreName)).any fun (d : CoreName) => (s.getCore d).ctl.due.preempt || (s.getCore
       d).ctl.due.brk || (s.getCore d).ctl.run == RunState.leaving || (s.getCore d).ctl.leave.isSome) = true)) :=
  ⟨by decide +kernel, by decide +kernel, by decide +kernel, by decide +kernel⟩

/-- States and operands that meet the hypotheses of HingePairs (part 1). -/
theorem witness_hinge_pairs_1 :
    (let s : State := W.leads id
     let k : Machine.Task := W.taskA
     let p : Pair := id (W.pairOf (W.start.setG (6 : Reg) (1 : Word)).core)
     s.Free [(2 : Reg), (6 : Reg)] ∧ s.Accepts Form.control ∧ s.core.ctl.task = some k ∧ s.seq = Seq.control ∧ s.core.pair = some p ∧ BitVec.toNat
       (s.g (6 : Reg)) ≤ 2) ∧
    (let s : State := W.besideService
     let k : Machine.Task := W.taskA
     s.Free [(2 : Reg), (6 : Reg)] ∧ s.Accepts Form.control ∧ s.Accepts { Form.control with exchange := true } ∧ s.core.ctl.task = some k ∧ s.seq =
       Seq.control ∧ s.core.pair = none ∧ s.tt = false ∧ s.core.vs.opened = false ∧ s.core.ms.opened = false ∧ k.team = none ∧
       ((s.core.mem.tiles.toList.all fun (e : Word) => tileState e == (0 : BitVec 2)) = true) ∧ s.core.ctl.oc.isZero = true ∧ (isWorker s.partner =
       false ∨ s.lists k.ctx s.partner = false)) ∧
    (let s : State := W.busyPartner
     let k : Machine.Task := W.taskA
     let other : Core := s.getCore s.partner
     s.Free [(2 : Reg), (6 : Reg)] ∧ s.Accepts Form.control ∧ s.core.ctl.task = some k ∧ s.seq = Seq.control ∧ s.core.pair = none ∧ s.tt = false ∧
       s.core.vs.opened = false ∧ s.core.ms.opened = false ∧ k.team = none ∧ ((s.core.mem.tiles.toList.all fun (e : Word) => tileState e == (0 :
       BitVec 2)) = true) ∧ s.core.ctl.oc.isZero = true ∧ isWorker s.partner = true ∧ s.lists k.ctx s.partner = true ∧ other.sched.reserved ≠ some
       (Reserved.pair s.cur) ∧ (((s.busyWith s.partner).any fun (x : Nat) => decide (s.prio k.ctx k.cid ≤ x)) = true)) ∧
    (let s : State := W.start.setG 6 1
     let k : Machine.Task := W.taskA
     let other : Core := s.getCore s.partner
     let w : Nat := weight (recPcls k.record)
     s.Free [(2 : Reg), (6 : Reg)] ∧ s.Accepts Form.control ∧ s.core.ctl.task = some k ∧ s.seq = Seq.control ∧ s.core.pair = none ∧ s.tt = false ∧
       s.core.vs.opened = false ∧ s.core.ms.opened = false ∧ k.team = none ∧ ((s.core.mem.tiles.toList.all fun (e : Word) => tileState e == (0 :
       BitVec 2)) = true) ∧ s.core.ctl.oc.isZero = true ∧ isWorker s.partner = true ∧ s.lists k.ctx s.partner = true ∧ other.sched.reserved ≠ some
       (Reserved.pair s.cur) ∧ (((s.busyWith s.partner).any fun (x : Nat) => decide (s.prio k.ctx k.cid ≤ x)) = false) ∧ other.sched.resume.length
       < 32 ∧ other.pair = none ∧ other.ctl.run ≠ RunState.checker ∧ (s.gov (dieOf s.cur)).sum + w ≤ (s.gov (dieOf s.cur)).budget ∧ s.mayRun k.ctx
       k.cid 1 w = true) ∧
    (let s : State := W.reservedPartner
     let k : Machine.Task := W.taskA
     s.Free [(2 : Reg), (6 : Reg)] ∧ s.Accepts Form.control ∧ s.core.ctl.task = some k ∧ s.seq = Seq.control ∧ s.core.pair = none ∧ s.tt = false ∧
       s.core.vs.opened = false ∧ s.core.ms.opened = false ∧ k.team = none ∧ ((s.core.mem.tiles.toList.all fun (e : Word) => tileState e == (0 :
       BitVec 2)) = true) ∧ s.core.ctl.oc.isZero = true ∧ isWorker s.partner = true ∧ s.lists k.ctx s.partner = true ∧ (s.getCore
       s.partner).sched.reserved = some (Reserved.pair s.cur) ∧ (s.getCore s.partner).ctl.run = RunState.idle ∧ s.released = true ∧ BitVec.toNat
       s.cur < BitVec.toNat s.partner) ∧
    (let s : State :=
       ({ W.start with cur := 1, cores := [(0, { Core.reset 0 with sched := { Sched.reset 0 with reserved := some (.pair 1) } })] }:State)
     let k : Machine.Task := W.taskA
     s.Free [(2 : Reg), (6 : Reg)] ∧ s.Accepts Form.control ∧ s.core.ctl.task = some k ∧ s.seq = Seq.control ∧ s.core.pair = none ∧ s.tt = false ∧
       s.core.vs.opened = false ∧ s.core.ms.opened = false ∧ k.team = none ∧ ((s.core.mem.tiles.toList.all fun (e : Word) => tileState e == (0 :
       BitVec 2)) = true) ∧ s.core.ctl.oc.isZero = true ∧ isWorker s.partner = true ∧ s.lists k.ctx s.partner = true ∧ (s.getCore
       s.partner).sched.reserved = some (Reserved.pair s.cur) ∧ (s.getCore s.partner).ctl.run = RunState.idle ∧ s.released = true ∧ BitVec.toNat
       s.partner < BitVec.toNat s.cur) :=
  ⟨⟨free_of _ _ (by decide +kernel), (accepts_iff _ _).1 (by decide +kernel), by decide +kernel⟩, ⟨free_of _ _ (by decide +kernel), (accepts_iff _
    _).1 (by decide +kernel), (accepts_iff _ _).1 (by decide +kernel), by decide +kernel⟩, ⟨free_of _ _ (by decide +kernel), (accepts_iff _ _).1
    (by decide +kernel), by decide +kernel⟩, ⟨free_of _ _ (by decide +kernel), (accepts_iff _ _).1 (by decide +kernel), by decide +kernel⟩,
    ⟨free_of _ _ (by decide +kernel), (accepts_iff _ _).1 (by decide +kernel), by decide +kernel⟩, ⟨free_of _ _ (by decide +kernel), (accepts_iff _
    _).1 (by decide +kernel), by decide +kernel⟩⟩

/-- States and operands that meet the hypotheses of HingePairs (part 2). -/
theorem witness_hinge_pairs_2 :
    (let s : State := W.leads fun p => { p with force := some (0x100, 0x104) }
     let p : Pair := (fun (p : Pair) => { p with force := some ((256 : Word), (260 : Word)) }) (W.pairOf (W.start.setG (6 : Reg) (1 : Word)).core)
     let k : Machine.Task := W.taskA
     s.Free [(2 : Reg), (6 : Reg)] ∧ s.Accepts { Form.control with exchange := true } ∧ s.seq = Seq.control ∧ s.core.pair = some p ∧ p.partner =
       s.partner ∧ s.core.ctl.task = some k ∧ s.released = true) ∧
    (let s : State := W.leads fun p => { p with count := 4096, passed := none }
     let p : Pair := (fun (p : Pair) => { p with count := 4096, passed := none }) (W.pairOf (W.start.setG (6 : Reg) (1 : Word)).core)
     s.Free [(2 : Reg), (6 : Reg)] ∧ (s.getCore (0 : CoreName)).pair = some p ∧ (s.getCore (0 : CoreName)).ctl.stopped = false ∧ 4096 ≤ p.count ∧
       p.draining = false ∧ p.passed ≠ some (s.getCore (0 : CoreName)).thr.pc ∧ (s.getCore (0 : CoreName)).mem.loads = [] ∧ p.fp = p.fpPartner ∧
       p.gate = []) ∧
    (let s : State := W.leads fun p => { p with count := 4096, fp := 9, passed := none }
     let p : Pair := (fun (p : Pair) => { p with fp := (9 : Word), count := 4096, passed := none }) (W.pairOf (W.start.setG (6 : Reg) (1 :
       Word)).core)
     s.Free [(2 : Reg), (6 : Reg)] ∧ (s.getCore (0 : CoreName)).pair = some p ∧ (s.getCore (0 : CoreName)).ctl.stopped = false ∧ 4096 ≤ p.count ∧
       p.draining = false ∧ p.passed ≠ some (s.getCore (0 : CoreName)).thr.pc ∧ (s.getCore (0 : CoreName)).mem.loads = [] ∧ p.fp ≠ p.fpPartner ∧
       p.retry = false) :=
  ⟨⟨free_of _ _ (by decide +kernel), (accepts_iff _ _).1 (by decide +kernel), by decide +kernel⟩, ⟨free_of _ _ (by decide +kernel), by
    decide +kernel⟩, ⟨free_of _ _ (by decide +kernel), by decide +kernel⟩⟩

/-- States and operands that meet the hypotheses of TlbWrites (part 1). -/
theorem witness_tlb_writes_1 :
    (let s : State := (W.walker 0 0 0).modThr fun r => { r with kstatus := 8 }
     s.Accepts Form.walk ∧ s.pm ≠ (2 : BitVec 2) ∧ Instr.tlbw (5 : Reg) (6 : Reg) (8 : Reg) ∈ [Instr.tlbw (5 : Reg) (6 : Reg) (8 : Reg), Instr.tlbi
       (5 : Reg) (6 : Reg) (8 : Reg), Instr.tlbig (5 : Reg) (8 : Reg), Instr.ship (5 : Reg) (6 : Reg) (8 : Reg), Instr.migrBegin (5 : Reg) (6 :
       Reg) (8 : Reg), Instr.migrEnd (5 : Reg) (6 : Reg)]) ∧
    (let s : State := W.told (W.walker W.entry.dw0 W.entry.dw1 (0)) 0
     let w : Await :=
       { id := 1, q := Sys2Proof.Seq.control, pc := 0x0000000000000100#64, left := 0, got := [(0, [0x00#8, 0x00#8, 0x00#8, 0x00#8, 0x00#8, 0x00#8, 0x00#8, 0x00#8])], status := 0x00#8, sent := true, unit := false, carried := false, back := false, asked := 0, out := 0, fail := 0 }
     s.Accepts Form.walk ∧ s.Free [(5 : Reg), (6 : Reg), (6 : Reg) + (1 : Reg), (8 : Reg)] ∧ s.pm = (2 : BitVec 2) ∧ BitVec.toNat (6 : Reg) + 2 ≤
       32 ∧ s.sentAnswer = some w ∧ w.left = 0 ∧ w.status = (0 : Byte)) ∧
    (let s : State := W.walker 0x1000 0 (W.tlbWord 3 0)
     let core : BitVec 16 := bits (s.g (8 : Reg)) 0 16
     let k : BitVec 2 := 0x3#2
     s.Accepts Form.walk ∧ s.Free [(5 : Reg), (6 : Reg), (6 : Reg) + (1 : Reg), (8 : Reg)] ∧ s.pm = (2 : BitVec 2) ∧ BitVec.toNat (6 : Reg) + 2 ≤
       32 ∧ s.sentAnswer = none ∧ bits (s.g (8 : Reg)) 42 6 = (0 : BitVec 6) ∧ bits (s.g (8 : Reg)) 18 17 = (0 : BitVec 17) ∧ k = (3 : BitVec 2) ∧
       bit (s.g (8 : Reg)) 35 = false ∧ core = (0 : CoreName) ∧ bits (s.g (6 : Reg)) 0 12 = (0 : BitVec 12) ∧ s.g ((6 : Reg) + (1 : Reg)) = (0 :
       Word)) ∧
    (let s : State := W.walker W.entry.dw0 W.entry.dw1 (W.tlbWord 1 0)
     let e : TlbEntry := { ctx := bits (s.g (8 : Reg)) 48 16, dw0 := s.g (6 : Reg), dw1 := s.g ((6 : Reg) + (1 : Reg)) }
     let good : Prop := bit (s.g (6 : Reg)) 63 = true ∧ e.malformed = false ∧ s.frameHole e = false
     let core : BitVec 16 := bits (s.g (8 : Reg)) 0 16
     let k : BitVec 2 := 0x1#2
     s.Accepts Form.walk ∧ s.Free [(5 : Reg), (6 : Reg), (6 : Reg) + (1 : Reg), (8 : Reg)] ∧ s.pm = (2 : BitVec 2) ∧ BitVec.toNat (6 : Reg) + 2 ≤
       32 ∧ s.sentAnswer = none ∧ bits (s.g (8 : Reg)) 42 6 = (0 : BitVec 6) ∧ bits (s.g (8 : Reg)) 18 17 = (0 : BitVec 17) ∧ k = (1 : BitVec 2) ∧
       bit (s.g (8 : Reg)) 35 = false ∧ core = (0 : CoreName) ∧ good) ∧
    (let s : State := W.walker W.entry.dw0 0x8 (W.tlbWord 1 0)
     let e : TlbEntry := { ctx := bits (s.g (8 : Reg)) 48 16, dw0 := s.g (6 : Reg), dw1 := s.g ((6 : Reg) + (1 : Reg)) }
     let bad : Prop := bit (s.g (6 : Reg)) 63 = true ∧ (e.malformed = true ∨ s.frameHole e = true)
     let core : BitVec 16 := bits (s.g (8 : Reg)) 0 16
     let k : BitVec 2 := 0x1#2
     s.Accepts Form.walk ∧ s.Free [(5 : Reg), (6 : Reg), (6 : Reg) + (1 : Reg), (8 : Reg)] ∧ s.pm = (2 : BitVec 2) ∧ BitVec.toNat (6 : Reg) + 2 ≤
       32 ∧ s.sentAnswer = none ∧ bits (s.g (8 : Reg)) 42 6 = (0 : BitVec 6) ∧ bits (s.g (8 : Reg)) 18 17 = (0 : BitVec 17) ∧ k = (1 : BitVec 2) ∧
       bit (s.g (8 : Reg)) 35 = false ∧ core = (0 : CoreName) ∧ bad) ∧
    (let s : State := W.walker 0 0 (W.tlbWord 1 0)
     let core : BitVec 16 := bits (s.g (8 : Reg)) 0 16
     let k : BitVec 2 := 0x1#2
     s.Accepts Form.walk ∧ s.Free [(5 : Reg), (6 : Reg), (6 : Reg) + (1 : Reg), (8 : Reg)] ∧ s.pm = (2 : BitVec 2) ∧ BitVec.toNat (6 : Reg) + 2 ≤
       32 ∧ s.sentAnswer = none ∧ bits (s.g (8 : Reg)) 42 6 = (0 : BitVec 6) ∧ bits (s.g (8 : Reg)) 18 17 = (0 : BitVec 17) ∧ k = (1 : BitVec 2) ∧
       bit (s.g (8 : Reg)) 35 = false ∧ core = (0 : CoreName) ∧ bit (s.g (6 : Reg)) 63 = false) :=
  ⟨⟨(accepts_iff _ _).1 (by decide +kernel), by decide +kernel⟩, ⟨(accepts_iff _ _).1 (by decide +kernel), free_of _ _ (by decide +kernel), by
    decide +kernel⟩, ⟨(accepts_iff _ _).1 (by decide +kernel), free_of _ _ (by decide +kernel), by decide +kernel⟩, ⟨(accepts_iff _ _).1 (by
    decide +kernel), free_of _ _ (by decide +kernel), by decide +kernel⟩, ⟨(accepts_iff _ _).1 (by decide +kernel), free_of _ _ (by
    decide +kernel), by decide +kernel⟩, ⟨(accepts_iff _ _).1 (by decide +kernel), free_of _ _ (by decide +kernel), by decide +kernel⟩⟩

/-- States and operands that meet the hypotheses of TlbWrites (part 2). -/
theorem witness_tlb_writes_2 :
    (let s : State := W.walker W.entry.dw0 W.entry.dw1 (W.tlbWord 0 0x111)
     let core : BitVec 16 := bits (s.g (8 : Reg)) 0 16
     let k : BitVec 2 := 0x0#2
     s.Accepts Form.walk ∧ s.Free [(5 : Reg), (6 : Reg), (6 : Reg) + (1 : Reg), (8 : Reg)] ∧ s.pm = (2 : BitVec 2) ∧ BitVec.toNat (6 : Reg) + 2 ≤
       32 ∧ s.sentAnswer = none ∧ bits (s.g (8 : Reg)) 42 6 = (0 : BitVec 6) ∧ bits (s.g (8 : Reg)) 18 17 = (0 : BitVec 17) ∧ (k = (0 : BitVec 2) ∨
       k = (2 : BitVec 2)) ∧ bit (s.g (8 : Reg)) 35 = false ∧ s.ofCluster core = false) ∧
    (let s : State := W.walker W.entry.dw0 0x8 (W.tlbWord 0 0)
     let e : TlbEntry := { ctx := bits (s.g (8 : Reg)) 48 16, dw0 := s.g (6 : Reg), dw1 := s.g ((6 : Reg) + (1 : Reg)) }
     let bad : Prop := bit (s.g (6 : Reg)) 63 = true ∧ (e.malformed = true ∨ s.frameHole e = true)
     let core : BitVec 16 := bits (s.g (8 : Reg)) 0 16
     let k : BitVec 2 := 0x0#2
     s.Accepts Form.walk ∧ s.Free [(5 : Reg), (6 : Reg), (6 : Reg) + (1 : Reg), (8 : Reg)] ∧ s.pm = (2 : BitVec 2) ∧ BitVec.toNat (6 : Reg) + 2 ≤
       32 ∧ s.sentAnswer = none ∧ bits (s.g (8 : Reg)) 42 6 = (0 : BitVec 6) ∧ bits (s.g (8 : Reg)) 18 17 = (0 : BitVec 17) ∧ (k = (0 : BitVec 2) ∨
       k = (2 : BitVec 2)) ∧ bit (s.g (8 : Reg)) 35 = false ∧ s.ofCluster core = true ∧ bad) ∧
    (let s : State := W.walker 0 0 (W.tlbWord 0 0)
     let core : BitVec 16 := bits (s.g (8 : Reg)) 0 16
     let k : BitVec 2 := 0x0#2
     s.Accepts Form.walk ∧ s.Free [(5 : Reg), (6 : Reg), (6 : Reg) + (1 : Reg), (8 : Reg)] ∧ s.pm = (2 : BitVec 2) ∧ BitVec.toNat (6 : Reg) + 2 ≤
       32 ∧ s.sentAnswer = none ∧ bits (s.g (8 : Reg)) 42 6 = (0 : BitVec 6) ∧ bits (s.g (8 : Reg)) 18 17 = (0 : BitVec 17) ∧ (k = (0 : BitVec 2) ∨
       k = (2 : BitVec 2)) ∧ bit (s.g (8 : Reg)) 35 = false ∧ s.ofCluster core = true ∧ bit (s.g (6 : Reg)) 63 = false) ∧
    (let s : State := W.walker W.entry.dw0 W.entry.dw1 (W.tlbWord 0 0)
     let e : TlbEntry := { ctx := bits (s.g (8 : Reg)) 48 16, dw0 := s.g (6 : Reg), dw1 := s.g ((6 : Reg) + (1 : Reg)) }
     let good : Prop := bit (s.g (6 : Reg)) 63 = true ∧ e.malformed = false ∧ s.frameHole e = false
     let core : BitVec 16 := bits (s.g (8 : Reg)) 0 16
     let k : BitVec 2 := 0x0#2
     s.Accepts Form.walk ∧ s.Free [(5 : Reg), (6 : Reg), (6 : Reg) + (1 : Reg), (8 : Reg)] ∧ s.pm = (2 : BitVec 2) ∧ BitVec.toNat (6 : Reg) + 2 ≤
       32 ∧ s.sentAnswer = none ∧ bits (s.g (8 : Reg)) 42 6 = (0 : BitVec 6) ∧ bits (s.g (8 : Reg)) 18 17 = (0 : BitVec 17) ∧ (k = (0 : BitVec 2) ∨
       k = (2 : BitVec 2)) ∧ bit (s.g (8 : Reg)) 35 = false ∧ s.ofCluster core = true ∧ good ∧ s.canPost s.unit (coreUnit s core) 1 = true) ∧
    (let s : State := W.walker W.entry.dw0 W.entry.dw1 (W.tokenWord 4)
     let core : BitVec 16 := bits (s.g (8 : Reg)) 0 16
     let k : BitVec 2 := 0x0#2
     s.Accepts Form.walk ∧ s.Free [(5 : Reg), (6 : Reg), (6 : Reg) + (1 : Reg), (8 : Reg)] ∧ s.pm = (2 : BitVec 2) ∧ BitVec.toNat (6 : Reg) + 2 ≤
       32 ∧ s.sentAnswer = none ∧ bits (s.g (8 : Reg)) 42 6 = (0 : BitVec 6) ∧ bits (s.g (8 : Reg)) 18 17 = (0 : BitVec 17) ∧ (k = (0 : BitVec 2) ∨
       k = (2 : BitVec 2)) ∧ bit (s.g (8 : Reg)) 35 = true ∧ core = (0 : CoreName) ∧ (List.find? (fun (x : Token) => x.num == (bits (s.g (8 : Reg))
       36 6).toNat) (s.service s.cur).tokens = none)) ∧
    (let s : State := W.service33 (W.walker W.entry.dw0 0x8 (W.tokenWord 4)) [W.token] [] 0
     let t : Token := W.token
     let e : TlbEntry := { ctx := bits (s.g (8 : Reg)) 48 16, dw0 := s.g (6 : Reg), dw1 := s.g ((6 : Reg) + (1 : Reg)) }
     let bad : Prop := bit (s.g (6 : Reg)) 63 = true ∧ (e.malformed = true ∨ s.frameHole e = true)
     let core : BitVec 16 := bits (s.g (8 : Reg)) 0 16
     let k : BitVec 2 := 0x0#2
     s.Accepts Form.walk ∧ s.Free [(5 : Reg), (6 : Reg), (6 : Reg) + (1 : Reg), (8 : Reg)] ∧ s.pm = (2 : BitVec 2) ∧ BitVec.toNat (6 : Reg) + 2 ≤
       32 ∧ s.sentAnswer = none ∧ bits (s.g (8 : Reg)) 42 6 = (0 : BitVec 6) ∧ bits (s.g (8 : Reg)) 18 17 = (0 : BitVec 17) ∧ (k = (0 : BitVec 2) ∨
       k = (2 : BitVec 2)) ∧ bit (s.g (8 : Reg)) 35 = true ∧ core = (0 : CoreName) ∧ (List.find? (fun (x : Token) => x.num == (bits (s.g (8 : Reg))
       36 6).toNat) (s.service s.cur).tokens = some t) ∧ bad) :=
  ⟨⟨(accepts_iff _ _).1 (by decide +kernel), free_of _ _ (by decide +kernel), by decide +kernel⟩, ⟨(accepts_iff _ _).1 (by decide +kernel), free_of
    _ _ (by decide +kernel), by decide +kernel⟩, ⟨(accepts_iff _ _).1 (by decide +kernel), free_of _ _ (by decide +kernel), by decide +kernel⟩,
    ⟨(accepts_iff _ _).1 (by decide +kernel), free_of _ _ (by decide +kernel), by decide +kernel⟩, ⟨(accepts_iff _ _).1 (by decide +kernel),
    free_of _ _ (by decide +kernel), by decide +kernel⟩, ⟨(accepts_iff _ _).1 (by decide +kernel), free_of _ _ (by decide +kernel), by
    decide +kernel⟩⟩

/-- States and operands that meet the hypotheses of TlbWrites (part 3). -/
theorem witness_tlb_writes_3 :
    (let s : State := W.service33 (W.walker W.entry.dw0 W.entry.dw1 (W.tokenWord 4)) [W.token] [] 0
     let t : Token := W.token
     let e : TlbEntry := { ctx := bits (s.g (8 : Reg)) 48 16, dw0 := s.g (6 : Reg), dw1 := s.g ((6 : Reg) + (1 : Reg)) }
     let good : Prop := bit (s.g (6 : Reg)) 63 = true ∧ e.malformed = false ∧ s.frameHole e = false
     let core : BitVec 16 := bits (s.g (8 : Reg)) 0 16
     let k : BitVec 2 := 0x0#2
     s.Accepts Form.walk ∧ s.Free [(5 : Reg), (6 : Reg), (6 : Reg) + (1 : Reg), (8 : Reg)] ∧ s.pm = (2 : BitVec 2) ∧ BitVec.toNat (6 : Reg) + 2 ≤
       32 ∧ s.sentAnswer = none ∧ bits (s.g (8 : Reg)) 42 6 = (0 : BitVec 6) ∧ bits (s.g (8 : Reg)) 18 17 = (0 : BitVec 17) ∧ (k = (0 : BitVec 2) ∨
       k = (2 : BitVec 2)) ∧ bit (s.g (8 : Reg)) 35 = true ∧ core = (0 : CoreName) ∧ (List.find? (fun (x : Token) => x.num == (bits (s.g (8 : Reg))
       36 6).toNat) (s.service s.cur).tokens = some t) ∧ (good ∨ bit (s.g (6 : Reg)) 63 = false) ∧ s.canPost s.unit (coreUnit s t.core) 1 = true) :=
  ⟨(accepts_iff _ _).1 (by decide +kernel), free_of _ _ (by decide +kernel), by decide +kernel⟩

/-- States and operands that meet the hypotheses of RemovalAndMigration (part 1). -/
theorem witness_removal_and_migration_1 :
    (let f : TlbEntry → Bool := fun e : TlbEntry => (e.ctx == bits ((W.withEntries (W.walker 0x8000 0 0x0001000000000001)).g 8) 48 16 && decide
       (e.dw0.toNat % 2 ^ 57 / 2 ^ e.shift * 2 ^ e.shift < ((W.withEntries (W.walker 0x8000 0 0x0001000000000001)).g 6).toNat + 16384 * (bits
       ((W.withEntries (W.walker 0x8000 0 0x0001000000000001)).g 8) 0 32).toNat ∧ ((W.withEntries (W.walker 0x8000 0 0x0001000000000001)).g
       6).toNat < e.dw0.toNat % 2 ^ 57 / 2 ^ e.shift * 2 ^ e.shift + 2 ^ e.shift))
     let s : State := W.withEntries (W.walker 0x8000 0 0x0001000000000001)
     s.Accepts Form.walk ∧ s.Free [(5 : Reg), (6 : Reg), (6 : Reg) + (1 : Reg), (8 : Reg)] ∧ ((Instr.tlbi (5 : Reg) (6 : Reg) (8 : Reg) =
       Instr.tlbi (5 : Reg) (6 : Reg) (8 : Reg) ∧ bits (s.g (8 : Reg)) 33 15 = (0 : BitVec 15) ∧ 1 ≤ (bits (s.g (8 : Reg)) 0 32).toNat ∧
       BitVec.toNat (s.g (6 : Reg)) % 16384 = 0 ∧ BitVec.toNat (s.g (6 : Reg)) + 16384 * (bits (s.g (8 : Reg)) 0 32).toNat ≤ 2 ^ 57 ∧ f = fun (e :
       TlbEntry) => e.ctx == bits (s.g (8 : Reg)) 48 16 && decide (BitVec.toNat e.dw0 % 2 ^ 57 / 2 ^ e.shift * 2 ^ e.shift < BitVec.toNat (s.g (6 :
       Reg)) + 16384 * (bits (s.g (8 : Reg)) 0 32).toNat ∧ BitVec.toNat (s.g (6 : Reg)) < BitVec.toNat e.dw0 % 2 ^ 57 / 2 ^ e.shift * 2 ^ e.shift +
       2 ^ e.shift)) ∨ Instr.tlbi (5 : Reg) (6 : Reg) (8 : Reg) = Instr.tlbig (5 : Reg) (8 : Reg) ∧ bits (s.g (8 : Reg)) 33 15 = (0 : BitVec 15) ∧
       bits (s.g (8 : Reg)) 10 22 = (0 : BitVec 22) ∧ ((bits (s.g (8 : Reg)) 8 2 = (0 : BitVec 2) ∧ f = fun (e : TlbEntry) => e.ctx == bits (s.g (8
       : Reg)) 48 16 && !genNotBefore e.gen (bits (s.g (8 : Reg)) 0 8).toNat && decide (((bits (s.g (8 : Reg)) 0 8).toNat + 256 - e.gen) % 256 <
       128)) ∨ (bits (s.g (8 : Reg)) 8 2 = (1 : BitVec 2) ∧ f = fun (e : TlbEntry) => e.ctx == bits (s.g (8 : Reg)) 48 16) ∨ bits (s.g (8 : Reg)) 8
       2 = (2 : BitVec 2) ∧ bits (s.g (8 : Reg)) 48 16 = (0 : BitVec 16) ∧ f = fun (x : TlbEntry) => true)) ∧ s.pm = (2 : BitVec 2) ∧ s.sentAnswer
       = none ∧ (∀ o ∈ s.fab.outst, ¬(o.src = s.unit ∧ o.cls = (15 : BitVec 10) ∧ o.answer = none))) ∧
    (let f : TlbEntry → Bool := fun e : TlbEntry => (e.ctx == bits ((W.counted (W.walker 0x8000 0 0x0001000000000001)).g 8) 48 16 && decide
       (e.dw0.toNat % 2 ^ 57 / 2 ^ e.shift * 2 ^ e.shift < ((W.counted (W.walker 0x8000 0 0x0001000000000001)).g 6).toNat + 16384 * (bits
       ((W.counted (W.walker 0x8000 0 0x0001000000000001)).g 8) 0 32).toNat ∧ ((W.counted (W.walker 0x8000 0 0x0001000000000001)).g 6).toNat <
       e.dw0.toNat % 2 ^ 57 / 2 ^ e.shift * 2 ^ e.shift + 2 ^ e.shift))
     let s : State := W.counted (W.walker 0x8000 0 0x0001000000000001)
     let w : Await :=
       { id := 1, q := Sys2Proof.Seq.control, pc := 0x0000000000000100#64, left := 0, got := [(3, [])], status := 0x00#8, sent := true, unit := false, carried := false, back := false, asked := 0, out := 0, fail := 0 }
     s.Accepts Form.walk ∧ s.Free [(5 : Reg), (6 : Reg), (6 : Reg) + (1 : Reg), (8 : Reg)] ∧ ((Instr.tlbi (5 : Reg) (6 : Reg) (8 : Reg) =
       Instr.tlbi (5 : Reg) (6 : Reg) (8 : Reg) ∧ bits (s.g (8 : Reg)) 33 15 = (0 : BitVec 15) ∧ 1 ≤ (bits (s.g (8 : Reg)) 0 32).toNat ∧
       BitVec.toNat (s.g (6 : Reg)) % 16384 = 0 ∧ BitVec.toNat (s.g (6 : Reg)) + 16384 * (bits (s.g (8 : Reg)) 0 32).toNat ≤ 2 ^ 57 ∧ f = fun (e :
       TlbEntry) => e.ctx == bits (s.g (8 : Reg)) 48 16 && decide (BitVec.toNat e.dw0 % 2 ^ 57 / 2 ^ e.shift * 2 ^ e.shift < BitVec.toNat (s.g (6 :
       Reg)) + 16384 * (bits (s.g (8 : Reg)) 0 32).toNat ∧ BitVec.toNat (s.g (6 : Reg)) < BitVec.toNat e.dw0 % 2 ^ 57 / 2 ^ e.shift * 2 ^ e.shift +
       2 ^ e.shift)) ∨ Instr.tlbi (5 : Reg) (6 : Reg) (8 : Reg) = Instr.tlbig (5 : Reg) (8 : Reg) ∧ bits (s.g (8 : Reg)) 33 15 = (0 : BitVec 15) ∧
       bits (s.g (8 : Reg)) 10 22 = (0 : BitVec 22) ∧ ((bits (s.g (8 : Reg)) 8 2 = (0 : BitVec 2) ∧ f = fun (e : TlbEntry) => e.ctx == bits (s.g (8
       : Reg)) 48 16 && !genNotBefore e.gen (bits (s.g (8 : Reg)) 0 8).toNat && decide (((bits (s.g (8 : Reg)) 0 8).toNat + 256 - e.gen) % 256 <
       128)) ∨ (bits (s.g (8 : Reg)) 8 2 = (1 : BitVec 2) ∧ f = fun (e : TlbEntry) => e.ctx == bits (s.g (8 : Reg)) 48 16) ∨ bits (s.g (8 : Reg)) 8
       2 = (2 : BitVec 2) ∧ bits (s.g (8 : Reg)) 48 16 = (0 : BitVec 16) ∧ f = fun (x : TlbEntry) => true)) ∧ s.pm = (2 : BitVec 2) ∧ s.sentAnswer
       = some w ∧ (∀ n ∈ List.drop 1 w.got, s.pendingName (s.tlbScope (bit (s.g (8 : Reg)) 32)) (Pending.ofKept n) = false)) ∧
    (let s : State := W.withEntries (W.walker 0 0 0x0000000000000200)
     let n : Nat := 16384 * BitVec.toNat (s.g (8 : Reg))
     let fits : Prop := s.oneUnit (BitVec.toNat (s.g (6 : Reg))) n = true ∧ s.oneUnit (BitVec.toNat (s.g ((6 : Reg) + (1 : Reg)))) n = true ∧
       (BitVec.toNat (s.g (6 : Reg)) + n ≤ BitVec.toNat (s.g ((6 : Reg) + (1 : Reg))) ∨ BitVec.toNat (s.g ((6 : Reg) + (1 : Reg))) + n ≤
       BitVec.toNat (s.g (6 : Reg)))
     s.Accepts Form.walk ∧ s.Free [(5 : Reg), (6 : Reg), (6 : Reg) + (1 : Reg), (8 : Reg)] ∧ s.pm = (2 : BitVec 2) ∧ BitVec.toNat (6 : Reg) + 2 ≤
       32 ∧ 1 ≤ BitVec.toNat (s.g (8 : Reg)) ∧ BitVec.toNat (s.g (8 : Reg)) ≤ 32768 ∧ BitVec.toNat (s.g (6 : Reg)) % 16384 = 0 ∧ BitVec.toNat (s.g
       ((6 : Reg) + (1 : Reg))) % 16384 = 0 ∧ (¬fits)) ∧
    (let s : State := (let s := W.walker (BitVec.ofNat 64 (W.hbm+0x4000)) (BitVec.ofNat 64 (W.hbm+0x8000)) 1;
       { s with homes := { s.homes with migrations := (List.range 8).map fun j => ⟨0, j, W.hbm + 0x4000, W.hbm + 0x8000, 128, 0⟩ } } : State)
     let n : Nat := 16384 * BitVec.toNat (s.g (8 : Reg))
     let fits : Prop := s.oneUnit (BitVec.toNat (s.g (6 : Reg))) n = true ∧ s.oneUnit (BitVec.toNat (s.g ((6 : Reg) + (1 : Reg)))) n = true ∧
       (BitVec.toNat (s.g (6 : Reg)) + n ≤ BitVec.toNat (s.g ((6 : Reg) + (1 : Reg))) ∨ BitVec.toNat (s.g ((6 : Reg) + (1 : Reg))) + n ≤
       BitVec.toNat (s.g (6 : Reg)))
     s.Accepts Form.walk ∧ s.Free [(5 : Reg), (6 : Reg), (6 : Reg) + (1 : Reg), (8 : Reg)] ∧ s.pm = (2 : BitVec 2) ∧ BitVec.toNat (6 : Reg) + 2 ≤
       32 ∧ 1 ≤ BitVec.toNat (s.g (8 : Reg)) ∧ BitVec.toNat (s.g (8 : Reg)) ≤ 32768 ∧ BitVec.toNat (s.g (6 : Reg)) % 16384 = 0 ∧ BitVec.toNat (s.g
       ((6 : Reg) + (1 : Reg))) % 16384 = 0 ∧ fits ∧ s.partOf (dieOf s.cur) = some 0 ∧ (∀ j < 8, ∃ m ∈ s.homes.migrations, m.part = 0 ∧ m.num = j)) ∧
    (let s : State := W.walker (BitVec.ofNat 64 (W.hbm+0x4000)) (BitVec.ofNat 64 (W.hbm+0x8000)) 1
     let n : Nat := 16384 * BitVec.toNat (s.g (8 : Reg))
     let fits : Prop := s.oneUnit (BitVec.toNat (s.g (6 : Reg))) n = true ∧ s.oneUnit (BitVec.toNat (s.g ((6 : Reg) + (1 : Reg)))) n = true ∧
       (BitVec.toNat (s.g (6 : Reg)) + n ≤ BitVec.toNat (s.g ((6 : Reg) + (1 : Reg))) ∨ BitVec.toNat (s.g ((6 : Reg) + (1 : Reg))) + n ≤
       BitVec.toNat (s.g (6 : Reg)))
     let r : Nat := 9007199254740992
     s.Accepts Form.walk ∧ s.Free [(5 : Reg), (6 : Reg), (6 : Reg) + (1 : Reg), (8 : Reg)] ∧ s.Accepts { Form.control with exchange := true } ∧
       s.Free [(5 : Reg), (6 : Reg), (8 : Reg)] ∧ s.MemoryWf ∧ s.pm = (2 : BitVec 2) ∧ BitVec.toNat (6 : Reg) + 2 ≤ 32 ∧ 1 ≤ BitVec.toNat (s.g (8 :
       Reg)) ∧ BitVec.toNat (s.g (8 : Reg)) ≤ 32768 ∧ BitVec.toNat (s.g (6 : Reg)) % 16384 = 0 ∧ BitVec.toNat (s.g ((6 : Reg) + (1 : Reg))) % 16384
       = 0 ∧ fits ∧ s.partOf (dieOf s.cur) = some 0 ∧ (∀ m ∈ s.homes.migrations, m.part = 0 → m.num ≠ 0) ∧ (∀ j < 0, ∃ m ∈ s.homes.migrations,
       m.part = 0 ∧ m.num = j) ∧ BitVec.toNat (s.g (8 : Reg)) ≤ 64 ∧ s.g (8 : Reg) = (1 : Word) ∧ ((Option.any (fun (x : TlbEntry) => x.permits
       Need.load) (winner s.core.mem.tlb s.ctx (s.g (6 : Reg))) || (s.clusterHit (serviceOf s.cur) s.ctx (s.g (6 : Reg)) 0).isSome) = false) ∧
       s.ringRoom r = true) ∧
    (let s : State := W.withEntries (W.walker 0 0 0x0001000000000100)
     s.Accepts Form.walk ∧ s.Free [(5 : Reg), (6 : Reg), (6 : Reg) + (1 : Reg), (8 : Reg)] ∧ s.pm = (2 : BitVec 2) ∧ bits (s.g (6 : Reg)) 3 61 = (0
       : BitVec 61) ∧ s.partOf (dieOf s.cur) = some 0 ∧ (List.find? (fun (m : Migration) => m.part == 0 && m.num == BitVec.toNat (s.g (6 : Reg)))
       s.homes.migrations = none)) :=
  ⟨⟨(accepts_iff _ _).1 (by decide +kernel), free_of _ _ (by decide +kernel), Or.inl ⟨rfl, by decide +kernel, by decide +kernel, by decide +kernel,
    by decide +kernel, rfl⟩, by decide +kernel⟩, ⟨(accepts_iff _ _).1 (by decide +kernel), free_of _ _ (by decide +kernel), Or.inl ⟨rfl, by
    decide +kernel, by decide +kernel, by decide +kernel, by decide +kernel, rfl⟩, by decide +kernel⟩, ⟨(accepts_iff _ _).1 (by decide +kernel),
    free_of _ _ (by decide +kernel), by decide +kernel⟩, ⟨(accepts_iff _ _).1 (by decide +kernel), free_of _ _ (by decide +kernel), by
    decide +kernel⟩, ⟨(accepts_iff _ _).1 (by decide +kernel), free_of _ _ (by decide +kernel), (accepts_iff _ _).1 (by decide +kernel), free_of _
    _ (by decide +kernel), memoryWf_of _ (by decide +kernel), by decide +kernel⟩, ⟨(accepts_iff _ _).1 (by decide +kernel), free_of _ _ (by
    decide +kernel), by decide +kernel⟩⟩

/-- States and operands that meet the hypotheses of RemovalAndMigration (part 2). -/
theorem witness_removal_and_migration_2 :
    (let s : State := W.migrating 128 (W.walker 0 0 1)
     let m : Migration := { part := 0, num := 0, old := 9007199254757376, new := 9007199254773760, lines := 128, moved := 128 }
     s.Accepts Form.walk ∧ s.Free [(5 : Reg), (6 : Reg), (6 : Reg) + (1 : Reg), (8 : Reg)] ∧ s.pm = (2 : BitVec 2) ∧ bits (s.g (6 : Reg)) 3 61 = (0
       : BitVec 61) ∧ s.partOf (dieOf s.cur) = some 0 ∧ (List.find? (fun (m : Migration) => m.part == 0 && m.num == BitVec.toNat (s.g (6 : Reg)))
       s.homes.migrations = some m) ∧ m.lines ≤ m.moved) ∧
    (let s : State := W.walker 0x4000 0x8000 1
     s.Accepts { Form.control with exchange := true } ∧ s.Free [(5 : Reg), (6 : Reg), (8 : Reg)] ∧ 1 ≤ BitVec.toNat (s.g (8 : Reg)) ∧ BitVec.toNat
       (s.g (8 : Reg)) ≤ 64 ∧ BitVec.toNat (s.g (6 : Reg)) % 16384 = 0 ∧ (∀ i < BitVec.toNat (s.g (8 : Reg)), (Option.any (fun (x : TlbEntry) =>
       x.permits Need.load) (winner s.core.mem.tlb s.ctx (s.g (6 : Reg) + BitVec.ofNat 64 (16384 * i))) || (s.clusterHit (serviceOf s.cur) s.ctx
       (s.g (6 : Reg) + BitVec.ofNat 64 (16384 * i)) 0).isSome) = true)) :=
  ⟨⟨(accepts_iff _ _).1 (by decide +kernel), free_of _ _ (by decide +kernel), by decide +kernel⟩, ⟨(accepts_iff _ _).1 (by decide +kernel), free_of
    _ _ (by decide +kernel), by decide +kernel⟩⟩

/-- States and operands that meet the hypotheses of Shipping (part 1). -/
theorem witness_shipping_1 :
    (let s : State := W.told (W.walker 0 0 0) 0
     let w : Await :=
       { id := 1, q := Sys2Proof.Seq.control, pc := 0x0000000000000100#64, left := 0, got := [(0, [0x00#8, 0x00#8, 0x00#8, 0x00#8, 0x00#8, 0x00#8, 0x00#8, 0x00#8])], status := 0x00#8, sent := true, unit := false, carried := false, back := false, asked := 0, out := 0, fail := 0 }
     s.Accepts Form.walk ∧ s.Free [(5 : Reg), (6 : Reg), (8 : Reg)] ∧ s.pm = (2 : BitVec 2) ∧ s.sentAnswer = some w ∧ w.left = 0 ∧ w.status = (0 :
       Byte) ∧ bits (s.g (6 : Reg)) 6 57 = (0 : BitVec 57) ∧ bits (s.g (8 : Reg)) 17 47 = (0 : BitVec 47) ∧ bit (s.g (8 : Reg)) 16 = false) ∧
    (let s : State := W.walker 0x8000000000000000 0 0
     s.Accepts Form.walk ∧ s.Free [(5 : Reg), (6 : Reg), (8 : Reg)] ∧ s.pm = (2 : BitVec 2) ∧ s.sentAnswer = none ∧ bits (s.g (6 : Reg)) 6 57 = (0
       : BitVec 57) ∧ bits (s.g (8 : Reg)) 17 47 = (0 : BitVec 47) ∧ bit (s.g (8 : Reg)) 16 = false ∧ bit (s.g (6 : Reg)) 63 = true ∧ (List.find?
       (fun (x : Nat × Ship) => x.1 == (bits (s.g (6 : Reg)) 0 6).toNat) (s.service s.cur).parks = none)) ∧
    (let s : State := W.service33 (W.walker 0x8000000000000000 0 0x33) [] [(0, W.parked)] 0
     let h : Ship := W.parked
     let entry : Option TlbEntry := winner (s.service s.cur).tlb h.saved.task.ctx h.va
     let dest : CoreName ⊕ Word := s.shipDest (bits (s.g (8 : Reg)) 0 16) s.cur h.saved.task.groups entry h.va h.tiles
     s.Accepts Form.walk ∧ s.Free [(5 : Reg), (6 : Reg), (8 : Reg)] ∧ s.pm = (2 : BitVec 2) ∧ s.sentAnswer = none ∧ bits (s.g (6 : Reg)) 6 57 = (0
       : BitVec 57) ∧ bits (s.g (8 : Reg)) 17 47 = (0 : BitVec 47) ∧ bit (s.g (8 : Reg)) 16 = false ∧ bit (s.g (6 : Reg)) 63 = true ∧ (List.find?
       (fun (x : Nat × Ship) => x.1 == (bits (s.g (6 : Reg)) 0 6).toNat) (s.service s.cur).parks = some (0, h)) ∧ dest = Sum.inr
       (9223372036854775810 : Word)) ∧
    (let s : State := W.service33 (W.walker 0x8000000000000000 0 0x100) [] [(0, W.parked)] 0
     let h : Ship := W.parked
     let entry : Option TlbEntry := winner (s.service s.cur).tlb h.saved.task.ctx h.va
     let dest : CoreName ⊕ Word := s.shipDest (bits (s.g (8 : Reg)) 0 16) s.cur h.saved.task.groups entry h.va h.tiles
     s.Accepts Form.walk ∧ s.Free [(5 : Reg), (6 : Reg), (8 : Reg)] ∧ s.pm = (2 : BitVec 2) ∧ s.sentAnswer = none ∧ bits (s.g (6 : Reg)) 6 57 = (0
       : BitVec 57) ∧ bits (s.g (8 : Reg)) 17 47 = (0 : BitVec 47) ∧ bit (s.g (8 : Reg)) 16 = false ∧ bit (s.g (6 : Reg)) 63 = true ∧ (List.find?
       (fun (x : Nat × Ship) => x.1 == (bits (s.g (6 : Reg)) 0 6).toNat) (s.service s.cur).parks = some (0, h)) ∧ dest = Sum.inl (256 : CoreName) ∧
       s.canPost s.unit (coreUnit s (256 : CoreName)) 1 = true) ∧
    (let s : State := W.walker 4 0 0x10000
     s.Accepts Form.walk ∧ s.Free [(5 : Reg), (6 : Reg), (8 : Reg)] ∧ s.pm = (2 : BitVec 2) ∧ s.sentAnswer = none ∧ bits (s.g (6 : Reg)) 6 57 = (0
       : BitVec 57) ∧ bits (s.g (8 : Reg)) 17 47 = (0 : BitVec 47) ∧ bit (s.g (6 : Reg)) 63 = false ∧ (bit (s.g (8 : Reg)) 16 = false ∨ bits (s.g
       (8 : Reg)) 0 16 = (0 : BitVec 16)) ∧ (List.find? (fun (x : Token) => x.num == (bits (s.g (6 : Reg)) 0 6).toNat) (s.service s.cur).tokens =
       none)) ∧
    (let t : Token := { W.token with req := { W.miss with q := .routine } }
     let s : State := W.service33 (W.withTask (W.walker (4) 0 (0))) [{ W.token with req := { W.miss with q := .routine } }] [] 0
     s.Accepts Form.walk ∧ s.Free [(5 : Reg), (6 : Reg), (8 : Reg)] ∧ s.pm = (2 : BitVec 2) ∧ s.sentAnswer = none ∧ bits (s.g (6 : Reg)) 6 57 = (0
       : BitVec 57) ∧ bits (s.g (8 : Reg)) 17 47 = (0 : BitVec 47) ∧ bit (s.g (6 : Reg)) 63 = false ∧ (bit (s.g (8 : Reg)) 16 = false ∨ bits (s.g
       (8 : Reg)) 0 16 = (0 : BitVec 16)) ∧ (List.find? (fun (x : Token) => x.num == (bits (s.g (6 : Reg)) 0 6).toNat) (s.service s.cur).tokens =
       some t) ∧ t.req.q = Seq.routine) :=
  ⟨⟨(accepts_iff _ _).1 (by decide +kernel), free_of _ _ (by decide +kernel), by decide +kernel⟩, ⟨(accepts_iff _ _).1 (by decide +kernel), free_of
    _ _ (by decide +kernel), by decide +kernel⟩, ⟨(accepts_iff _ _).1 (by decide +kernel), free_of _ _ (by decide +kernel), by decide +kernel⟩,
    ⟨(accepts_iff _ _).1 (by decide +kernel), free_of _ _ (by decide +kernel), by decide +kernel⟩, ⟨(accepts_iff _ _).1 (by decide +kernel),
    free_of _ _ (by decide +kernel), by decide +kernel⟩, ⟨(accepts_iff _ _).1 (by decide +kernel), free_of _ _ (by decide +kernel), by
    decide +kernel⟩⟩

/-- States and operands that meet the hypotheses of Shipping (part 2). -/
theorem witness_shipping_2 :
    (let s : State := W.service33 (W.withTask (W.walker (4) 0 (0x10000))) [W.token] [] 0
     let t : Token := W.token
     let k : Machine.Task := W.taskA
     s.Accepts Form.walk ∧ s.Free [(5 : Reg), (6 : Reg), (8 : Reg)] ∧ s.NoAlloc t.core ∧ s.pm = (2 : BitVec 2) ∧ s.sentAnswer = none ∧ bits (s.g (6
       : Reg)) 6 57 = (0 : BitVec 57) ∧ bits (s.g (8 : Reg)) 17 47 = (0 : BitVec 47) ∧ bit (s.g (6 : Reg)) 63 = false ∧ (bit (s.g (8 : Reg)) 16 =
       false ∨ bits (s.g (8 : Reg)) 0 16 = (0 : BitVec 16)) ∧ (List.find? (fun (x : Token) => x.num == (bits (s.g (6 : Reg)) 0 6).toNat) (s.service
       s.cur).tokens = some t) ∧ t.req.q ≠ Seq.routine ∧ t.core ≠ s.cur ∧ (s.getCore t.core).pair = none ∧ (s.getCore t.core).ctl.task = some k ∧
       (s.getCore t.core).drained = true ∧ bit (s.g (8 : Reg)) 16 = true ∧ s.deferred t.core = false ∧ (leastFree (List.map (fun (x : Nat × Ship)
       => x.1) (s.service s.cur).parks) = some 0)) ∧
    (let s : State := W.service33 (W.withTask (W.walker (4) 0 (0x100))) [W.token] [] 0
     let t : Token := W.token
     let k : Machine.Task := W.taskA
     s.Accepts Form.walk ∧ s.Free [(5 : Reg), (6 : Reg), (8 : Reg)] ∧ s.NoAlloc t.core ∧ s.pm = (2 : BitVec 2) ∧ s.sentAnswer = none ∧ bits (s.g (6
       : Reg)) 6 57 = (0 : BitVec 57) ∧ bits (s.g (8 : Reg)) 17 47 = (0 : BitVec 47) ∧ bit (s.g (6 : Reg)) 63 = false ∧ (bit (s.g (8 : Reg)) 16 =
       false ∨ bits (s.g (8 : Reg)) 0 16 = (0 : BitVec 16)) ∧ (List.find? (fun (x : Token) => x.num == (bits (s.g (6 : Reg)) 0 6).toNat) (s.service
       s.cur).tokens = some t) ∧ t.req.q ≠ Seq.routine ∧ t.core ≠ s.cur ∧ (s.getCore t.core).pair = none ∧ (s.getCore t.core).ctl.task = some k ∧
       (s.getCore t.core).drained = true ∧ bit (s.g (8 : Reg)) 16 = false ∧ k.team = none ∧ s.shipDest (bits (s.g (8 : Reg)) 0 16) t.core k.groups
       (winner (s.service s.cur).tlb t.ctx t.req.va) t.req.va (s.tileContents t.core ((s.getCore t.core).saved k)) = Sum.inl (256 : CoreName) ∧
       s.canPost (coreUnit s t.core) (coreUnit s (256 : CoreName)) 1 = true) :=
  ⟨⟨(accepts_iff _ _).1 (by decide +kernel), free_of _ _ (by decide +kernel), noAlloc_of _ _ (by decide +kernel), by decide +kernel⟩, ⟨(accepts_iff
    _ _).1 (by decide +kernel), free_of _ _ (by decide +kernel), noAlloc_of _ _ (by decide +kernel), by decide +kernel⟩⟩

/-- States and operands that meet the hypotheses of MissesAndMoves (part 1). -/
theorem witness_misses_and_moves_1 :
    (let s : State := W.missing false [] (.tlbm W.miss) 14 (W.unitOf 0) (W.unitOf 0x33)
     let m : MissReq := W.miss
     let r : Recv := W.recv (W.unitOf (0 : CoreName)) (W.unitOf (51 : CoreName)) (14 : BitVec 10) (Body.tlbm W.miss)
     s.request 0 [14] = some r ∧ r.body = Body.tlbm m ∧ s.missWaits (unitCore r.src) m = false) ∧
    (let e : TlbEntry := W.entry
     let s : State := W.missing true [W.entry] (.tlbm W.miss) 14 (W.unitOf 0) (W.unitOf 0x33)
     let m : MissReq := W.miss
     let r : Recv := W.recv (W.unitOf (0 : CoreName)) (W.unitOf (51 : CoreName)) (14 : BitVec 10) (Body.tlbm W.miss)
     s.request 0 [14] = some r ∧ r.body = Body.tlbm m ∧ s.missWaits (unitCore r.src) m = true ∧ s.clusterHit (unitCore r.dst) r.ctx m.va m.kind =
       some e ∧ s.canPost r.dst r.src 1 = true) ∧
    (let s : State := W.missing true [] (.tlbm W.miss) 14 (W.unitOf 0) (W.unitOf 0x33)
     let m : MissReq := W.miss
     let ring : Nat := W.ring
     let r : Recv := W.recv (W.unitOf (0 : CoreName)) (W.unitOf (51 : CoreName)) (14 : BitVec 10) (Body.tlbm W.miss)
     s.MemoryWf ∧ s.request 0 [14] = some r ∧ r.body = Body.tlbm m ∧ s.missWaits (unitCore r.src) m = true ∧ s.clusterHit (unitCore r.dst) r.ctx
       m.va m.kind = none ∧ (s.service (unitCore r.dst)).ring = ring ∧ (leastFree (List.map (fun (x : Token) => x.num) (s.service (unitCore
       r.dst)).tokens) = some 0) ∧ s.ringRoom ring = true) ∧
    (let y : TlbEntry := W.entry
     let s : State := W.missing true [] (.tlbf (some W.entry) (some .control) 0x8000) 15 (W.unitOf 0x33) (W.unitOf 0)
     let r : Recv := W.recv (W.unitOf (51 : CoreName)) (W.unitOf (0 : CoreName)) (15 : BitVec 10) (Body.tlbf (some W.entry) (some Seq.control)
       (32768 : Word))
     s.request 0 [15] = some r ∧ r.body = Body.tlbf (some y) (some Seq.control) (32768 : Word)) ∧
    (let s : State := W.missing true [] (.ship W.shipped) 16 (W.unitOf 0x33) (W.unitOf 0)
     let h : Ship := W.shipped
     let r : Recv := W.recv (W.unitOf (51 : CoreName)) (W.unitOf (0 : CoreName)) (16 : BitVec 10) (Body.ship W.shipped)
     s.request 0 [16] = some r ∧ r.body = Body.ship h ∧ shipSound h.record = true ∧ s.takesShip (unitCore r.dst) h.tiles = true) ∧
    (let s : State := W.toPages
     let k : Machine.Task := W.taskA
     (s.getCore (0 : CoreName)).ctl.task = some k ∧ (s.getCore (0 : CoreName)).ctl.run = RunState.task ∧ (s.getCore (0 : CoreName)).ctl.stopped =
       false ∧ k.team = none ∧ (((s.getCore (0 : CoreName)).ctl.stalls.any fun (e : Sys2Proof.Seq × Stall) => e.1 == Seq.control && e.2 ==
       Stall.migration) = true) ∧ (s.getCore (0 : CoreName)).drained = true ∧ (List.find? (fun (d : CoreName) => isWorker d && bit (coreGroups d) 4
       && decide ((s.getCore d).sched.resume.length < 32) && cluster d == cluster (0 : CoreName)) (coresOf (dieOf (0 : CoreName))) = some (0 :
       CoreName)) ∧ s.canPost (coreUnit s (0 : CoreName)) (coreUnit s (0 : CoreName)) 1 = true) :=
  ⟨by decide +kernel, by decide +kernel, ⟨memoryWf_of _ (by decide +kernel), by decide +kernel⟩, by decide +kernel, ⟨rfl, rfl, ship_sound _ _ _ _,
    by decide +kernel⟩, by decide +kernel⟩

/-- States and operands that meet the hypotheses of MissesAndMoves (part 2). -/
theorem witness_misses_and_moves_2 :
    (let s : State := W.redirected
     let o : Outst := W.asked (1 : BitVec 10) W.home (Body.ld (W.hbm + 16384) 4 false) (Purpose.load (0 : CoreName) 9 0) (some ((0 : Byte),
       Body.redir (W.hbm + 32768)))
     (∀ (c : CoreName) (i l : Nat) (m : W32), o.purpose ≠ Purpose.reg c i l m) ∧ s.fab.outst[0]? = some o ∧ o.answer = some ((0 : Byte), Body.redir
       (W.hbm + 32768)) ∧ s.canPost o.src (s.newUnit o.body (W.hbm + 32768)) 1 = true) ∧
    (let s : State := W.migrating 3 W.start
     let m' : Migration := (⟨0,0,W.hbm+0x4000,W.hbm+0x8000,128,3⟩:Migration)
     s.MemoryWf ∧ s.homes.migrations[0]? = some m' ∧ m'.moved < m'.lines ∧ s.codedStall (m'.new + 128 * m'.moved) 128 = false ∧ s.deltaRoom
       (s.ownerUnit (m'.old + 128 * m'.moved)) (m'.new + 128 * m'.moved) 128 = true ∧ (∀ x ∈ [m'.old + 128 * m'.moved, m'.new + 128 * m'.moved],
       s.place x ≠ Place.memory ∨ s.reclaim (x / 128) (BitVec.ofNat 32 4294967295) (0 : W32) = none)) :=
  ⟨⟨nofun, by decide +kernel⟩, ⟨memoryWf_of _ (by decide +kernel), by decide +kernel⟩⟩

/-- States and operands that meet the hypotheses of MustSave (part 1). -/
theorem witness_must_save_1 :
    (let s : State := W.reserve 0 0x1000 0 [] [] 100
     let n : Nat := (bits (s.g ((6 : Reg) + (1 : Reg))) 0 32).toNat
     s.Accepts Form.reserve ∧ s.Free [(5 : Reg), (6 : Reg), (6 : Reg) + (1 : Reg), (8 : Reg)] ∧ s.extentFrame (s.g (6 : Reg)) n = Except.ok none ∧
       s.handleExtent (s.g (6 : Reg)) = Except.ok none ∧ BitVec.toNat (6 : Reg) ≤ 30 ∧ bits (s.g ((6 : Reg) + (1 : Reg))) 32 31 = (0 : BitVec 31) ∧
       n ≠ 0 ∧ n % 4096 = 0 ∧ n ≤ 2 ^ 28 ∧ BitVec.toNat (s.g (6 : Reg)) % 4096 = 0 ∧ s.g (8 : Reg) = (0 : Word) ∧ s.mgmt.reserve.stop = false) ∧
    (let s : State := W.reserve 0x4000 0x2000 9 [] [] 0
     let c : Context := W.ctxA
     let n : Nat := (bits (s.g ((6 : Reg) + (1 : Reg))) 0 32).toNat
     let pa : Nat := 9007199254757376
     s.Accepts Form.reserve ∧ s.Free [(5 : Reg), (6 : Reg), (6 : Reg) + (1 : Reg), (8 : Reg)] ∧ s.extentFrame (s.g (6 : Reg)) n = Except.ok (some
       pa) ∧ BitVec.toNat (6 : Reg) ≤ 30 ∧ bits (s.g ((6 : Reg) + (1 : Reg))) 32 31 = (0 : BitVec 31) ∧ n ≠ 0 ∧ n % 4096 = 0 ∧ n ≤ 2 ^ 28 ∧
       BitVec.toNat (s.g (6 : Reg)) % 4096 = 0 ∧ s.findCtx s.ctx = some c ∧ addrPkg pa = s.mgmt.domain.pkg.toNat ∧ s.declare c s.cid (s.g (6 :
       Reg)) pa n (s.g (8 : Reg)) (bit (s.g ((6 : Reg) + (1 : Reg))) 63) = none) ∧
    (let w : Word := (((W.reserve 0x4000 0x2000 9 [] [] 100).declare W.ctxA 1 0x4000 (W.hbm+0x4000) 0x2000 9 false).map (·.1)).getD 0
     let u : State := (((W.reserve 0x4000 0x2000 9 [] [] 100).declare W.ctxA 1 0x4000 (W.hbm+0x4000) 0x2000 9 false).map (·.2)).getD W.start
     let s : State := W.reserve 0x4000 0x2000 9 [] [] 100
     let c : Context := W.ctxA
     let n : Nat := (bits (s.g ((6 : Reg) + (1 : Reg))) 0 32).toNat
     let pa : Nat := 9007199254757376
     s.Accepts Form.reserve ∧ s.Free [(5 : Reg), (6 : Reg), (6 : Reg) + (1 : Reg), (8 : Reg)] ∧ s.extentFrame (s.g (6 : Reg)) n = Except.ok (some
       pa) ∧ BitVec.toNat (6 : Reg) ≤ 30 ∧ bits (s.g ((6 : Reg) + (1 : Reg))) 32 31 = (0 : BitVec 31) ∧ n ≠ 0 ∧ n % 4096 = 0 ∧ n ≤ 2 ^ 28 ∧
       BitVec.toNat (s.g (6 : Reg)) % 4096 = 0 ∧ s.findCtx s.ctx = some c ∧ addrPkg pa = s.mgmt.domain.pkg.toNat ∧ s.declare c s.cid (s.g (6 :
       Reg)) pa n (s.g (8 : Reg)) (bit (s.g ((6 : Reg) + (1 : Reg))) 63) = some (w, u)) ∧
    (let k : Machine.Task := { W.taskA with windows := [0] }
     let e : Extent := W.extent0 1
     let s : State := W.reserve 0 0 0 [W.extent0 1] [0] 100
     s.Accepts Form.reserve ∧ s.Free [(5 : Reg), (6 : Reg), (6 : Reg) + (1 : Reg), (8 : Reg)] ∧ s.handleExtent (s.g (6 : Reg)) = Except.ok (some e)
       ∧ s.core.ctl.task = some k ∧ s.g (8 : Reg) = (0 : Word) ∧ k.windows.length < 4 ∧ e.opens ≠ 127 ∧ k.windows.contains (BitVec.ofNat 12 e.num)
       = true ∧ s.released = true) ∧
    (let k : Machine.Task := { W.taskA with windows := [0,0,0,0] }
     let e : Extent := W.extent0 1
     let s : State := W.reserve 0 0 0 [W.extent0 1] [0,0,0,0] 100
     s.Accepts Form.reserve ∧ s.Free [(5 : Reg), (6 : Reg), (6 : Reg) + (1 : Reg), (8 : Reg)] ∧ s.handleExtent (s.g (6 : Reg)) = Except.ok (some e)
       ∧ s.core.ctl.task = some k ∧ 4 ≤ k.windows.length) ∧
    (let k : Machine.Task := { W.taskA with windows := [0] }
     let e : Extent := W.extent0 127
     let s : State := W.reserve 0 0 0 [W.extent0 127] [0] 100
     s.Accepts Form.reserve ∧ s.Free [(5 : Reg), (6 : Reg), (6 : Reg) + (1 : Reg), (8 : Reg)] ∧ s.handleExtent (s.g (6 : Reg)) = Except.ok (some e)
       ∧ s.core.ctl.task = some k ∧ k.windows.length < 4 ∧ e.opens = 127) :=
  ⟨⟨(accepts_iff _ _).1 (by decide +kernel), free_of _ _ (by decide +kernel), ok_of _ _ (by decide +kernel), ok_of _ _ (by decide +kernel), by
    decide +kernel⟩, ⟨(accepts_iff _ _).1 (by decide +kernel), free_of _ _ (by decide +kernel), ok_of _ _ (by decide +kernel), by decide +kernel⟩,
    ⟨(accepts_iff _ _).1 (by decide +kernel), free_of _ _ (by decide +kernel), ok_of _ _ (by decide +kernel), by decide +kernel⟩, ⟨(accepts_iff _
    _).1 (by decide +kernel), free_of _ _ (by decide +kernel), ok_of _ _ (by decide +kernel), by decide +kernel⟩, ⟨(accepts_iff _ _).1 (by
    decide +kernel), free_of _ _ (by decide +kernel), ok_of _ _ (by decide +kernel), by decide +kernel⟩, ⟨(accepts_iff _ _).1 (by decide +kernel),
    free_of _ _ (by decide +kernel), ok_of _ _ (by decide +kernel), by decide +kernel⟩⟩

/-- States and operands that meet the hypotheses of MustSave (part 2). -/
theorem witness_must_save_2 :
    (let k : Machine.Task := { W.taskA with windows := [] }
     let e : Extent := W.extent0 1
     let s : State := W.reserve 0 0 0 [W.extent0 1] [] 100
     s.Accepts Form.reserve ∧ s.Free [(5 : Reg), (6 : Reg), (6 : Reg) + (1 : Reg), (8 : Reg)] ∧ s.handleExtent (s.g (6 : Reg)) = Except.ok (some e)
       ∧ s.core.ctl.task = some k ∧ k.windows.contains (BitVec.ofNat 12 e.num) = false) ∧
    (let h : Chamber := W.root
     let s : State := W.reserve 0 0 1 [] [] 100
     let cid : W32 := 0x00000001#32
     s.Accepts Form.reserve ∧ s.Free [(5 : Reg), (6 : Reg), (6 : Reg) + (1 : Reg), (8 : Reg)] ∧ s.g (8 : Reg) = (1 : Word) ∧ bits (s.g (6 : Reg))
       32 32 = (0 : BitVec 32) ∧ s.isWithin s.ctx cid s.cid = true ∧ (Option.filter (fun (x : Chamber) => x.isOpen) (s.chamber s.ctx cid) = some h)) ∧
    (let s : State := W.reserve 0x100000000 0 1 [] [] 100
     let cid : W32 := 0x00000000#32
     s.Accepts Form.reserve ∧ s.Free [(5 : Reg), (6 : Reg), (6 : Reg) + (1 : Reg), (8 : Reg)] ∧ s.g (8 : Reg) = (1 : Word) ∧ (bits (s.g (6 : Reg))
       32 32 ≠ (0 : BitVec 32) ∨ s.isWithin s.ctx cid s.cid = false ∨ Option.filter (fun (x : Chamber) => x.isOpen) (s.chamber s.ctx cid) = none)) ∧
    (let s : State := W.reserve 0 0 2 [] [] 100
     let c : Context := W.ctxA
     let p : Partition :=
       { dies := [0, 1, 2, 3, 4, 5, 6, 7, 8, 9, 10, 11, 12, 13, 14, 15, 16, 17, 18, 19, 20, 21], remote := [], share := 100, charged := 0, held := false, halted := [], bseq := 0, stopped := false, bound := false, table := 0 }
     s.Accepts Form.reserve ∧ s.Free [(5 : Reg), (6 : Reg), (6 : Reg) + (1 : Reg), (8 : Reg)] ∧ s.g (8 : Reg) = (2 : Word) ∧ s.g (6 : Reg) = (0 :
       Word) ∧ s.findCtx s.ctx = some c ∧ s.part c.part = some p) ∧
    (let s : State := W.reserve 0 0 3 [] [] 100
     s.Accepts Form.reserve ∧ s.Free [(5 : Reg), (6 : Reg), (6 : Reg) + (1 : Reg), (8 : Reg)] ∧ s.g (8 : Reg) = (3 : Word) ∧ s.offeredRecords (s.g
       (6 : Reg)) = []) :=
  ⟨⟨(accepts_iff _ _).1 (by decide +kernel), free_of _ _ (by decide +kernel), ok_of _ _ (by decide +kernel), by decide +kernel⟩, ⟨(accepts_iff _
    _).1 (by decide +kernel), free_of _ _ (by decide +kernel), by decide +kernel⟩, ⟨(accepts_iff _ _).1 (by decide +kernel), free_of _ _ (by
    decide +kernel), by decide +kernel⟩, ⟨(accepts_iff _ _).1 (by decide +kernel), free_of _ _ (by decide +kernel), by decide +kernel⟩,
    ⟨(accepts_iff _ _).1 (by decide +kernel), free_of _ _ (by decide +kernel), by decide +kernel⟩⟩

/-- States and operands that meet the hypotheses of HomeRequests (part 1). -/
theorem witness_home_requests_1 :
    (let s : State := W.migrating 128 (W.queue (W.recv (W.unitOf 0) W.home 1 (.ld W.pa 4 false)))
     let a : Nat := W.hbm+0x8000
     let r : Recv := W.recv (W.unitOf (0 : CoreName)) W.home (1 : BitVec 10) (Body.ld W.pa 4 false)
     s.request 0 [1] = some r ∧ r.body = Body.ld W.pa 4 false ∧ s.moving W.pa = Moving.moved a) ∧
    (let s : State := W.poisoned (W.queue (W.recv (W.unitOf 0) W.home 1 (.ld W.pa 4 false)))
     let r : Recv := W.recv (W.unitOf (0 : CoreName)) W.home (1 : BitVec 10) (Body.ld W.pa 4 false)
     s.request 0 [1] = some r ∧ r.body = Body.ld W.pa 4 false ∧ s.moving W.pa = Moving.serve ∧ s.place W.pa = Place.memory ∧ s.unreadable W.pa 4 =
       true ∧ (List.foldl (fun (m : W32) (e : RegEntry) => m &&& ~~~e.mask) (wordMask W.pa 4) (s.ownersOf (W.pa / 128) (wordMask W.pa 4)) ≠ (0 :
       W32))) ∧
    (let s : State := W.queue (W.recv (W.unitOf 0) W.home 1 (.ld W.pa 4 false))
     let r : Recv := W.recv (W.unitOf (0 : CoreName)) W.home (1 : BitVec 10) (Body.ld W.pa 4 false)
     s.request 0 [1] = some r ∧ r.body = Body.ld W.pa 4 false ∧ s.moving W.pa = Moving.serve ∧ s.place W.pa = Place.memory ∧ s.unreadable W.pa 4 =
       false ∧ s.ownersOf (W.pa / 128) (wordMask W.pa 4) = []) ∧
    (let s : State := W.queue (W.recv (W.unitOf 0) W.home 1 (.ld W.pa 4 true))
     let r : Recv := W.recv (W.unitOf (0 : CoreName)) W.home (1 : BitVec 10) (Body.ld W.pa 4 true)
     s.request 0 [1] = some r ∧ r.body = Body.ld W.pa 4 true ∧ s.moving W.pa = Moving.serve ∧ s.place W.pa = Place.memory ∧ s.unreadable W.pa 4 =
       false ∧ s.ownersOf (W.pa / 128) (wordMask W.pa 4) = []) ∧
    (let e : RegEntry := W.reg 1 (-1)
     let s : State := W.owned 1 (-1) (W.queue (W.recv (W.unitOf 0) W.home 1 (.ld W.pa 4 false)))
     let r : Recv := W.recv (W.unitOf (0 : CoreName)) W.home (1 : BitVec 10) (Body.ld W.pa 4 false)
     s.request 0 [1] = some r ∧ r.body = Body.ld W.pa 4 false ∧ s.moving W.pa = Moving.serve ∧ s.place W.pa = Place.memory ∧ s.ownersOf (W.pa /
       128) (wordMask W.pa 4) = [e] ∧ e.mask &&& wordMask W.pa 4 = wordMask W.pa 4 ∧ e.owner.die ≠ (31 : BitVec 5) ∧ s.forwarded r = false ∧
       s.canPost r.dst e.owner 1 = true) ∧
    (let s : State := W.queue (W.recv (W.unitOf 1) (W.unitOf 0) 1 (.ld (W.sram+0x20000) 4 false))
     let x : Nat := W.sram
     let r : Recv := W.recv (W.unitOf (1 : CoreName)) (W.unitOf (0 : CoreName)) (1 : BitVec 10) (Body.ld (W.sram + 131072) 4 false)
     s.request 0 [1] = some r ∧ r.body = Body.ld (x + 131072) 4 false ∧ s.moving (x + 131072) = Moving.serve ∧ s.place (x + 131072) ≠ Place.memory
       ∧ s.agentStatus (x + 131072) 4 ≠ (0 : Byte)) :=
  ⟨by decide +kernel, by decide +kernel, by decide +kernel, by decide +kernel, by decide +kernel, by decide +kernel⟩

/-- States and operands that meet the hypotheses of HomeRequests (part 2). -/
theorem witness_home_requests_2 :
    (let s : State :=
       { W.queue (W.recv (W.unitOf 1) (W.unitOf 0) 1 (.ld (W.sram+0x0) 4 false)) with homes := { W.start.homes with poison := [W.sram/128] } }
     let x : Nat := W.sram
     let r : Recv := W.recv (W.unitOf (1 : CoreName)) (W.unitOf (0 : CoreName)) (1 : BitVec 10) (Body.ld (W.sram + 0) 4 false)
     s.request 0 [1] = some r ∧ r.body = Body.ld (x + 0) 4 false ∧ s.moving (x + 0) = Moving.serve ∧ s.place (x + 0) ≠ Place.memory ∧ s.agentStatus
       (x + 0) 4 = (0 : Byte) ∧ s.unreadable (x + 0) 4 = true) ∧
    (let s : State := W.queue (W.recv (W.unitOf 1) (W.unitOf 0) 1 (.ld W.sram 4 false))
     let x : Nat := W.sram
     let r : Recv := W.recv (W.unitOf (1 : CoreName)) (W.unitOf (0 : CoreName)) (1 : BitVec 10) (Body.ld W.sram 4 false)
     s.request 0 [1] = some r ∧ r.body = Body.ld x 4 false ∧ s.moving x = Moving.serve ∧ s.place x ≠ Place.memory ∧ s.agentStatus x 4 = (0 : Byte)
       ∧ s.unreadable x 4 = false) ∧
    (let r : Recv := W.recv (W.unitOf 0) W.home 2 (.st W.pa 4 0x01020304)
     let pa : Nat := W.pa
     let s : State := W.queue (W.recv (W.unitOf 0) W.home 2 (.st W.pa 4 0x01020304))
     ((Instr.stRequest 0 = Instr.stRequest 0 ∧ s.request 0 [2] = some r ∧ ∃ (v : Word), r.body = Body.st pa [(4 : Byte), (3 : Byte), (2 : Byte), (1
       : Byte)].length v ∧ [(4 : Byte), (3 : Byte), (2 : Byte), (1 : Byte)] = toBytes [(4 : Byte), (3 : Byte), (2 : Byte), (1 : Byte)].length
       (BitVec.toNat v)) ∨ Instr.stRequest 0 = Instr.stl 0 ∧ s.request 0 [3] = some r ∧ r.body = Body.stl pa [(4 : Byte), (3 : Byte), (2 : Byte),
       (1 : Byte)]) ∧ s.MemoryWf ∧ s.lostAt pa = false ∧ s.moving pa = Moving.serve ∧ (s.place pa = Place.memory → s.reclaim (pa / 128) (wordMask
       pa [(4 : Byte), (3 : Byte), (2 : Byte), (1 : Byte)].length) (wholeWords pa [(4 : Byte), (3 : Byte), (2 : Byte), (1 : Byte)].length) = none)
       ∧ (s.place pa ≠ Place.memory → s.agentStatus pa [(4 : Byte), (3 : Byte), (2 : Byte), (1 : Byte)].length = (0 : Byte)) ∧ s.place pa ≠
       Place.window ∧ s.place pa ≠ Place.mailbox) ∧
    (let r : Recv := W.recv (W.unitOf 1) (W.unitOf 0) 3 (.stl (W.sram+0x20000) [1,2])
     let pa : Nat := W.sram+0x20000
     let s : State := W.queue (W.recv (W.unitOf 1) (W.unitOf 0) 3 (.stl (W.sram+0x20000) [1,2]))
     ((Instr.stl 0 = Instr.stRequest 0 ∧ s.request 0 [2] = some r ∧ ∃ (v : Word), r.body = Body.st pa [(1 : Byte), (2 : Byte)].length v ∧ [(1 :
       Byte), (2 : Byte)] = toBytes [(1 : Byte), (2 : Byte)].length (BitVec.toNat v)) ∨ Instr.stl 0 = Instr.stl 0 ∧ s.request 0 [3] = some r ∧
       r.body = Body.stl pa [(1 : Byte), (2 : Byte)]) ∧ s.lostAt pa = false ∧ s.moving pa = Moving.serve ∧ s.place pa ≠ Place.memory ∧
       s.agentStatus pa [(1 : Byte), (2 : Byte)].length ≠ (0 : Byte)) ∧
    (let s : State := W.queue (W.recv (W.unitOf 0) W.home 4 (.amo .add W.pa 4 3 0))
     let r : Recv := W.recv (W.unitOf (0 : CoreName)) W.home (4 : BitVec 10) (Body.amo AmoOp.add W.pa 4 (3 : Word) (0 : Word))
     s.MemoryWf ∧ s.request 0 [4] = some r ∧ r.body = Body.amo AmoOp.add W.pa 4 (3 : Word) (0 : Word) ∧ s.lostAt W.pa = false ∧ s.moving W.pa =
       Moving.serve ∧ (s.place W.pa = Place.memory → s.reclaim (W.pa / 128) (wordMask W.pa 4) (0 : W32) = none) ∧ (s.place W.pa ≠ Place.memory →
       s.agentStatus W.pa 4 = (0 : Byte)) ∧ s.place W.pa ≠ Place.window ∧ s.place W.pa ≠ Place.mailbox ∧ s.poisoned W.pa 4 = false) :=
  ⟨by decide +kernel, by decide +kernel, ⟨Or.inl ⟨rfl, by decide +kernel, _, rfl, by decide +kernel⟩, memoryWf_of _ (by decide +kernel), by
    decide +kernel⟩, ⟨Or.inr (by decide +kernel), by decide +kernel⟩, ⟨memoryWf_of _ (by decide +kernel), by decide +kernel⟩⟩

/-- States and operands that meet the hypotheses of Ownership. -/
theorem witness_ownership :
    (let s : State := W.queue (W.recv (W.unitOf 0) W.home 5 (.reg W.line 3 3))
     let r : Recv := W.recv (W.unitOf 0) W.home 5 (.reg W.line 3 3)
     s.request 0 [5] = some r ∧ r.body = Body.reg W.line (3 : W32) (3 : W32) ∧ (Instr.reg 0 = Instr.reg 0 ∨ Instr.reg 0 = Instr.regSetFree 0 ∧
       r.held = true) ∧ s.moving (128 * W.line) = Moving.serve ∧ s.lostAt (128 * W.line) = false ∧ (∀ e ∈ s.ownersOf W.line (3 : W32), e.owner =
       r.src) ∧ (∀ e ∈ s.homes.registry, e.owner = r.src → e.line = W.line → e.rev = false) ∧ (3 : W32) ≠ (0 : W32) ∧ s.registersBefore r W.line (3
       : W32) = false ∧ ((∃ e ∈ s.homes.registry, e.owner = r.src ∧ e.line = W.line) ∨ (s.setOf W.line).length < 8)) ∧
    (let s : State := W.stashed .O (W.queue (W.recv W.home (W.unitOf 0) 6 (.rev W.line 3 true 1 3)))
     let r : Recv := W.recv W.home (W.unitOf 0) 6 (.rev W.line 3 true 1 3)
     s.request 0 [6] = some r ∧ r.body = Body.rev W.line (3 : W32) true (1 : Byte) (3 : BitVec 16) ∧ s.revWaits r W.line (3 : W32) ((1 : Byte), (3
       : BitVec 16)) = false ∧ s.returning r W.line (3 : W32) = false) ∧
    (let o : Outst := W.asked 6 (W.unitOf 0) (.rev W.line 3 true 1 3) (.rev W.line 3 (W.unitOf 0)) (some (0, .wb W.line 3 [1,2]))
     let body : Body := Body.wb W.line 3 [1,2]
     let s : State := W.owned 0 (-1) (W.waiting [W.asked 6 (W.unitOf 0) (.rev W.line 3 true 1 3) (.rev W.line 3 (W.unitOf 0)) (some (0, .wb W.line
       3 [1,2]))] [] [])
     s.returned 0 [6] = some (o, (0 : Byte), body) ∧ o.purpose = Purpose.rev W.line (3 : W32) (W.unitOf (0 : CoreName)) ∧ (0 : Byte) = (0 : Byte) ∧
       (body = Body.none → ∀ x ∈ s.fab.rxq, x.held = false)) ∧
    (let s : State := W.owned 0 (-1) (W.queue (W.recv (W.unitOf 0) W.home 7 (.wb W.line 3 [7, 8])))
     let r : Recv := W.recv (W.unitOf 0) W.home 7 (.wb W.line 3 [7, 8])
     s.request 0 [7] = some r ∧ r.body = Body.wb W.line (3 : W32) [(7 : W32), (8 : W32)] ∧ s.moving (128 * W.line) = Moving.serve) ∧
    (let s : State := W.stashed .O (W.queue (W.recv W.home (W.unitOf 0) 8 (.fwd W.pa 8)))
     let r : Recv := W.recv W.home (W.unitOf 0) 8 (.fwd W.pa 8)
     let a : Nat := 20480
     s.request 0 [8] = some r ∧ r.body = Body.fwd W.pa 8 ∧ (∀ w ∈ wordsOf W.pa 8, s.owns (unitCore r.dst) w = true) ∧ s.stashAddr (unitCore r.dst)
       W.pa = some a) ∧
    (let s : State := W.stashed .P (W.queue (W.recv W.home (W.unitOf 0) 8 (.fwd W.pa 8)))
     let r : Recv := W.recv W.home (W.unitOf 0) 8 (.fwd W.pa 8)
     s.request 0 [8] = some r ∧ r.body = Body.fwd W.pa 8 ∧ (∃ w ∈ wordsOf W.pa 8, s.owns (unitCore r.dst) w = false)) :=
  ⟨by decide +kernel, by decide +kernel, by decide +kernel, by decide +kernel, by decide +kernel, by decide +kernel⟩

/-- States and operands that meet the hypotheses of Returns. -/
theorem witness_returns :
    (let s : State := W.waiting [W.asked 1 W.home (.ld W.pa 4 false) (.load 0 9 0) (some (0, .value [0xFFFFFFFF]))] [W.load9] []
     let o : Outst := W.asked (1 : BitVec 10) W.home (Body.ld W.pa 4 false) (Purpose.load (0 : CoreName) 9 0) (some ((0 : Byte), Body.value
       [(4294967295 : Word)]))
     s.returned 0 [1, 4] = some (o, (0 : Byte), Body.value [(4294967295 : Word)]) ∧ o.purpose = Purpose.load (0 : CoreName) 9 0 ∧ (List.find? (fun
       (x : LoadRec) => x.id == 9) (s.getCore (0 : CoreName)).mem.loads = some W.load9) ∧ W.load9.left = 1 ∧ W.load9.status = (0 : Byte) ∧
       W.load9.q = Seq.control ∧ (s.getCore (0 : CoreName)).pair = none ∧ s.suspended (0 : CoreName) = false) ∧
    (let s : State := W.waiting [W.asked 2 W.home (.st W.pa 4 7) (.store 0 9) (some (0, .none))] [] [W.store9]
     let o : Outst := W.asked (2 : BitVec 10) W.home (Body.st W.pa 4 (7 : Word)) (Purpose.store (0 : CoreName) 9) (some ((0 : Byte), Body.none))
     s.returned 0 [2, 3, 7] = some (o, (0 : Byte), ((0 : Byte), Body.none).2) ∧ o.purpose = Purpose.store (0 : CoreName) 9 ∧ (s.getCore (0 :
       CoreName)).mem.stores = [W.store9] ∧ W.store9.ids = [9] ∧ W.store9.status = (0 : Byte) ∧ W.store9.q = Seq.control ∧ s.suspended (0 :
       CoreName) = false) ∧
    (let s : State := W.stashed .P (W.waiting [W.asked 5 W.home (.reg W.line 3 3) (.reg 0 9 W.line 3) (some (0, .none))] [] [W.store9])
     let o : Outst := W.asked (5 : BitVec 10) W.home (Body.reg W.line (3 : W32) (3 : W32)) (Purpose.reg (0 : CoreName) 9 W.line (3 : W32)) (some
       ((0 : Byte), Body.none))
     s.returned 0 [5] = some (o, (0 : Byte), Body.none) ∧ o.purpose = Purpose.reg (0 : CoreName) 9 W.line (3 : W32) ∧ (∀ l ∈ (s.getCore (0 :
       CoreName)).mem.stores, l.status = (0 : Byte)) ∧ s.suspended (0 : CoreName) = false) ∧
    (let s : State := W.spilling
     let e : Spill := { id := 3, frame := 9007199254777856, bytes := [0x01#8, 0x02#8, 0x03#8, 0x04#8] }
     s.MemoryWf ∧ (s.getCore (0 : CoreName)).mem.spills[0]? = some e ∧ (∀ x ∈ List.take 0 (s.getCore (0 : CoreName)).mem.spills, x.frame ≠ e.frame)) :=
  ⟨by decide +kernel, by decide +kernel, by decide +kernel, ⟨memoryWf_of _ (by decide +kernel), by decide +kernel⟩⟩

/-- States and operands that meet the hypotheses of Flits. -/
theorem witness_flits :
    (let f : Flit := { W.flit .request 5 (.ld W.pa 4 false) (W.unitOf 0) W.home with ver := 2 }
     let s : State := W.arriving ({ W.flit .request 5 (.ld W.pa 4 false) (W.unitOf 0) W.home with ver := 2 }) []
     s.fab.flits[0]? = some f ∧ (f.sound = false ∨ f.ver ≠ (1 : BitVec 4)) ∧ s.arrived f = true ∧ f.kind ≠ Kind.hold) ∧
    (let f : Flit := W.flit .request 5 (.ld W.pa 4 false) (W.unitOf 0) W.home
     let s : State := W.arriving (W.flit .request 5 (.ld W.pa 4 false) (W.unitOf 0) W.home) []
     let c : DstChan := (⟨W.unitOf 0,W.home,1,5,[]⟩:DstChan)
     let pa : Nat := W.pa
     s.fab.flits[0]? = some f ∧ f.sound = true ∧ s.arrived f = true ∧ f.kind = Kind.request ∧ f.ver = (1 : BitVec 4) ∧ f.opening = false ∧
       s.entryOf f.src f.dst = some c ∧ f.epoch = c.epoch ∧ f.seq = c.expect ∧ s.queueRoom f.dst = true ∧ ((s.fab.rxq.any fun (x : Recv) => x.same
       f.recv) = false) ∧ f.ncont = (0 : BitVec 2) ∧ f.cls = (1 : BitVec 10) ∧ f.body = Body.ld pa 4 false) ∧
    (let f : Flit := W.flit .request 6 (.ld W.pa 4 false) (W.unitOf 0) W.home
     let s : State := W.arriving (W.flit .request 6 (.ld W.pa 4 false) (W.unitOf 0) W.home) []
     let c : DstChan := (⟨W.unitOf 0,W.home,1,5,[]⟩:DstChan)
     s.fab.flits[0]? = some f ∧ f.sound = true ∧ s.arrived f = true ∧ f.kind = Kind.request ∧ f.ver = (1 : BitVec 4) ∧ f.opening = false ∧
       s.entryOf f.src f.dst = some c ∧ f.epoch = c.epoch ∧ 0 < (f.seq - c.expect).toNat ∧ (f.seq - c.expect).toNat < 2 ^ 15) ∧
    (let f : Flit := W.flit .completion 4 (.value [3]) W.home (W.unitOf 0)
     let s : State := W.arriving (W.flit .completion 4 (.value [3]) W.home (W.unitOf 0)) [W.askedLoad]
     let o : Outst := W.askedLoad
     s.fab.flits[0]? = some f ∧ f.sound = true ∧ s.arrived f = true ∧ f.kind = Kind.completion ∧ f.ver = (1 : BitVec 4) ∧ f.body.lacksLine = false
       ∧ s.fab.outst = [o] ∧ o.matches f = true ∧ o.purpose = Purpose.load (0 : CoreName) 9 0 ∧ s.fab.outst[0]? = some o ∧ o.answer = none ∧
       o.noticed = false ∧ o.fence = false ∧ s.travels o = false) ∧
    (let f : Flit := W.flit .hold 4 (.none) W.home (W.unitOf 0)
     let s : State := W.arriving (W.flit .hold 4 (.none) W.home (W.unitOf 0)) [W.askedLoad]
     let o : Outst := W.askedLoad
     s.fab.flits[0]? = some f ∧ f.sound = true ∧ s.arrived f = true ∧ f.kind = Kind.hold ∧ s.fab.outst = [o] ∧ o.matches f = true) ∧
    (let s : State := W.queue (W.recv (W.unitOf 0) W.home 1 (.ld W.pa 4 false))
     let r : Recv := W.recv (W.unitOf 0) W.home 1 (.ld W.pa 4 false)
     s.fab.rxq[0]? = some r ∧ r.left = [] ∧ r.notified = false) :=
  ⟨⟨rfl, Or.inr (by decide +kernel), by decide +kernel⟩, ⟨rfl, flit_sound _ _ _ _ _, by decide +kernel⟩, ⟨rfl, flit_sound _ _ _ _ _, by
    decide +kernel⟩, ⟨rfl, flit_sound _ _ _ _ _, by decide +kernel⟩, ⟨rfl, flit_sound _ _ _ _ _, by decide +kernel⟩, by decide +kernel⟩

/-- States and operands that meet the hypotheses of ChannelsAndLinks. -/
theorem witness_channels_and_links :
    (let s : State :=
       ({ W.start with fab := { W.start.fab with srcCh := [⟨W.unitOf 0,W.home,1,5,true⟩], dstCh := [⟨W.unitOf 0,W.home,1,5,[]⟩] } }:State)
     let c' : SrcChan :=
       { src := { pkg := 0x000#10, die := 0x00#5, unit := 0x00#8, slice := false }, dst := { pkg := 0x000#10, die := 0x10#5, unit := 0x00#8, slice := false }, epoch := 0x01#8, next := 0x0005#16, opened := true }
     s.fab.srcCh[0]? = some c' ∧ s.onChannel c'.src c'.dst = 0) ∧
    (let s : State := W.arriving (W.flit .request 5 (.ld W.pa 4 false) (W.unitOf 0) W.home) []
     let c : DstChan := (⟨W.unitOf 0,W.home,1,5,[]⟩:DstChan)
     s.fab.dstCh[0]? = some c ∧ (∀ r ∈ s.fab.rxq, ¬(r.src = c.src ∧ r.dst = c.dst)) ∧ (∀ m ∈ s.allUnbound, ¬(m.src = c.src ∧ m.dst = c.dst)) ∧
       s.onChannel c.src c.dst = 0 ∧ (∀ x ∈ s.fab.srcCh, x.src = c.src → x.dst = c.dst → x.opened = false) ∧ 0 ∉ s.fab.failed ∧ 0 ∉ s.fab.dead ∧ (∀
       a ∈ s.fab.asides, ¬(a.port = (0 / 32768 : Nat) ∧ a.flow = 0 % 32768)) ∧ ((List.filter (fun (x : Aside) => x.port == (0 / 32768 : Nat))
       s.fab.asides).length < 32) ∧ bit (s.mapEntry 0) 31 = true ∧ mapSt (s.mapEntry 0) = (0 : BitVec 2)) ∧
    (let fs : List Flit := [W.flit .request 5 (.ld W.pa 4 false) (W.unitOf 0) W.home]
     let s : State :=
       ({ W.start with fab := { W.start.fab with asides := [⟨0, 0, [W.flit .request 5 (.ld W.pa 4 false) (W.unitOf 0) W.home]⟩] } }:State)
     s.fab.asides = [{ port := (0 / 32768 : Nat), flow := 0 % 32768, flits := fs }]) ∧
    (let s : State := W.fenced
     let o : Outst := W.askedLoad
     s.fab.outst = [o] ∧ o.answer = none ∧ o.purpose = Purpose.load (0 : CoreName) 9 0 ∧ o.dst.pkg = s.mgmt.domain.pkg ∧ mapSt (s.mapEntry
       o.dst.die.toNat) = (2 : BitVec 2)) :=
  ⟨by decide +kernel, by decide +kernel, rfl, by decide +kernel⟩

/-- States and operands that meet the hypotheses of Selection (part 1). -/
theorem witness_selection_1 :
    (let s : State := W.idle [W.slot] none
     let d : Slot := W.slot
     s.selects (0 : CoreName) = true ∧ (s.gov (dieOf (0 : CoreName))).head = none ∧ s.choose (0 : CoreName) = some (Choice.record 0) ∧ (s.getCore
       (0 : CoreName)).sched.deque[0]? = some d ∧ s.recOk d.ctx d.record = true ∧ recIsTeam d.record = false) ∧
    (let s : State := W.idleQueue [] (W.recv (W.unitOf 1) (W.unitOf 0) 13 (.steal 1 1))
     let r : Recv := W.recv (W.unitOf 1) (W.unitOf 0) 13 (.steal 1 1)
     s.request 0 [13] = some r ∧ r.body = Body.steal (1 : CoreName) (1 : BitVec 6) ∧ s.stealable (unitCore r.dst) (1 : BitVec 6) = none) ∧
    (let s : State := W.idleQueue [W.slot] (W.recv (W.unitOf 1) (W.unitOf 0) 13 (.steal 1 1))
     let d : Slot := W.slot
     let r : Recv := W.recv (W.unitOf 1) (W.unitOf 0) 13 (.steal 1 1)
     s.request 0 [13] = some r ∧ r.body = Body.steal (1 : CoreName) (1 : BitVec 6) ∧ s.stealable (unitCore r.dst) (1 : BitVec 6) = some 0 ∧
       (s.getCore (unitCore r.dst)).sched.deque[0]? = some d) ∧
    (let d : Slot := { W.slot with ctx := 7 }
     let o : Outst := W.asked 13 (W.unitOf 1) (.steal 0 1) (.steal 0) (some (0, .stolen { W.slot with ctx := 7 } 0))
     let s : State := W.idleWaiting (W.asked 13 (W.unitOf 1) (.steal 0 1) (.steal 0) (some (0, .stolen { W.slot with ctx := 7 } 0)))
     let st : Byte := 0x00#8
     s.returned 0 [13] = some (o, st, Body.stolen d 0) ∧ o.purpose = Purpose.steal (0 : CoreName) ∧ recForm d.record = true ∧ s.chamber d.ctx
       (recCid d.record) = none) ∧
    (let o : Outst := W.asked 13 (W.unitOf 1) (.steal 0 1) (.steal 0) (some (0, .stolen W.slot 0))
     let h : Chamber := W.root
     let s : State :=
       ({ W.idleWaiting (W.asked 13 (W.unitOf 1) (.steal 0 1) (.steal 0) (some (0, .stolen W.slot 0))) with core := { (W.idleWaiting (W.asked 13 (W.unitOf 1) (.steal 0 1) (.steal 0) (some (0, .stolen W.slot 0)))).core with sched := { (W.idleWaiting (W.asked 13 (W.unitOf 1) (.steal 0 1) (.steal 0) (some (0, .stolen W.slot 0)))).core.sched with reserved := some (.gang 3) } } }:State)
     let d : Slot := W.slot
     let st : Byte := 0x00#8
     s.returned 0 [13] = some (o, st, Body.stolen d 0) ∧ o.purpose = Purpose.steal (0 : CoreName) ∧ recForm d.record = true ∧ s.chamber d.ctx
       (recCid d.record) = some h ∧ h.reex = 0 ∧ (h.cst = 1 ∨ h.cst = 2) ∧ s.selects (0 : CoreName) = false) ∧
    (let o : Outst := W.asked 13 (W.unitOf 1) (.steal 0 1) (.steal 0) (some (0, .stolen W.slot 0))
     let h : Chamber := W.root
     let s : State := W.idleWaiting (W.asked 13 (W.unitOf 1) (.steal 0 1) (.steal 0) (some (0, .stolen W.slot 0)))
     let d : Slot := W.slot
     let st : Byte := 0x00#8
     s.returned 0 [13] = some (o, st, Body.stolen d 0) ∧ o.purpose = Purpose.steal (0 : CoreName) ∧ recForm d.record = true ∧ s.chamber d.ctx
       (recCid d.record) = some h ∧ h.reex = 0 ∧ (h.cst = 1 ∨ h.cst = 2) ∧ s.selects (0 : CoreName) = true ∧ s.slotStartable (0 : CoreName) d =
       true ∧ recIsTeam d.record = false) :=
  ⟨by decide +kernel, by decide +kernel, by decide +kernel, by decide +kernel, by decide +kernel, by decide +kernel⟩

/-- States and operands that meet the hypotheses of Selection (part 2). -/
theorem witness_selection_2 :
    (let s : State := W.busyPaused
     (Option.any (fun (x : Steal) => x.paused) (s.getCore (0 : CoreName)).sched.steal = true) ∧ isWorker (0 : CoreName) = true ∧ (s.getCore (0 :
       CoreName)).sched.deque.length < 256) :=
  by decide +kernel

/-- States and operands that meet the hypotheses of Launches (part 1). -/
theorem witness_launches_1 :
    (let s : State := W.launchable id none
     s.serving = true ∧ (4 ≠ 8 ∨ s.mgmt.win.busy.isSome = true) ∧ s.mgmt.win.busy = none ∧ s.mgmt.win.waiting = []) ∧
    (let s : State := W.launchable id (some (.own, 7, []))
     s.mgmt.win.busy = some (LaunchWindow.own, (7 : Word), []) ∧ BitVec.toNat (7 : Word) % 256 ≠ 0) ∧
    (let s : State := W.launchable id (some (.own, 0xFFFFFFFFFFFF0000, []))
     s.mgmt.win.busy = some (LaunchWindow.own, (18446744073709486080 : Word), []) ∧ BitVec.toNat (18446744073709486080 : Word) % 256 = 0 ∧
       s.launchBytes (BitVec.toNat (18446744073709486080 : Word)) 256 = none) ∧
    (let lrec : BitVec 64 := (BitVec.ofNat 64 (W.hbm + 0x2100):Word)
     let s : State := W.launchable id (some (.own, BitVec.ofNat 64 (W.hbm + 0x2100), []))
     let bs : List Byte := (W.launchable id (some (LaunchWindow.own, BitVec.ofNat 64 (W.hbm + 8448), []))).currents (BitVec.ofNat 64 (W.hbm +
       8448)).toNat 256
     s.mgmt.win.busy = some (LaunchWindow.own, lrec, []) ∧ lrec.toNat % 256 = 0 ∧ s.launchBytes lrec.toNat 256 = some bs ∧ s.launchStatus
       LaunchWindow.own 0 bs ≠ 0) ∧
    (let s : State := W.launchable id (some (.own, BitVec.ofNat 64 (W.hbm + 0x2000), []))
     let lrec : BitVec 64 := (BitVec.ofNat 64 (W.hbm + 0x2000):Word)
     let bs : List Byte := (W.launchable id (some (LaunchWindow.own, BitVec.ofNat 64 (W.hbm + 8192), []))).currents (BitVec.ofNat 64 (W.hbm +
       8192)).toNat 256
     s.launchStatus LaunchWindow.own 0 bs = 0 ∧ s.mgmt.win.busy = some (LaunchWindow.own, lrec, []) ∧ lrec.toNat % 256 = 0 ∧ s.launchBytes
       lrec.toNat 256 = some bs) ∧
    (let s : State := W.endedCtx
     let c : Context :=
       { ctx := 0x0001#16, lrec := 9007199254806528, lpm := 0, lmode := 0, lcnt := 1, recs := 9007199254807040, ldpl := 0, feat := 0x00000000000000000000000000000001#128, ckpt := 0, part := 0, lost := false, nextCid := 0x00000002#32, chambers := [{ cid := 0x00000001#32, rcb := 9007199254806528, parent := 0x00000000#32, head := 0x0000000000000000#64, msave := 0x0000000000100000#64, basin := 0x0000000000000000#64, power := 200, cores := 64, retry := 0, bound := false, prio := 5, ovr := 0x0000#16, feat := 0x00000000000000000000000000000000#128, frep := 0x0000000000000000#64, cst := 1, live := 0, cuse := 0, reex := 0, buse := 0, muse := 0, nest := { gen := 0x00000000#32, act := false, ext := 0x0000000000000000#64, total := 0, next := 0 }, own := 0, decl := 0, weights := 0, waiting := [] }] }
     s.findCtx (1 : BitVec 16) = some c ∧ s.ended c = true) :=
  ⟨by decide +kernel, by decide +kernel, by decide +kernel, by decide +kernel, ⟨(by rw [State.launchStatus, rcbCrc_eq]; decide +kernel), by
    decide +kernel⟩, by decide +kernel⟩

/-- States and operands that meet the hypotheses of Launches (part 2). -/
theorem witness_launches_2 :
    (let s : State := W.start
     s.MemoryWf ∧ s.findCtx (1 : BitVec 16) = some W.ctxA ∧ s.ended W.ctxA = false ∧ 8 % 8 = 0) ∧
    (let s : State := W.ending 3
     let e : CtxEnd := { lrec := 9007199254740992, ctx := 0x0003#16, how := 0x00#8, reex := 0, own := 0, part := 0 }
     s.mgmt.win.waiting = [e] ∧ BitVec.toNat (s.mgmt.win.tail - (0 : Word)) < 31) ∧
    (let s : State := W.ending 40
     let e : CtxEnd := { lrec := 9007199254740992, ctx := 0x0003#16, how := 0x00#8, reex := 0, own := 0, part := 0 }
     let l : List CtxEnd := []
     s.mgmt.win.waiting = e :: l ∧ 31 ≤ BitVec.toNat (s.mgmt.win.tail - (0 : Word))) ∧
    ((8 < 65536 ∨ 196608 ≤ 8)) :=
  ⟨⟨memoryWf_of _ (by decide +kernel), by decide +kernel⟩, by decide +kernel, by decide +kernel, by decide +kernel⟩

/-- States and operands that meet the hypotheses of CoreEvents. -/
theorem witness_core_events :
    (let s : State := W.ctl0 fun c => { c with stalls := [(.control, .counter)] }
     let k : Machine.Task := W.taskA
     let d : Due := { preempt := false, brk := false, brkFirst := false, preemptForced := false, brkForced := false, command := false }
     (((s.getCore (0 : CoreName)).ctl.stalls.any fun (x : Sys2Proof.Seq × Stall) => x.1 == Seq.control) = true) ∧ (s.getCore (0 :
       CoreName)).ctl.run = RunState.task ∧ (s.getCore (0 : CoreName)).ctl.task = some k ∧ k.team = none ∧ d.brk = false) ∧
    (let k : Machine.Task := { W.taskA with pend := [(0x14, 0x99), (0x15, 5)], errs := [(10, 5, none)] }
     let s : State := W.task0 fun t => { t with pend := [(0x14, 0x99), (0x15, 5)], errs := [(10, 5, none)] }
     let l : List (Word × Word) := [(0x0000000000000015#64, 0x0000000000000005#64)]
     s.NoAlloc (0 : CoreName) ∧ (s.getCore (0 : CoreName)).ctl.task = some k ∧ k.pend = ((20 : Word), (153 : Word)) :: l ∧ (s.getCore (0 :
       CoreName)).ctl.run = RunState.task ∧ (s.getCore (0 : CoreName)).ctl.stopped = false ∧ bit (s.getCore (0 : CoreName)).thr.kstatus 6 = false ∧
       (s.getCore (0 : CoreName)).thr.kvec ≠ (0 : Word) ∧ (s.getCore (0 : CoreName)).inFlight Seq.control = false ∧ k.errs ≠ []) ∧
    (let k : Machine.Task := { W.taskA with pend := [(0x14, 0x99), (0x15, 5)] }
     let s : State := W.task0 fun t => { t with pend := [(0x14, 0x99), (0x15, 5)] }
     let l : List (Word × Word) := [(0x0000000000000015#64, 0x0000000000000005#64)]
     s.NoAlloc (0 : CoreName) ∧ (s.getCore (0 : CoreName)).ctl.task = some k ∧ k.pend = ((20 : Word), (153 : Word)) :: l ∧ (s.getCore (0 :
       CoreName)).ctl.run = RunState.task ∧ (s.getCore (0 : CoreName)).ctl.stopped = false ∧ bit (s.getCore (0 : CoreName)).thr.kstatus 6 = false ∧
       (s.getCore (0 : CoreName)).thr.kvec ≠ (0 : Word) ∧ (s.getCore (0 : CoreName)).inFlight Seq.control = false ∧ k.errs = []) ∧
    (let s : State := W.preempting
     let k : Machine.Task := W.taskA
     s.NoAlloc (0 : CoreName) ∧ s.mayPreempt (0 : CoreName) = true ∧ (s.getCore (0 : CoreName)).ctl.task = some k ∧ k.team = none ∧ (s.getCore (0 :
       CoreName)).pair = none ∧ (s.getCore (0 : CoreName)).inFlight Seq.control = false ∧ (s.getCore (0 : CoreName)).inFlight Seq.matrix = false ∧
       (s.getCore (0 : CoreName)).quiet = true ∧ (s.getCore (0 : CoreName)).matrixBusy = false) ∧
    (let s : State := W.preemptingBusy
     let k : Machine.Task := W.taskA
     s.NoAlloc (0 : CoreName) ∧ s.mayPreempt (0 : CoreName) = true ∧ (s.getCore (0 : CoreName)).ctl.task = some k ∧ k.team = none ∧ (s.getCore (0 :
       CoreName)).pair = none ∧ (s.getCore (0 : CoreName)).inFlight Seq.control = false ∧ (s.getCore (0 : CoreName)).inFlight Seq.matrix = false ∧
       ((s.getCore (0 : CoreName)).quiet = false ∨ (s.getCore (0 : CoreName)).matrixBusy = true)) ∧
    (let s : State := W.breaking
     let k : Machine.Task := W.taskA
     let d : Due := { preempt := false, brk := true, brkFirst := false, preemptForced := false, brkForced := false, command := false }
     s.NoAlloc (0 : CoreName) ∧ (s.getCore (0 : CoreName)).ctl.run = RunState.task ∧ (s.getCore (0 : CoreName)).ctl.task = some k ∧ k.team = none ∧
       d.brk = true ∧ s.mayBreak (0 : CoreName) = true ∧ (Option.any (fun (x : Partition) => x.held) ((s.partOf (dieOf (0 : CoreName))).bind
       s.part) = false) ∧ bit (s.getCore (0 : CoreName)).thr.kstatus 6 = false ∧ (s.getCore (0 : CoreName)).thr.kvec ≠ (0 : Word)) :=
  ⟨by decide +kernel, ⟨noAlloc_of _ _ (by decide +kernel), by decide +kernel⟩, ⟨noAlloc_of _ _ (by decide +kernel), by decide +kernel⟩, ⟨noAlloc_of
    _ _ (by decide +kernel), by decide +kernel⟩, ⟨noAlloc_of _ _ (by decide +kernel), by decide +kernel⟩, ⟨noAlloc_of _ _ (by decide +kernel), by
    decide +kernel⟩⟩

/-- States and operands that meet the hypotheses of StopsAndRollback. -/
theorem witness_stops_and_rollback :
    (let s : State := W.oneDie id W.launched20
     let q : Partition :=
       { dies := [0], remote := [], share := 0, charged := 0, held := false, halted := [], bseq := 0, stopped := false, bound := false, table := 1048576 }
     let settles : Prop := ∀ c ∈ s.knownCores, q.dies.contains (dieOf c) = true → (s.getCore c).settled = true
     (∀ c ∈ s.partCores 0, (s.getCore c).Calm) ∧ settles ∧ s.part 0 = some q ∧ q.stopped = false ∧ q.dies.Nodup ∧ (∃ c ∈ s.work.ctxs, c.part = 0 ∧
       c.ckpt ≠ 0) ∧ s.mgmt.recov = []) ∧
    (let s : State := W.oneDie (fun q => { q with stopped := true }) W.launched20
     let q : Partition :=
       { dies := [0], remote := [], share := 0, charged := 0, held := false, halted := [], bseq := 0, stopped := true, bound := false, table := 1048576 }
     s.part 0 = some q ∧ q.stopped = true ∧ q.bound = false) ∧
    (let s : State := W.oneDie id { W.preemptingBusy with work := W.launched20.work }
     let q : Partition :=
       { dies := [0], remote := [], share := 0, charged := 0, held := false, halted := [], bseq := 0, stopped := false, bound := false, table := 1048576 }
     let settles : Prop := ∀ c ∈ s.knownCores, q.dies.contains (dieOf c) = true → (s.getCore c).settled = true
     (∀ c ∈ s.partCores 0, (s.getCore c).Calm) ∧ (¬settles) ∧ s.part 0 = some q ∧ (∃ c ∈ s.work.ctxs, c.part = 0 ∧ c.ckpt ≠ 0) ∧ s.mgmt.recov = []
       ∧ q.stopped = false) ∧
    (let s : State := W.oneDie (fun q => { q with dies := [0, 17] }) W.launched20
     let q : Partition :=
       { dies := [0, 17], remote := [], share := 0, charged := 0, held := false, halted := [], bseq := 0, stopped := false, bound := false, table := 1048576 }
     let settles : Prop := ∀ c ∈ s.knownCores, q.dies.contains (dieOf c) = true → (s.getCore c).settled = true
     (∀ c ∈ s.partCores 0, (s.getCore c).Calm) ∧ settles ∧ s.part 0 = some q ∧ (∃ c ∈ s.work.ctxs, c.part = 0 ∧ c.ckpt ≠ 0) ∧ s.mgmt.recov = [] ∧
       q.stopped = false ∧ s.partsOf 17 = [0]) ∧
    (let s : State := W.bounded
     let q : Partition :=
       { dies := [0], remote := [], share := 0, charged := 0, held := false, halted := [], bseq := 0, stopped := false, bound := false, table := 1048576 }
     let d : Rec := W.diagnosis 9 4 0
     let b : Boundary :=
       { part := 0, cores := [((0 : CoreName), W.core0)], sram := [], basins := [], extents := [], services := [], migrations := [], ctxs := W.launched20.work.ctxs, work := ([], [], []), heads := [], govs := [], fab := Fabric.reset, received := 0 }
     s.part 0 = some q ∧ s.mgmt.recov = [] ∧ s.rungFour 0 = some d ∧ (List.find? (fun (x : Boundary) => x.part == 0) s.mgmt.bounds = some b) ∧ (∀ c
       ∈ s.work.ctxs, c.part = 0 → ∃ (x : Context), List.find? (fun (x : Context) => x.ctx == c.ctx) b.ctxs = some x ∧ x.ckpt ≠ 0)) :=
  ⟨⟨all_calm_of _ _ (by decide +kernel), ball_of (by decide +kernel), by decide +kernel⟩, by decide +kernel, ⟨all_calm_of _ _ (by decide +kernel),
    not_ball_of (by decide +kernel), by decide +kernel⟩, ⟨all_calm_of _ _ (by decide +kernel), ball_of (by decide +kernel), by decide +kernel⟩, by
    decide +kernel⟩

/-- States and operands that meet the hypotheses of MailboxRequests (part 1). -/
theorem witness_mailbox_requests_1 :
    (let s : State := W.asking (W.start) (W.request 9 [])
     let e : List Byte := W.request 9 []
     let line : Nat := ((W.start.mailbox 0 + 0x1040) / 64 : Nat)
     s.serves 0 = true ∧ s.requestIn 0 = some (e, line) ∧ reqForm e = false) ∧
    (let s : State := W.asking (W.start.modMgmt fun m => { m with writers := [((W.start.mailbox 0 + 0x1040) / 64, 1)] }) (W.request 8 [3, 300])
     let e : List Byte := W.request 8 [3, 300]
     let line : Nat := ((W.start.mailbox 0 + 0x1040) / 64 : Nat)
     s.serves 0 = true ∧ s.requestIn 0 = some (e, line) ∧ reqForm e = true ∧ (s.requester line).permits e = false ∧ (Instr.setBudgetRequest 0,
       field e 0 1) ∈ [(Instr.installRegion 0, 1), (Instr.removeRegion 0, 2), (Instr.setCheckpointInterval 0, 3), (Instr.holdPartition 0, 4),
       (Instr.releasePartition 0, 5), (if reqArg e 1 = (0 : Word) then Instr.haltDie 0 else Instr.resumeDie 0, 6), (Instr.restartCore 0, 7),
       (Instr.setBudgetRequest 0, 8), (Instr.attestation 0, 10)]) ∧
    (let s : State := W.asking (W.start) (W.request 1 [W.hbm + 0x8000])
     let e : List Byte := W.request 1 [W.hbm + 0x8000]
     let d : List Byte := s.currents (BitVec.toNat (reqArg e 0)) 64
     let bases : List Nat := List.map (fun (k : Nat) => field d (8 * k) 8) (List.range 6)
     let standing : Bool := bit (reqArg e 1) 0
     s.Requests 0 1 e ∧ s.place (BitVec.toNat (reqArg e 0)) ≠ Place.hole ∧ (List.find? (fun (i : Nat) => s.stripes.all fun (r : Region) => r.rid !=
       i) (List.range 64) = some 0) ∧ s.regionRefused bases (field d 48 8) standing = true) ∧
    (let s : State := W.asking (W.described) (W.request 1 [W.hbm + 0x8000])
     let e : List Byte := W.request 1 [W.hbm + 0x8000]
     let d : List Byte := s.currents (BitVec.toNat (reqArg e 0)) 64
     let bases : List Nat := List.map (fun (k : Nat) => field d (8 * k) 8) (List.range 6)
     let standing : Bool := bit (reqArg e 1) 0
     s.Requests 0 1 e ∧ s.place (BitVec.toNat (reqArg e 0)) ≠ Place.hole ∧ (List.find? (fun (i : Nat) => s.stripes.all fun (r : Region) => r.rid !=
       i) (List.range 64) = some 0) ∧ s.regionRefused bases (field d 48 8) standing = false) ∧
    (let s : State := W.asking ({ W.start with stripes := [W.region] }) (W.request 2 [0])
     let e : List Byte := W.request 2 [0]
     let r : Region := W.region
     s.Requests 0 2 e ∧ s.region (BitVec.toNat (reqArg e 0)) = some r ∧ reqCtx e = r.ctx) ∧
    (let s : State := W.asking (W.start) (W.request 3 [50])
     let e : List Byte := W.request 3 [50]
     let c : Context := W.ctxA
     s.Requests 0 3 e ∧ s.findCtx (reqCtx e) = some c) :=
  ⟨by decide +kernel, by decide +kernel, ⟨requests_of _ _ _ _ ((W.start.mailbox 0 + 0x1040) / 64) (by decide +kernel), by decide +kernel⟩,
    ⟨requests_of _ _ _ _ ((W.start.mailbox 0 + 0x1040) / 64) (by decide +kernel), by decide +kernel⟩, ⟨requests_of _ _ _ _ ((W.start.mailbox 0 +
    0x1040) / 64) (by decide +kernel), by decide +kernel⟩, ⟨requests_of _ _ _ _ ((W.start.mailbox 0 + 0x1040) / 64) (by decide +kernel), by
    decide +kernel⟩⟩

/-- States and operands that meet the hypotheses of MailboxRequests (part 2). -/
theorem witness_mailbox_requests_2 :
    (let s : State := W.asking (W.start) (W.request 4 [0])
     let e : List Byte := W.request 4 [0]
     s.Requests 0 4 e ∧ s.partOf (BitVec.toNat (reqArg e 0)) = some 0) ∧
    (let s : State := W.asking (W.heldDie [0]) (W.request 5 [0])
     let e : List Byte := W.request 5 [0]
     s.Requests 0 5 e ∧ s.partOf (BitVec.toNat (reqArg e 0)) = some 0 ∧ (Option.any (fun (x : Partition) => x.held) (s.part 0) = true)) ∧
    (let s : State := W.asking (W.heldDie []) (W.request 6 [0, 0])
     let e : List Byte := W.request 6 [0, 0]
     s.Requests 0 6 e ∧ (∀ c ∈ s.knownCores, (s.getCore c).Calm) ∧ s.heldPart (BitVec.toNat (reqArg e 0)) = some 0 ∧ reqArg e 1 = (0 : Word) ∧
       (Option.any (fun (x : Partition) => x.halted.contains (BitVec.toNat (reqArg e 0))) (s.part 0) = false)) ∧
    (let s : State := W.asking (W.heldDie [0]) (W.request 6 [0, 1])
     let e : List Byte := W.request 6 [0, 1]
     s.Requests 0 6 e ∧ s.heldPart (BitVec.toNat (reqArg e 0)) = some 0 ∧ reqArg e 1 = (1 : Word) ∧ (Option.any (fun (x : Partition) =>
       x.halted.contains (BitVec.toNat (reqArg e 0))) (s.part 0) = true)) ∧
    (let s : State := W.asking (W.ctl0 fun c => { c with run := .halted }) (W.request 7 [0])
     let e : List Byte := W.request 7 [0]
     s.Requests 0 7 e ∧ reqArg e 0 = BitVec.setWidth 64 (0 : CoreName) ∧ isCore (0 : CoreName) = true ∧ (s.getCore (0 : CoreName)).ctl.run =
       RunState.halted) ∧
    (let s : State := W.asking (W.start) (W.request 8 [3, 300])
     let e : List Byte := W.request 8 [3, 300]
     s.Requests 0 8 e) :=
  ⟨⟨requests_of _ _ _ _ ((W.start.mailbox 0 + 0x1040) / 64) (by decide +kernel), by decide +kernel⟩, ⟨requests_of _ _ _ _ ((W.start.mailbox 0 +
    0x1040) / 64) (by decide +kernel), by decide +kernel⟩, ⟨requests_of _ _ _ _ ((W.start.mailbox 0 + 0x1040) / 64) (by decide +kernel),
    all_calm_of _ _ (by decide +kernel), by decide +kernel⟩, ⟨requests_of _ _ _ _ ((W.start.mailbox 0 + 0x1040) / 64) (by decide +kernel), by
    decide +kernel⟩, ⟨requests_of _ _ _ _ ((W.start.mailbox 0 + 0x1040) / 64) (by decide +kernel), by decide +kernel⟩, requests_of _ _ _ _
    ((W.start.mailbox 0 + 0x1040) / 64) (by decide +kernel)⟩

/-- States and operands that meet the hypotheses of MailboxRequests (part 3). -/
theorem witness_mailbox_requests_3 :
    (let s : State := W.asking (W.start) (W.request 10 [1, 2, 3, 4, W.hbm + 0x8000])
     let e : List Byte := W.request 10 [1, 2, 3, 4, W.hbm + 0x8000]
     s.Requests 0 10 e ∧ (∀ a ∈ [BitVec.toNat (reqArg e 4), BitVec.toNat (reqArg e 4) + 16383], s.place a = Place.memory ∨ s.place a =
       Place.persist ∨ ∃ (c : CoreName), s.place a = Place.sram c)) :=
  ⟨requests_of _ _ _ _ ((W.start.mailbox 0 + 0x1040) / 64) (by decide +kernel), by decide +kernel⟩

/-- States and operands that meet the hypotheses of ImmediateForms. -/
theorem witness_immediate_forms :
    (let s : State := W.start
     AluOp.add.amountOk Width.d64 (5 : BitVec 12) ∧ s.Accepts Form.base ∧ s.Free [(5 : Reg), (6 : Reg)] ∧ (¬AluOp.shl.amountOk Width.w32 (32 :
       BitVec 12)) ∧ AluOp.add.immediate Width.d64 (5 : Reg) (6 : Reg) (5 : BitVec 12) = some (Instr.addImmD (5 : Reg) (6 : Reg) (5 : BitVec 12)) ∧
       AluOp.shl.immediate Width.w32 (5 : Reg) (6 : Reg) (32 : BitVec 12) = some (Instr.shlImmW (5 : Reg) (6 : Reg) (32 : BitVec 12))) :=
  ⟨(by unfold AluOp.amountOk; decide), (accepts_iff _ _).1 (by decide +kernel), free_of _ _ (by decide +kernel),
    (by unfold AluOp.amountOk; decide), by decide +kernel⟩

/-- States and operands that meet the hypotheses of RegisterForms. -/
theorem witness_register_forms :
    (let s : State := W.start
     s.Accepts Form.base ∧ s.Free [(5 : Reg), (6 : Reg), (7 : Reg)]) ∧
    (let s : State := (W.start.setG 7 0)
     s.Accepts Form.base ∧ s.Free [(5 : Reg), (6 : Reg), (7 : Reg)] ∧ s.g (7 : Reg) = (0 : Word)) ∧
    (let s : State := ((W.start.setG 6 (BitVec.intMin 64)).setG 7 (BitVec.allOnes 64))
     s.Accepts Form.base ∧ s.Free [(5 : Reg), (6 : Reg), (7 : Reg)] ∧ s.g (6 : Reg) = BitVec.intMin 64 ∧ s.g (7 : Reg) = BitVec.allOnes 64) :=
  ⟨⟨(accepts_iff _ _).1 (by decide +kernel), free_of _ _ (by decide +kernel)⟩, ⟨(accepts_iff _ _).1 (by decide +kernel), free_of _ _ (by
    decide +kernel), by decide +kernel⟩, ⟨(accepts_iff _ _).1 (by decide +kernel), free_of _ _ (by decide +kernel), by decide +kernel⟩⟩

/-- States and operands that meet the hypotheses of AddressAndShortForms. -/
theorem witness_address_and_short_forms :
    (let s : State := W.start
     s.Accepts Form.base ∧ s.Free [(5 : Reg), (6 : Reg)] ∧ s.Accepts Form.short) :=
  ⟨(accepts_iff _ _).1 (by decide +kernel), free_of _ _ (by decide +kernel), (accepts_iff _ _).1 (by decide +kernel)⟩

/-- States and operands that meet the hypotheses of BranchesAndJumps. -/
theorem witness_branches_and_jumps :
    (let s : State := W.start
     s.Free [(6 : Reg), (7 : Reg)] ∧ s.Accepts Form.base ∧ s.Accepts Form.short ∧ s.Free [(5 : Reg), (6 : Reg)]) :=
  ⟨free_of _ _ (by decide +kernel), (accepts_iff _ _).1 (by decide +kernel), (accepts_iff _ _).1 (by decide +kernel), free_of _ _ (by
    decide +kernel)⟩

/-- States and operands that meet the hypotheses of ControlRegisters. -/
theorem witness_control_registers :
    (let s : State := W.start
     let x : BitVec 64 := 0x0000000000000000#64
     s.Accepts Form.shared ∧ s.Free [(5 : Reg)] ∧ s.Free [(6 : Reg)] ∧ s.controlReg (64 : BitVec 8) = some x ∧ s.controlReg (255 : BitVec 8) = none
       ∧ s.seq = Seq.control ∧ s.pm ≠ (2 : BitVec 2) ∧ BitVec.ofNat 8 8 ∈ [BitVec.ofNat 8 8, BitVec.ofNat 8 9, BitVec.ofNat 8 10]) ∧
    (let s : State := (W.start.modThr fun r => { r with kstatus := 0 })
     s.Accepts Form.shared ∧ s.Free [(6 : Reg)] ∧ s.seq = Seq.control ∧ s.pm = (0 : BitVec 2) ∧ s.core.ms.opened = false ∧ (12 : BitVec 8) ∈
       [BitVec.ofNat 8 12, BitVec.ofNat 8 13]) :=
  ⟨⟨(accepts_iff _ _).1 (by decide +kernel), free_of _ _ (by decide +kernel), free_of _ _ (by decide +kernel), by decide +kernel⟩, ⟨(accepts_iff _
    _).1 (by decide +kernel), free_of _ _ (by decide +kernel), by decide +kernel⟩⟩

/-- States and operands that meet the hypotheses of TrapsAndReturns. -/
theorem witness_traps_and_returns :
    (let s : State := W.start
     s.HasHandler ∧ s.Accepts Form.shared ∧ s.Accepts { Form.shared with len := 2 } ∧ (s.seq = Seq.control ∨ s.seq = Seq.routine) ∧ (Option.any
       (fun (x : Partition) => x.held) ((s.partOf (dieOf s.cur)).bind s.part) = false)) :=
  ⟨hasHandler_of _ (by decide +kernel), (accepts_iff _ _).1 (by decide +kernel), (accepts_iff _ _).1 (by decide +kernel), by decide +kernel⟩

/-- States and operands that meet the hypotheses of WaitsAndJoins. -/
theorem witness_waits_and_joins :
    (let s : State := W.start
     s.Accepts Form.base ∧ s.Accepts Form.shared ∧ s.Accepts { Form.base with inRoutine := false } ∧ s.Accepts
       { Form.short with inRoutine := false } ∧ ((0 : BitVec 3) = (7 : BitVec 3) ∨ s.counters.ocl ≤ BitVec.toNat (0 : BitVec 3)) ∧ ((7 : BitVec 3)
       = (7 : BitVec 3) ∨ s.counters.ocs ≤ BitVec.toNat (7 : BitVec 3)) ∧ s.seq = Seq.control ∧ s.tt = false ∧ s.core.vs.opened = false ∧
       s.core.ms.opened = false ∧ ((0 : BitVec 3) ≠ (7 : BitVec 3) ∨ (7 : BitVec 3) ≠ (7 : BitVec 3)) ∧ ((0 : BitVec 3) = (7 : BitVec 3) ∨
       s.counters.occ ≤ BitVec.toNat (0 : BitVec 3)) ∧ ((7 : BitVec 3) = (7 : BitVec 3) ∨ s.counters.ocx ≤ BitVec.toNat (7 : BitVec 3))) ∧
    (let s : State := { W.start with seq := .vector, core := { W.start.core with vs := { W.start.core.vs with opened := true } } }
     s.Accepts { Form.base with inRoutine := false } ∧ s.seq = Seq.vector ∧ s.released = true) ∧
    (let s : State := { W.start with seq := .matrix, core := { W.start.core with ms := { W.start.core.ms with opened := true } } }
     s.Accepts { Form.base with inRoutine := false } ∧ s.seq = Seq.matrix ∧ s.released = true) :=
  ⟨⟨(accepts_iff _ _).1 (by decide +kernel), (accepts_iff _ _).1 (by decide +kernel), (accepts_iff _ _).1 (by decide +kernel), (accepts_iff _ _).1
    (by decide +kernel), by decide +kernel⟩, ⟨(accepts_iff _ _).1 (by decide +kernel), by decide +kernel⟩, ⟨(accepts_iff _ _).1 (by
    decide +kernel), by decide +kernel⟩⟩

/-- States and operands that meet the hypotheses of StreamsAndPrefixes. -/
theorem witness_streams_and_prefixes :
    (let s : State := ((W.start.setG 6 (0x40#64 ||| (8#64 <<< 48))).setG 7 0)
     s.Accepts { Form.control with inPair := false } ∧ s.Free [(6 : Reg), (7 : Reg)] ∧ s.Accepts { Form.base with inRoutine := false } ∧ s.seq =
       Seq.control ∧ s.tt = false ∧ s.released = true ∧ badDescriptor (s.g (6 : Reg)) s.core.vs.opened = false ∧ badDescriptor (s.g (7 : Reg))
       s.core.ms.opened = false ∧ (∀ h ∈ s.core.ctl.holds, h.q = Seq.control → h.ready = true)) ∧
    (let s : State := ((W.start.setG 6 (0x40#64)).setG 7 0)
     s.Accepts { Form.control with inPair := false } ∧ s.Free [(6 : Reg), (7 : Reg)] ∧ s.seq = Seq.control ∧ (s.tt = true ∨ badDescriptor (s.g (6 :
       Reg)) s.core.vs.opened = true ∨ badDescriptor (s.g (7 : Reg)) s.core.ms.opened = true)) :=
  ⟨⟨(accepts_iff _ _).1 (by decide +kernel), free_of _ _ (by decide +kernel), (accepts_iff _ _).1 (by decide +kernel), by decide +kernel⟩,
    ⟨(accepts_iff _ _).1 (by decide +kernel), free_of _ _ (by decide +kernel), by decide +kernel⟩⟩

/-- States and operands that meet the hypotheses of Loads. -/
theorem witness_loads :
    (let s : State := W.start
     let pa : Nat := 392
     s.Accepts Form.shared ∧ s.Free [(5 : Reg), (6 : Reg)] ∧ s.access (s.g (6 : Reg) + BitVec.signExtend 64 (8 : BitVec 12)) (2 ^ BitVec.toNat (3 :
       BitVec 2)) Need.load = Except.ok pa ∧ s.Holds pa (2 ^ BitVec.toNat (3 : BitVec 2)) ∧ s.sideEffect pa = false ∧ ((∀ w ∈ wordsOf pa (2 ^
       BitVec.toNat (3 : BitVec 2)), s.core.word w = some WordState.V) ∨ ∀ w ∈ wordsOf pa (2 ^ BitVec.toNat (3 : BitVec 2)), s.core.word w ≠ some
       WordState.V)) ∧
    (let s : State := W.far
     let pa : Nat := 9007199254757384
     let i : Instr := Sys2Proof.Instr.ld 0x3#2 0x05#5 0x06#5 0x008#12
     s.Accepts Form.shared ∧ s.Free [(5 : Reg), (6 : Reg)] ∧ s.access (s.g (6 : Reg) + BitVec.signExtend 64 (8 : BitVec 12)) (2 ^ BitVec.toNat (3 :
       BitVec 2)) Need.load = Except.ok pa ∧ s.route pa ≠ Route.here ∧ (s.route pa = Route.stash → ∃ w ∈ wordsOf pa (2 ^ BitVec.toNat (3 : BitVec
       2)), s.core.word w = none) ∧ s.poisoned pa (2 ^ BitVec.toNat (3 : BitVec 2)) = false ∧ s.pendingWord pa (2 ^ BitVec.toNat (3 : BitVec 2)) =
       false ∧ s.sideEffect pa = false ∧ (∀ x ∈ s.core.ctl.awaits, x.q ≠ s.seq) ∧ s.oc.ocl < 32 ∧ s.canPost s.unit (s.asked pa) 2 = true ∧ i ∈ [i,
       Instr.ldAcq (3 : BitVec 2) (5 : Reg) (6 : Reg) (8 : BitVec 12)]) :=
  ⟨⟨(accepts_iff _ _).1 (by decide +kernel), free_of _ _ (by decide +kernel), ok_of _ _ (by decide +kernel), holds_of _ _ _ (by decide +kernel), by
    decide +kernel⟩, ⟨(accepts_iff _ _).1 (by decide +kernel), free_of _ _ (by decide +kernel), ok_of _ _ (by decide +kernel), by decide +kernel⟩⟩

/-- States and operands that meet the hypotheses of Stores. -/
theorem witness_stores :
    (let s : State := W.start
     let pa : Nat := 392
     s.Free [(5 : Reg), (6 : Reg)] ∧ s.MemoryWf ∧ s.access (s.g (6 : Reg) + BitVec.signExtend 64 (8 : BitVec 12)) (2 ^ BitVec.toNat (3 : BitVec 2))
       Need.store = Except.ok pa ∧ s.Accepts Form.shared ∧ s.Accepts { Form.shared with exchange := true } ∧ s.core.pair = none ∧ s.localAt pa (2 ^
       BitVec.toNat (3 : BitVec 2)) = some pa ∧ s.pendingWord pa (2 ^ BitVec.toNat (3 : BitVec 2)) = false ∧ s.released = true) ∧
    (let s : State := W.far
     let pa : Nat := 9007199254757384
     let u : UnitName := { pkg := 0x000#10, die := 0x08#5, unit := 0x00#8, slice := true }
     s.Accepts Form.shared ∧ s.Free [(5 : Reg), (6 : Reg)] ∧ s.access (s.g (6 : Reg) + BitVec.signExtend 64 (8 : BitVec 12)) (2 ^ BitVec.toNat (3 :
       BitVec 2)) Need.store = Except.ok pa ∧ s.Accepts { Form.shared with exchange := true } ∧ s.core.pair = none ∧ s.route pa = Route.away u ∧
       s.oc.ocs < 32 ∧ s.canPost s.unit u 2 = true ∧ s.released = true) ∧
    (let s : State := W.paired
     let pa : Nat := 392
     let p : Pair :=
       { partner := (1 : CoreName), gate := [], fp := (0 : Word), fpPartner := (0 : Word), count := 0, kcnt := (0 : Word), agreedAt := W.core0.pairRegs, own := W.core0.pairRegs, agreed := 0, rolled := 0, retry := false, passed := none, force := none, draining := false, late := none }
     s.Accepts Form.shared ∧ s.Free [(5 : Reg), (6 : Reg)] ∧ s.access (s.g (6 : Reg) + BitVec.signExtend 64 (8 : BitVec 12)) (2 ^ BitVec.toNat (3 :
       BitVec 2)) Need.store = Except.ok pa ∧ s.seq = Seq.control ∧ s.core.pair = some p ∧ p.forces s.pc = false ∧ p.gate.length < 128) ∧
    (let pa : Nat := W.sram+136
     let s : State := W.start
     s.Accepts { Form.shared with len := 2 } ∧ s.Free [(5 : Reg), (2 : Reg)] ∧ s.access (s.g (2 : Reg) + BitVec.setWidth 64 (1 : BitVec 6) <<< 3) 8
       Need.load = Except.ok pa ∧ s.access (s.g (2 : Reg) + BitVec.setWidth 64 (1 : BitVec 6) <<< 3) 8 Need.store = Except.ok pa ∧ s.MemoryWf ∧
       s.route pa = Route.here ∧ s.poisoned pa 8 = false ∧ s.core.pair = none) :=
  ⟨⟨free_of _ _ (by decide +kernel), memoryWf_of _ (by decide +kernel), ok_of _ _ (by decide +kernel), (accepts_iff _ _).1 (by decide +kernel),
    (accepts_iff _ _).1 (by decide +kernel), by decide +kernel⟩, ⟨(accepts_iff _ _).1 (by decide +kernel), free_of _ _ (by decide +kernel), ok_of _
    _ (by decide +kernel), (accepts_iff _ _).1 (by decide +kernel), by decide +kernel⟩, ⟨(accepts_iff _ _).1 (by decide +kernel), free_of _ _ (by
    decide +kernel), ok_of _ _ (by decide +kernel), by decide +kernel⟩, ⟨(accepts_iff _ _).1 (by decide +kernel), free_of _ _ (by decide +kernel),
    ok_of _ _ (by decide +kernel), ok_of _ _ (by decide +kernel), memoryWf_of _ (by decide +kernel), by decide +kernel⟩⟩

/-- States and operands that meet the hypotheses of AtomicsAndFences. -/
theorem witness_atomics_and_fences :
    (let s : State := W.start
     let pa : Nat := 384
     s.Accepts { Form.shared with exchange := true } ∧ s.Free [(5 : Reg), (6 : Reg), (7 : Reg)] ∧ s.MemoryWf ∧ s.access (s.g (6 : Reg))
       (AmoOp.add.bytes Width.d64) Need.atomic = Except.ok pa ∧ s.Accepts Form.shared ∧ s.place pa ≠ Place.host ∧ s.localAt pa (AmoOp.add.bytes
       Width.d64) = some pa ∧ s.poisoned pa (AmoOp.add.bytes Width.d64) = false ∧ s.pendingWord pa (AmoOp.add.bytes Width.d64) = false ∧
       (AmoOrder.acq = AmoOrder.rel → s.released = true) ∧ s.loaded = true ∧ s.released = true) ∧
    (let s : State := W.far
     let pa : Nat := 9007199254757376
     let u : UnitName := { pkg := 0x000#10, die := 0x08#5, unit := 0x00#8, slice := true }
     s.Accepts { Form.shared with exchange := true } ∧ s.Free [(5 : Reg), (6 : Reg), (7 : Reg)] ∧ s.access (s.g (6 : Reg)) (AmoOp.add.bytes
       Width.d64) Need.atomic = Except.ok pa ∧ s.place pa ≠ Place.host ∧ s.route pa = Route.away u ∧ s.storing pa (AmoOp.add.bytes Width.d64) =
       false ∧ (∀ x ∈ s.core.ctl.awaits, x.q ≠ s.seq) ∧ s.oc.ocl < 32 ∧ s.roomFor [pa] = true ∧ (AmoOrder.acq = AmoOrder.rel → s.released = true)) :=
  ⟨⟨(accepts_iff _ _).1 (by decide +kernel), free_of _ _ (by decide +kernel), memoryWf_of _ (by decide +kernel), ok_of _ _ (by decide +kernel),
    (accepts_iff _ _).1 (by decide +kernel), by decide +kernel⟩, ⟨(accepts_iff _ _).1 (by decide +kernel), free_of _ _ (by decide +kernel), ok_of _
    _ (by decide +kernel), by decide +kernel⟩⟩

/-- States and operands that meet the hypotheses of LocalPages. -/
theorem witness_local_pages :
    (let s : State := W.fullPages
     let pages : List Word := [0x0000000000004000#64]
     let frames : List Nat := [2199023255556]
     s.Free [(5 : Reg), (6 : Reg), (7 : Reg)] ∧ s.pageRange (s.g (6 : Reg)) (s.g (7 : Reg)) = Except.ok pages ∧ s.framesOf pages = Except.ok frames
       ∧ s.Accepts Form.control ∧ (s.core.freeList.length < (List.filter (fun (f : Nat) => (s.core.stashPage f).isNone) frames).eraseDups.length)) ∧
    (let s : State := W.onePage
     let pages : List Word := [0x0000000000004000#64]
     let frames : List Nat := [2199023255556]
     let ps : List (Nat × Nat) := [(9007199254757376, 4), (9007199254757380, 4), (9007199254757384, 4), (9007199254757388, 4), (9007199254757392,
       4), (9007199254757396, 4), (9007199254757400, 4), (9007199254757404, 4)]
     let pa : Nat := 9007199254757376
     let u : UnitName := { pkg := 0x000#10, die := 0x08#5, unit := 0x00#8, slice := true }
     s.Free [(5 : Reg), (6 : Reg), (7 : Reg)] ∧ s.pageRange (s.g (6 : Reg)) (s.g (7 : Reg)) = Except.ok pages ∧ s.framesOf pages = Except.ok frames
       ∧ s.Accepts Form.control ∧ s.Accepts { Form.control with exchange := true } ∧ s.Free [(5 : Reg), (6 : Reg)] ∧ s.accessDwords (s.g (6 : Reg))
       32 32 Need.store = Except.ok ps ∧ ((List.filter (fun (f : Nat) => (s.core.stashPage f).isNone) frames).eraseDups.length ≤
       s.core.freeList.length) ∧ (∀ (w : Await), s.pendingAnswer = some w → w.left = 0 ∧ w.status = (0 : Byte)) ∧ (∀ e ∈ s.core.mem.stash,
       frames.contains (e.1 / 1024) = true → e.2 = WordState.V) ∧ (∀ f ∈ frames, s.pendingWord (4096 * f) 4096 = false) ∧ (Option.map (fun (x : Nat
       × Nat) => x.1) ps.head? = some pa) ∧ s.core.pair = none ∧ s.route pa = Route.away u ∧ s.oc.ocs + 4 ≤ 32 ∧ s.canPost s.unit u 8 = true) ∧
    (let s : State := W.scratchHere
     let p : ScratchPage := { vpn := some 8, frame := 2199023255561, page := some 4 }
     let ps : List (Nat × Nat) := [(16384, 4), (16388, 4), (16392, 4), (16396, 4), (16400, 4), (16404, 4), (16408, 4), (16412, 4)]
     let pa : Nat := 16384
     s.Accepts { Form.control with exchange := true } ∧ s.Free [(5 : Reg), (6 : Reg), (7 : Reg)] ∧ s.Free [(5 : Reg), (6 : Reg)] ∧ s.Accepts
       { Form.control with withMatrix := false, inPair := false } ∧ s.accessDwords (s.g (6 : Reg)) 32 32 Need.load = Except.ok ps ∧ s.HasPieces ps
       ∧ s.Accepts Form.control ∧ s.accessDwords (s.g (6 : Reg)) 32 32 Need.store = Except.ok ps ∧ s.MemoryWf ∧ s.g (7 : Reg) = (1 : Word) ∧
       BitVec.toNat (s.g (6 : Reg)) % 4096 = 0 ∧ s.scratchOf (s.g (6 : Reg)) = some (0, p) ∧ p.page = some 4 ∧ s.core.mem.spills.length < 8 ∧
       s.pendingAnswer = none ∧ (Option.map (fun (x : Nat × Nat) => x.1) ps.head? = some pa) ∧ s.core.pair = none ∧ s.localAt pa 32 = some pa ∧
       s.pendingWord pa 32 = false) ∧
    (let s : State := W.scratchFull
     let p : ScratchPage := { vpn := some 8, frame := 2199023255561, page := none }
     s.Accepts { Form.control with exchange := true } ∧ s.Free [(5 : Reg), (6 : Reg), (7 : Reg)] ∧ s.g (7 : Reg) = (1 : Word) ∧ BitVec.toNat (s.g
       (6 : Reg)) % 4096 = 0 ∧ s.scratchOf (s.g (6 : Reg)) = some (0, p) ∧ p.page = none ∧ s.core.freeList = []) ∧
    (let s : State := W.scratchAway
     let l : List Nat := (W.scratchAway.core.freeList.tail : List Nat)
     let p : ScratchPage := { vpn := some 8, frame := 2199023255561, page := none }
     s.Accepts { Form.control with exchange := true } ∧ s.Free [(5 : Reg), (6 : Reg), (7 : Reg)] ∧ s.g (7 : Reg) = (1 : Word) ∧ BitVec.toNat (s.g
       (6 : Reg)) % 4096 = 0 ∧ s.scratchOf (s.g (6 : Reg)) = some (0, p) ∧ p.page = none ∧ s.core.freeList = 4 :: l) ∧
    (let s : State := W.start.setG 6 5
     s.Free [(5 : Reg), (6 : Reg)] ∧ s.Accepts Form.control ∧ BitVec.toNat (s.g (6 : Reg)) < 64) :=
  ⟨⟨free_of _ _ (by decide +kernel), ok_of _ _ (by decide +kernel), ok_of _ _ (by decide +kernel), (accepts_iff _ _).1 (by decide +kernel), by
    decide +kernel⟩, ⟨free_of _ _ (by decide +kernel), ok_of _ _ (by decide +kernel), ok_of _ _ (by decide +kernel), (accepts_iff _ _).1 (by
    decide +kernel), (accepts_iff _ _).1 (by decide +kernel), free_of _ _ (by decide +kernel), ok_of _ _ (by decide +kernel), by decide +kernel⟩,
    ⟨(accepts_iff _ _).1 (by decide +kernel), free_of _ _ (by decide +kernel), free_of _ _ (by decide +kernel), (accepts_iff _ _).1 (by
    decide +kernel), ok_of _ _ (by decide +kernel), hasPieces_of _ _ (by decide +kernel), (accepts_iff _ _).1 (by decide +kernel), ok_of _ _ (by
    decide +kernel), memoryWf_of _ (by decide +kernel), by decide +kernel⟩, ⟨(accepts_iff _ _).1 (by decide +kernel), free_of _ _ (by
    decide +kernel), by decide +kernel⟩, ⟨(accepts_iff _ _).1 (by decide +kernel), free_of _ _ (by decide +kernel), by decide +kernel⟩, ⟨free_of _
    _ (by decide +kernel), (accepts_iff _ _).1 (by decide +kernel), by decide +kernel⟩⟩

/-- States and operands that meet the hypotheses of Spawning. -/
theorem witness_spawning :
    (let s : State := W.start
     let bs : List Byte := [0x00#8, 0x00#8, 0x00#8, 0x00#8, 0x00#8, 0x00#8, 0x00#8, 0x00#8, 0x00#8, 0x00#8, 0x00#8, 0x00#8, 0x00#8, 0x00#8, 0x00#8,
       0x00#8, 0x00#8, 0x00#8, 0x00#8, 0x00#8, 0x00#8, 0x00#8, 0x00#8, 0x00#8, 0x00#8, 0x00#8, 0x00#8, 0x00#8, 0x00#8, 0x00#8, 0x00#8, 0x00#8,
       0x00#8, 0x00#8, 0x00#8, 0x00#8, 0x00#8, 0x00#8, 0x00#8, 0x00#8, 0x00#8, 0x00#8, 0x00#8, 0x00#8, 0x00#8, 0x00#8, 0x00#8, 0x00#8, 0x00#8,
       0x00#8, 0x00#8, 0x00#8, 0x00#8, 0x00#8, 0x00#8, 0x00#8, 0x00#8, 0x00#8, 0x00#8, 0x00#8, 0x00#8, 0x00#8, 0x00#8, 0x00#8]
     s.Accepts Form.sched ∧ s.Free [(5 : Reg), (6 : Reg), (7 : Reg)] ∧ s.readRecord (s.g (6 : Reg)) 64 = Except.ok (Sum.inl bs) ∧ s.takesRecords
       (recCid (recOf bs)) = false ∧ bits (s.g (7 : Reg)) 16 48 = (0 : BitVec 48) ∧ s.sentAnswer = none ∧ s.fits s.ctx (BitVec.setWidth 16 (s.g (7
       : Reg))) = true) ∧
    (let s : State := W.fullDeque
     let bs : List Byte := [0x00#8, 0x00#8, 0x00#8, 0x00#8, 0x00#8, 0x00#8, 0x00#8, 0x00#8, 0x00#8, 0x00#8, 0x00#8, 0x00#8, 0x00#8, 0x00#8, 0x00#8,
       0x00#8, 0x00#8, 0x00#8, 0x00#8, 0x00#8, 0x01#8, 0x00#8, 0x00#8, 0x00#8, 0x00#8, 0x00#8, 0x00#8, 0x00#8, 0x00#8, 0x00#8, 0x00#8, 0x00#8,
       0x00#8, 0x00#8, 0x00#8, 0x00#8, 0x00#8, 0x00#8, 0x00#8, 0x00#8, 0x00#8, 0x00#8, 0x00#8, 0x00#8, 0x00#8, 0x00#8, 0x00#8, 0x00#8, 0x00#8,
       0x00#8, 0x00#8, 0x00#8, 0x00#8, 0x00#8, 0x00#8, 0x00#8, 0x01#8, 0x00#8, 0x00#8, 0x00#8, 0x00#8, 0x00#8, 0x00#8, 0x00#8]
     s.Accepts Form.sched ∧ s.Free [(5 : Reg), (6 : Reg), (7 : Reg)] ∧ s.readRecord (s.g (6 : Reg)) 64 = Except.ok (Sum.inl bs) ∧ s.takesRecords
       (recCid (recOf bs)) = true ∧ 256 ≤ s.core.sched.deque.length) ∧
    (let s : State := W.record
     let bs : List Byte := [0x00#8, 0x00#8, 0x00#8, 0x00#8, 0x00#8, 0x00#8, 0x00#8, 0x00#8, 0x00#8, 0x00#8, 0x00#8, 0x00#8, 0x00#8, 0x00#8, 0x00#8,
       0x00#8, 0x00#8, 0x00#8, 0x00#8, 0x00#8, 0x01#8, 0x00#8, 0x00#8, 0x00#8, 0x00#8, 0x00#8, 0x00#8, 0x00#8, 0x00#8, 0x00#8, 0x00#8, 0x00#8,
       0x00#8, 0x00#8, 0x00#8, 0x00#8, 0x00#8, 0x00#8, 0x00#8, 0x00#8, 0x00#8, 0x00#8, 0x00#8, 0x00#8, 0x00#8, 0x00#8, 0x00#8, 0x00#8, 0x00#8,
       0x00#8, 0x00#8, 0x00#8, 0x00#8, 0x00#8, 0x00#8, 0x00#8, 0x01#8, 0x00#8, 0x00#8, 0x00#8, 0x00#8, 0x00#8, 0x00#8, 0x00#8]
     s.Accepts Form.sched ∧ s.Free [(5 : Reg), (6 : Reg), (20 : Reg)] ∧ s.readRecord (s.g (6 : Reg)) 64 = Except.ok (Sum.inl bs) ∧ s.budget (recCid
       (recOf bs)) (BitVec.toNat (s.g (20 : Reg))) ≠ Except.ok () ∧ s.Free [(5 : Reg), (6 : Reg), (7 : Reg)] ∧ s.budget (recCid (recOf bs))
       (BitVec.toNat (s.g (7 : Reg))) = Except.ok () ∧ s.takesRecords (recCid (recOf bs)) = true ∧ s.core.sched.deque.length < 256 ∧ s.released =
       true ∧ bits (s.g (7 : Reg)) 16 48 = (0 : BitVec 48) ∧ s.sentAnswer = none ∧ s.fits s.ctx (BitVec.setWidth 16 (s.g (7 : Reg))) = true ∧
       s.canPost s.unit (coreUnit s (BitVec.setWidth 16 (s.g (7 : Reg)))) 1 = true) ∧
    (let s : State := W.record.setG 7 9000
     let bs : List Byte := [0x00#8, 0x00#8, 0x00#8, 0x00#8, 0x00#8, 0x00#8, 0x00#8, 0x00#8, 0x00#8, 0x00#8, 0x00#8, 0x00#8, 0x00#8, 0x00#8, 0x00#8,
       0x00#8, 0x00#8, 0x00#8, 0x00#8, 0x00#8, 0x01#8, 0x00#8, 0x00#8, 0x00#8, 0x00#8, 0x00#8, 0x00#8, 0x00#8, 0x00#8, 0x00#8, 0x00#8, 0x00#8,
       0x00#8, 0x00#8, 0x00#8, 0x00#8, 0x00#8, 0x00#8, 0x00#8, 0x00#8, 0x00#8, 0x00#8, 0x00#8, 0x00#8, 0x00#8, 0x00#8, 0x00#8, 0x00#8, 0x00#8,
       0x00#8, 0x00#8, 0x00#8, 0x00#8, 0x00#8, 0x00#8, 0x00#8, 0x01#8, 0x00#8, 0x00#8, 0x00#8, 0x00#8, 0x00#8, 0x00#8, 0x00#8]
     s.Accepts Form.sched ∧ s.Free [(5 : Reg), (6 : Reg), (7 : Reg)] ∧ s.readRecord (s.g (6 : Reg)) 64 = Except.ok (Sum.inl bs) ∧ bits (s.g (7 :
       Reg)) 16 48 = (0 : BitVec 48) ∧ s.sentAnswer = none ∧ s.fits s.ctx (BitVec.setWidth 16 (s.g (7 : Reg))) = false) ∧
    (let s : State := W.answered
     let w : Await :=
       { id := 1, q := Sys2Proof.Seq.control, pc := 0x0000000000000100#64, left := 0, got := [(0, [0x00#8, 0x00#8, 0x00#8, 0x00#8, 0x00#8, 0x00#8, 0x00#8, 0x00#8])], status := 0x00#8, sent := true, unit := false, carried := false, back := false, asked := 0, out := 0, fail := 0 }
     s.Accepts Form.sched ∧ s.Free [(5 : Reg), (6 : Reg), (7 : Reg)] ∧ bits (s.g (7 : Reg)) 16 48 = (0 : BitVec 48) ∧ s.sentAnswer = some w ∧
       w.left = 0 ∧ w.status = (0 : Byte)) :=
  ⟨⟨(accepts_iff _ _).1 (by decide +kernel), free_of _ _ (by decide +kernel), ok_of _ _ (by decide +kernel), by decide +kernel⟩, ⟨(accepts_iff _
    _).1 (by decide +kernel), free_of _ _ (by decide +kernel), ok_of _ _ (by decide +kernel), by decide +kernel⟩, ⟨(accepts_iff _ _).1 (by
    decide +kernel), free_of _ _ (by decide +kernel), ok_of _ _ (by decide +kernel), not_ok_of _ _ (by decide +kernel), free_of _ _ (by
    decide +kernel), ok_of _ _ (by decide +kernel), by decide +kernel⟩, ⟨(accepts_iff _ _).1 (by decide +kernel), free_of _ _ (by decide +kernel),
    ok_of _ _ (by decide +kernel), by decide +kernel⟩, ⟨(accepts_iff _ _).1 (by decide +kernel), free_of _ _ (by decide +kernel), by
    decide +kernel⟩⟩

/-- States and operands that meet the hypotheses of ChambersAndNests (part 1). -/
theorem witness_chambers_and_nests_1 :
    (let s : State := ({ W.rcb with mem := [] } : State)
     let bs : List Byte := [0x00#8, 0x00#8, 0x00#8, 0x00#8, 0x00#8, 0x00#8, 0x00#8, 0x00#8, 0x00#8, 0x00#8, 0x00#8, 0x00#8, 0x00#8, 0x00#8, 0x00#8,
       0x00#8, 0x00#8, 0x00#8, 0x00#8, 0x00#8, 0x00#8, 0x00#8, 0x00#8, 0x00#8, 0x00#8, 0x00#8, 0x00#8, 0x00#8, 0x00#8, 0x00#8, 0x00#8, 0x00#8,
       0x00#8, 0x00#8, 0x00#8, 0x00#8, 0x00#8, 0x00#8, 0x00#8, 0x00#8, 0x00#8, 0x00#8, 0x00#8, 0x00#8, 0x00#8, 0x00#8, 0x00#8, 0x00#8, 0x00#8,
       0x00#8, 0x00#8, 0x00#8, 0x00#8, 0x00#8, 0x00#8, 0x00#8, 0x00#8, 0x00#8, 0x00#8, 0x00#8, 0x00#8, 0x00#8, 0x00#8, 0x00#8, 0x00#8, 0x00#8,
       0x00#8, 0x00#8, 0x00#8, 0x00#8, 0x00#8, 0x00#8, 0x00#8, 0x00#8, 0x00#8, 0x00#8, 0x00#8, 0x00#8, 0x00#8, 0x00#8, 0x00#8, 0x00#8, 0x00#8,
       0x00#8, 0x00#8, 0x00#8, 0x00#8, 0x00#8, 0x00#8, 0x00#8, 0x00#8, 0x00#8, 0x00#8, 0x00#8, 0x00#8, 0x00#8, 0x00#8, 0x00#8, 0x00#8, 0x00#8,
       0x00#8, 0x00#8, 0x00#8, 0x00#8, 0x00#8, 0x00#8, 0x00#8, 0x00#8, 0x00#8, 0x00#8, 0x00#8, 0x00#8, 0x00#8, 0x00#8, 0x00#8, 0x00#8, 0x00#8,
       0x00#8, 0x00#8, 0x00#8, 0x00#8, 0x00#8, 0x00#8, 0x00#8, 0x00#8, 0x00#8, 0x00#8, 0x00#8, 0x00#8, 0x00#8, 0x00#8, 0x00#8, 0x00#8, 0x00#8,
       0x00#8, 0x00#8, 0x00#8, 0x00#8, 0x00#8, 0x00#8, 0x00#8, 0x00#8, 0x00#8, 0x00#8, 0x00#8, 0x00#8, 0x00#8, 0x00#8, 0x00#8, 0x00#8, 0x00#8,
       0x00#8, 0x00#8, 0x00#8, 0x00#8, 0x00#8, 0x00#8, 0x00#8, 0x00#8, 0x00#8, 0x00#8, 0x00#8, 0x00#8, 0x00#8, 0x00#8, 0x00#8, 0x00#8, 0x00#8,
       0x00#8, 0x00#8, 0x00#8, 0x00#8, 0x00#8, 0x00#8, 0x00#8, 0x00#8, 0x00#8, 0x00#8, 0x00#8, 0x00#8, 0x00#8, 0x00#8, 0x00#8, 0x00#8, 0x00#8,
       0x00#8, 0x00#8, 0x00#8, 0x00#8, 0x00#8, 0x00#8, 0x00#8, 0x00#8, 0x00#8, 0x00#8, 0x00#8, 0x00#8, 0x00#8, 0x00#8, 0x00#8, 0x00#8, 0x00#8,
       0x00#8, 0x00#8, 0x00#8, 0x00#8, 0x00#8, 0x00#8, 0x00#8, 0x00#8, 0x00#8, 0x00#8, 0x00#8, 0x00#8, 0x00#8, 0x00#8, 0x00#8, 0x00#8, 0x00#8,
       0x00#8, 0x00#8, 0x00#8, 0x00#8, 0x00#8, 0x00#8, 0x00#8, 0x00#8, 0x00#8, 0x00#8, 0x00#8, 0x00#8, 0x00#8, 0x00#8, 0x00#8, 0x00#8, 0x00#8,
       0x00#8, 0x00#8, 0x00#8, 0x00#8, 0x00#8, 0x00#8, 0x00#8, 0x00#8, 0x00#8, 0x00#8, 0x00#8, 0x00#8, 0x00#8, 0x00#8, 0x00#8, 0x00#8, 0x00#8,
       0x00#8, 0x00#8, 0x00#8]
     s.Accepts Form.sched ∧ s.Free [(5 : Reg), (6 : Reg), (7 : Reg)] ∧ s.readRecord (s.g (6 : Reg)) 256 = Except.ok (Sum.inl bs) ∧ s.refuseChamber
       W.ctxA bs ≠ 0 ∧ s.findCtx s.ctx = some W.ctxA) ∧
    (let s : State := W.rcb
     let bs : List Byte := [0x00#8, 0x00#8, 0x01#8, 0x00#8, 0x00#8, 0x00#8, 0x00#8, 0x00#8, 0x00#8, 0x01#8, 0x00#8, 0x00#8, 0x00#8, 0x00#8, 0x00#8,
       0x00#8, 0x00#8, 0x00#8, 0x00#8, 0x00#8, 0x00#8, 0x00#8, 0x00#8, 0x00#8, 0x00#8, 0x00#8, 0x00#8, 0x00#8, 0x00#8, 0x00#8, 0x00#8, 0x00#8,
       0x00#8, 0x00#8, 0x00#8, 0x00#8, 0x00#8, 0x00#8, 0x00#8, 0x00#8, 0x00#8, 0x00#8, 0x00#8, 0x00#8, 0x00#8, 0x00#8, 0x00#8, 0x00#8, 0x00#8,
       0x00#8, 0x00#8, 0x00#8, 0x00#8, 0x00#8, 0x00#8, 0x00#8, 0x00#8, 0x00#8, 0x00#8, 0x00#8, 0x00#8, 0x00#8, 0x00#8, 0x00#8, 0x00#8, 0x00#8,
       0x00#8, 0x00#8, 0x00#8, 0x00#8, 0x00#8, 0x00#8, 0x00#8, 0x00#8, 0x00#8, 0x00#8, 0x00#8, 0x00#8, 0x00#8, 0x00#8, 0x00#8, 0x00#8, 0x00#8,
       0x00#8, 0x00#8, 0x00#8, 0x00#8, 0x00#8, 0x00#8, 0x00#8, 0x00#8, 0x00#8, 0x00#8, 0x00#8, 0x00#8, 0x00#8, 0x00#8, 0x00#8, 0x00#8, 0x00#8,
       0x00#8, 0x00#8, 0x00#8, 0x00#8, 0x00#8, 0x00#8, 0x00#8, 0x00#8, 0x00#8, 0x00#8, 0x00#8, 0x00#8, 0x00#8, 0x00#8, 0x00#8, 0x00#8, 0x00#8,
       0x00#8, 0x00#8, 0x00#8, 0x00#8, 0x00#8, 0x00#8, 0x00#8, 0x00#8, 0x00#8, 0x00#8, 0x00#8, 0x00#8, 0x00#8, 0x00#8, 0x00#8, 0x00#8, 0x00#8,
       0x00#8, 0x00#8, 0x00#8, 0x00#8, 0x00#8, 0x00#8, 0x00#8, 0x00#8, 0x00#8, 0x00#8, 0x00#8, 0x00#8, 0x00#8, 0x00#8, 0x00#8, 0x00#8, 0x00#8,
       0x00#8, 0x00#8, 0x00#8, 0x00#8, 0x00#8, 0x00#8, 0x00#8, 0x00#8, 0x00#8, 0x00#8, 0x00#8, 0x00#8, 0x00#8, 0x00#8, 0x00#8, 0x00#8, 0x00#8,
       0x00#8, 0x00#8, 0x00#8, 0x00#8, 0x00#8, 0x00#8, 0x00#8, 0x00#8, 0x00#8, 0x00#8, 0x00#8, 0x00#8, 0x00#8, 0x00#8, 0x00#8, 0x00#8, 0x00#8,
       0x00#8, 0x00#8, 0x00#8, 0x00#8, 0x00#8, 0x00#8, 0x00#8, 0x00#8, 0x00#8, 0x00#8, 0x00#8, 0x00#8, 0x00#8, 0x00#8, 0x00#8, 0x00#8, 0x00#8,
       0x00#8, 0x00#8, 0x00#8, 0x00#8, 0x00#8, 0x00#8, 0x00#8, 0x00#8, 0x00#8, 0x00#8, 0x00#8, 0x00#8, 0x00#8, 0x00#8, 0x00#8, 0x00#8, 0x00#8,
       0x00#8, 0x00#8, 0x00#8, 0x00#8, 0x00#8, 0x00#8, 0x00#8, 0x00#8, 0x00#8, 0x00#8, 0x00#8, 0x00#8, 0x00#8, 0x00#8, 0x00#8, 0x00#8, 0x00#8,
       0x00#8, 0x00#8, 0x00#8, 0x00#8, 0x00#8, 0x00#8, 0x00#8, 0x00#8, 0x00#8, 0x00#8, 0x00#8, 0x00#8, 0x00#8, 0x00#8, 0x00#8, 0x00#8, 0x7c#8,
       0x7d#8, 0x1c#8, 0xe7#8]
     let pa : Nat := 512
     let parent : Option Chamber := (s.deviceTranslate W.ctxA.ctx (BitVec.ofNat 64 (field bs 0 8)) Need.load).bind fun (p : Nat) => List.find? (fun
       (x : Chamber) => x.rcb == p) W.ctxA.chambers
     let line : List Chamber := chamberOf bs pa W.ctxA.freshCid (0 : W32) :: parent.elim [] fun (h : Chamber) => s.lineOf W.ctxA.ctx h.cid
     let cid : W32 := 0x00000200#32
     let cid' : W32 := 0x00000001#32
     let n : Nat := extent (s.g (6 : Reg)) 0 * extent (s.g (6 : Reg)) 1 * extent (s.g (6 : Reg)) 2 * extent (s.g (6 : Reg)) 3
     s.Accepts Form.sched ∧ s.Free [(5 : Reg), (6 : Reg), (7 : Reg)] ∧ s.readRecord (s.g (6 : Reg)) 256 = Except.ok (Sum.inl bs) ∧ s.refuseChamber
       W.ctxA bs = 0 ∧ s.translate (s.g (6 : Reg)) Need.load = Except.ok pa ∧ s.cidOf (s.g (6 : Reg)) = Except.ok cid ∧ s.cidOf (s.g (7 : Reg)) =
       Except.ok cid' ∧ s.findCtx s.ctx = some W.ctxA ∧ (s.g (7 : Reg) = (0 : Word) ∨ s.mayCharge W.ctxA line (pagesOf (BitVec.toNat (s.g (7 :
       Reg)))) = true) ∧ s.released = true ∧ s.isWithin s.ctx s.cid cid = false ∧ (Option.filter (fun (x : Chamber) => x.isOpen) (s.chamber s.ctx
       cid) = none) ∧ BitVec.toNat (s.g (7 : Reg)) ≤ 14 ∧ (BitVec.toNat (s.g (7 : Reg)) ≤ 15 ∨ s.g (7 : Reg) = BitVec.allOnes 64) ∧ (Option.filter
       (fun (h : Chamber) => h.isOpen && s.isWithin s.ctx cid s.cid) (s.chamber s.ctx cid) = none) ∧ (Option.filter (fun (h : Chamber) => h.isOpen
       && s.isWithin s.ctx cid' s.cid) (s.chamber s.ctx cid') = some W.root) ∧ (W.root.nest.act = false ∨ W.root.nest.total ≤ W.root.nest.next) ∧ n
       ≠ 2 ^ 64 ∧ s.seq = Seq.control ∧ s.core.ctl.task = some W.taskA ∧ W.taskA.team = none ∧ W.taskA.fetcher.next = W.taskA.fetcher.fin ∧
       s.sentAnswer = none ∧ s.canPost s.unit (s.nestHome s.cid) 1 = true) ∧
    (let s : State := W.nested
     let c : Context :=
       { ctx := 0x0001#16, lrec := 9007199254806528, lpm := 0, lmode := 0, lcnt := 1, recs := 9007199254807040, ldpl := 0, feat := 0x00000000000000000000000000000001#128, ckpt := 0, part := 0, lost := false, nextCid := 0x00000002#32, chambers := [{ cid := 0x00000001#32, rcb := 9007199254806528, parent := 0x00000000#32, head := 0x0000000000000000#64, msave := 0x0000000000100000#64, basin := 0x0000000000000000#64, power := 200, cores := 64, retry := 0, bound := false, prio := 5, ovr := 0x0000#16, feat := 0x00000000000000000000000000000000#128, frep := 0x0000000000000000#64, cst := 1, live := 1, cuse := 1, reex := 0, buse := 0, muse := 0, nest := { gen := 0x00000000#32, act := false, ext := 0x0000000000000000#64, total := 0, next := 0 }, own := 0, decl := 0, weights := 1, waiting := [] }, { cid := 0x00000002#32, rcb := 9007199254872064, parent := 0x00000001#32, head := 0x0000000000000000#64, msave := 0x0000000000100000#64, basin := 0x0000000000000000#64, power := 200, cores := 64, retry := 0, bound := false, prio := 5, ovr := 0x0000#16, feat := 0x00000000000000000000000000000000#128, frep := 0x0000000000000000#64, cst := 1, live := 1, cuse := 1, reex := 0, buse := 0, muse := 0, nest := { gen := 0x00000001#32, act := true, ext := 0x0000000000000009#64, total := 10, next := 3 }, own := 0, decl := 0, weights := 1, waiting := [] }] }
     let cid : W32 := 0x00000002#32
     let h : Chamber :=
       { cid := 0x00000002#32, rcb := 9007199254872064, parent := 0x00000001#32, head := 0x0000000000000000#64, msave := 0x0000000000100000#64, basin := 0x0000000000000000#64, power := 200, cores := 64, retry := 0, bound := false, prio := 5, ovr := 0x0000#16, feat := 0x00000000000000000000000000000000#128, frep := 0x0000000000000000#64, cst := 1, live := 1, cuse := 1, reex := 0, buse := 0, muse := 0, nest := { gen := 0x00000001#32, act := true, ext := 0x0000000000000009#64, total := 10, next := 3 }, own := 0, decl := 0, weights := 1, waiting := [] }
     let cid' : W32 := 0x00000002#32
     s.Accepts Form.sched ∧ s.Free [(5 : Reg), (6 : Reg), (7 : Reg)] ∧ s.cidOf (s.g (6 : Reg)) = Except.ok cid ∧ s.cidOf (s.g (7 : Reg)) =
       Except.ok cid' ∧ s.findCtx s.ctx = some c ∧ s.isWithin s.ctx s.cid cid = false ∧ (Option.filter (fun (x : Chamber) => x.isOpen) (s.chamber
       s.ctx cid) = some h) ∧ (h.cst = 1 ∨ h.cst = 2) ∧ s.lifeless s.ctx cid = false ∧ (Option.filter (fun (h : Chamber) => h.isOpen && s.isWithin
       s.ctx cid' s.cid) (s.chamber s.ctx cid') = some h) ∧ h.nest.act = true ∧ h.nest.next < h.nest.total) ∧
    (let s : State := W.lifeless
     let c : Context :=
       { ctx := 0x0001#16, lrec := 9007199254806528, lpm := 0, lmode := 0, lcnt := 1, recs := 9007199254807040, ldpl := 0, feat := 0x00000000000000000000000000000001#128, ckpt := 0, part := 0, lost := false, nextCid := 0x00000002#32, chambers := [{ cid := 0x00000001#32, rcb := 9007199254806528, parent := 0x00000000#32, head := 0x0000000000000000#64, msave := 0x0000000000100000#64, basin := 0x0000000000000000#64, power := 200, cores := 64, retry := 0, bound := false, prio := 5, ovr := 0x0000#16, feat := 0x00000000000000000000000000000000#128, frep := 0x0000000000000000#64, cst := 1, live := 1, cuse := 1, reex := 0, buse := 0, muse := 0, nest := { gen := 0x00000000#32, act := false, ext := 0x0000000000000000#64, total := 0, next := 0 }, own := 0, decl := 0, weights := 1, waiting := [] }, { cid := 0x00000002#32, rcb := 9007199254872064, parent := 0x00000001#32, head := 0x0000000000000000#64, msave := 0x0000000000000000#64, basin := 0x0000000000000000#64, power := 0, cores := 0, retry := 0, bound := false, prio := 5, ovr := 0x0000#16, feat := 0x00000000000000000000000000000000#128, frep := 0x0000000000000000#64, cst := 4, live := 0, cuse := 0, reex := 0, buse := 0, muse := 0, nest := { gen := 0x00000000#32, act := false, ext := 0x0000000000000000#64, total := 0, next := 0 }, own := 0, decl := 0, weights := 0, waiting := [] }] }
     let cid : W32 := 0x00000002#32
     let h : Chamber :=
       { cid := 0x00000002#32, rcb := 9007199254872064, parent := 0x00000001#32, head := 0x0000000000000000#64, msave := 0x0000000000000000#64, basin := 0x0000000000000000#64, power := 0, cores := 0, retry := 0, bound := false, prio := 5, ovr := 0x0000#16, feat := 0x00000000000000000000000000000000#128, frep := 0x0000000000000000#64, cst := 4, live := 0, cuse := 0, reex := 0, buse := 0, muse := 0, nest := { gen := 0x00000000#32, act := false, ext := 0x0000000000000000#64, total := 0, next := 0 }, own := 0, decl := 0, weights := 0, waiting := [] }
     s.Accepts Form.sched ∧ s.Free [(5 : Reg), (6 : Reg), (7 : Reg)] ∧ s.cidOf (s.g (6 : Reg)) = Except.ok cid ∧ s.findCtx s.ctx = some c ∧
       s.isWithin s.ctx s.cid cid = false ∧ (Option.filter (fun (x : Chamber) => x.isOpen) (s.chamber s.ctx cid) = some h) ∧ (h.cst = 4 ∨ (h.cst =
       1 ∨ h.cst = 2) ∧ s.lifeless s.ctx cid = true) ∧ BitVec.toNat (s.g (7 : Reg)) ≤ 14 ∧ (BitVec.toNat (s.g (7 : Reg)) ≤ 15 ∨ s.g (7 : Reg) =
       BitVec.allOnes 64) ∧ (Option.filter (fun (h : Chamber) => h.isOpen && s.isWithin s.ctx cid s.cid) (s.chamber s.ctx cid) = some h) ∧
       BitVec.toNat (s.g (7 : Reg)) ≤ 15) ∧
    (let s : State := (W.lifeless.setG 6 1).setG 7 (-1)
     let cid : W32 := 0x00000001#32
     s.Accepts Form.sched ∧ s.Free [(5 : Reg), (6 : Reg), (7 : Reg)] ∧ s.cidOf (s.g (6 : Reg)) = Except.ok cid ∧ (BitVec.toNat (s.g (7 : Reg)) ≤ 15
       ∨ s.g (7 : Reg) = BitVec.allOnes 64) ∧ (Option.filter (fun (h : Chamber) => h.isOpen && s.isWithin s.ctx cid s.cid) (s.chamber s.ctx cid) =
       some W.root) ∧ s.g (7 : Reg) = BitVec.allOnes 64) ∧
    (let s : State := W.start.setG 7 9
     let cid' : W32 := 0x00000009#32
     s.Accepts Form.sched ∧ s.Free [(5 : Reg), (6 : Reg), (7 : Reg)] ∧ s.cidOf (s.g (7 : Reg)) = Except.ok cid' ∧ (Option.filter (fun (h : Chamber)
       => h.isOpen && s.isWithin s.ctx cid' s.cid) (s.chamber s.ctx cid') = none)) :=
  ⟨⟨(accepts_iff _ _).1 (by decide +kernel), free_of _ _ (by decide +kernel), ok_of _ _ (by decide +kernel),
    (by rw [ne_eq, State.refuseChamber, rcbCrc_eq]; decide +kernel), by decide +kernel⟩, ⟨(accepts_iff _ _).1 (by decide +kernel), free_of _ _ (by
    decide +kernel), ok_of _ _ (by decide +kernel), (by rw [State.refuseChamber, rcbCrc_eq]; decide +kernel), ok_of _ _ (by decide +kernel), ok_of
    _ _ (by decide +kernel), ok_of _ _ (by decide +kernel), by decide +kernel⟩, ⟨(accepts_iff _ _).1 (by decide +kernel), free_of _ _ (by
    decide +kernel), ok_of _ _ (by decide +kernel), ok_of _ _ (by decide +kernel), by decide +kernel⟩, ⟨(accepts_iff _ _).1 (by decide +kernel),
    free_of _ _ (by decide +kernel), ok_of _ _ (by decide +kernel), by decide +kernel⟩, ⟨(accepts_iff _ _).1 (by decide +kernel), free_of _ _ (by
    decide +kernel), ok_of _ _ (by decide +kernel), by decide +kernel⟩, ⟨(accepts_iff _ _).1 (by decide +kernel), free_of _ _ (by decide +kernel),
    ok_of _ _ (by decide +kernel), by decide +kernel⟩⟩

/-- States and operands that meet the hypotheses of ChambersAndNests (part 2). -/
theorem witness_chambers_and_nests_2 :
    (let s : State := (W.start.setG 6 (-1)).setG 7 0
     let cid : W32 := 0x00000001#32
     let n : Nat := extent (s.g (6 : Reg)) 0 * extent (s.g (6 : Reg)) 1 * extent (s.g (6 : Reg)) 2 * extent (s.g (6 : Reg)) 3
     s.Accepts Form.sched ∧ s.Free [(5 : Reg), (6 : Reg), (7 : Reg)] ∧ s.cidOf (s.g (7 : Reg)) = Except.ok cid ∧ (Option.filter (fun (h : Chamber)
       => h.isOpen && s.isWithin s.ctx cid s.cid) (s.chamber s.ctx cid) = some W.root) ∧ (W.root.nest.act = false ∨ W.root.nest.total ≤
       W.root.nest.next) ∧ n = 2 ^ 64) ∧
    (let s : State := W.chunk
     let k : Machine.Task := { W.taskA with fetcher := ⟨5, 8, 0x0001000200030004, 1⟩ }
     s.Accepts Form.sched ∧ s.seq = Seq.control ∧ s.core.ctl.task = some k ∧ k.team = none ∧ k.fetcher.next ≠ k.fetcher.fin) ∧
    (let s : State := W.noChunk
     let k : Machine.Task := W.taskA
     let w : Await :=
       { id := 1, q := Sys2Proof.Seq.control, pc := 0x0000000000000100#64, left := 0, got := [], status := 0x00#8, sent := true, unit := false, carried := false, back := false, asked := 0, out := 0, fail := 0 }
     let bs : List Byte := []
     s.Accepts Form.sched ∧ s.seq = Seq.control ∧ s.core.ctl.task = some k ∧ k.team = none ∧ k.fetcher.next = k.fetcher.fin ∧ s.sentAnswer = some w
       ∧ w.left = 0 ∧ w.status = (0 : Byte) ∧ bs = []) ∧
    (let s : State := W.noChunk.modCtl fun c =>
       { c with awaits := [⟨1, .control, 0x100, 0, [(0, toBytes 8 5 ++ toBytes 8 9 ++ toBytes 8 0x0001000200030004 ++ toBytes 4 1)], 0, true, false, false, false, 0, 0, 0⟩] }
     let k : Machine.Task := W.taskA
     let w : Await :=
       { id := 1, q := Sys2Proof.Seq.control, pc := 0x0000000000000100#64, left := 0, got := [(0, [0x05#8, 0x00#8, 0x00#8, 0x00#8, 0x00#8, 0x00#8, 0x00#8, 0x00#8, 0x09#8, 0x00#8, 0x00#8, 0x00#8, 0x00#8, 0x00#8, 0x00#8, 0x00#8, 0x04#8, 0x00#8, 0x03#8, 0x00#8, 0x02#8, 0x00#8, 0x01#8, 0x00#8, 0x01#8, 0x00#8, 0x00#8, 0x00#8])], status := 0x00#8, sent := true, unit := false, carried := false, back := false, asked := 0, out := 0, fail := 0 }
     let bs : List Byte := [0x05#8, 0x00#8, 0x00#8, 0x00#8, 0x00#8, 0x00#8, 0x00#8, 0x00#8, 0x09#8, 0x00#8, 0x00#8, 0x00#8, 0x00#8, 0x00#8, 0x00#8,
       0x00#8, 0x04#8, 0x00#8, 0x03#8, 0x00#8, 0x02#8, 0x00#8, 0x01#8, 0x00#8, 0x01#8, 0x00#8, 0x00#8, 0x00#8]
     s.Accepts Form.sched ∧ s.seq = Seq.control ∧ s.core.ctl.task = some k ∧ k.team = none ∧ k.fetcher.next = k.fetcher.fin ∧ s.sentAnswer = some w
       ∧ w.left = 0 ∧ w.status = (0 : Byte) ∧ bs ≠ []) :=
  ⟨⟨(accepts_iff _ _).1 (by decide +kernel), free_of _ _ (by decide +kernel), ok_of _ _ (by decide +kernel), by decide +kernel⟩, ⟨(accepts_iff _
    _).1 (by decide +kernel), by decide +kernel⟩, ⟨(accepts_iff _ _).1 (by decide +kernel), by decide +kernel⟩, ⟨(accepts_iff _ _).1 (by
    decide +kernel), by decide +kernel⟩⟩

/-- States and operands that meet the hypotheses of VectorAndMemory. -/
theorem witness_vector_and_memory :
    (let s : State := W.vec
     let segs : List (Nat × Nat × Nat) := [(0,W.sram+384,128)]
     s.Accepts Form.vec ∧ s.Free [(6 : Reg)] ∧ s.Free [(5 : Reg), (7 : Reg)] ∧ s.accessSegs (s.g (6 : Reg) + BitVec.signExtend 64 (0 : BitVec 12))
       128 4 Need.load = Except.ok segs ∧ s.HasPieces (segPieces segs) ∧ s.accessSegs (s.g (6 : Reg) + BitVec.signExtend 64 (0 : BitVec 12)) 128 4
       Need.store = Except.ok segs ∧ s.MemoryWf ∧ s.core.pair = none ∧ s.pendingAnswer = none ∧ (∀ g ∈ segs, (s.localAt g.2.1 g.2.2).isSome = true
       ∧ s.pendingWord g.2.1 g.2.2 = false)) :=
  ⟨(accepts_iff _ _).1 (by decide +kernel), free_of _ _ (by decide +kernel), free_of _ _ (by decide +kernel), ok_of _ _ (by decide +kernel),
    hasPieces_of _ _ (by decide +kernel), ok_of _ _ (by decide +kernel), memoryWf_of _ (by decide +kernel), by decide +kernel⟩

/-- States and operands that meet the hypotheses of VectorComparesAndReductions. -/
theorem witness_vector_compares_and_reductions :
    (let s : State := W.vec
     let e : Instr × (Word → Word → Word) := (Instr.vredsum Lane.h16 (some (3 : BitVec 3)) (5 : Reg) (6 : Reg) (7 : Reg), fun (x y : Word) => x +
       y)
     s.Accepts Form.vec ∧ s.Accepts Form.vecPfx ∧ s.laneFmt Lane.h16 = Except.ok Fmt.fp16 ∧ (e ∈ [e, (Instr.vredmax Lane.h16 (some (3 : BitVec 3))
       (5 : Reg) (6 : Reg) (7 : Reg), fun (x y : Word) => if BitVec.slt x y = true then y else x), (Instr.vredmin Lane.h16 (some (3 : BitVec 3)) (5
       : Reg) (6 : Reg) (7 : Reg), fun (x y : Word) => if BitVec.slt x y = true then x else y)]) ∧ (s.pending = none ∧ Fmt.fp16 = Fmt.fp16 ∨ ∃ (x :
       Prefix), s.pending = some x ∧ fmtOf x.fd = some Fmt.fp16 ∧ (Fmt.fp16 = Fmt.fp16 ∨ Fmt.fp16 = Fmt.fp32))) :=
  ⟨(accepts_iff _ _).1 (by decide +kernel), (accepts_iff _ _).1 (by decide +kernel), ok_of _ _ (by decide +kernel), List.Mem.head _, Or.inl (by
    decide +kernel)⟩

/-- States and operands that meet the hypotheses of VectorFloats. -/
theorem witness_vector_floats :
    (let s : State := W.vec
     let i : Instr := Sys2Proof.Instr.vfadd (Sys2Proof.Lane.b8) (some 0x3#3) 0x05#5 0x06#5 0x07#5
     let i' : Instr := Sys2Proof.Instr.vexp2 (Sys2Proof.Lane.b8) (some 0x3#3) 0x05#5 0x06#5
     s.Accepts Form.vecPfx ∧ s.laneFmt Lane.h16 = Except.ok Fmt.fp16 ∧ s.laneFmt Lane.b8 = illegal s ∧ s.convFmts Fmt.fp32 Fmt.fp16 = Except.ok
       (Fmt.fp32, Fmt.fp16) ∧ Lane.h16 ≠ Lane.b8 ∧ i ∈ [i, Instr.vfsub Lane.b8 (some (3 : BitVec 3)) (5 : Reg) (6 : Reg) (7 : Reg), Instr.vfmul
       Lane.b8 (some (3 : BitVec 3)) (5 : Reg) (6 : Reg) (7 : Reg), Instr.vfma Lane.b8 (some (3 : BitVec 3)) (5 : Reg) (6 : Reg) (7 : Reg),
       Instr.vfms Lane.b8 (some (3 : BitVec 3)) (5 : Reg) (6 : Reg) (7 : Reg), Instr.vfmin Lane.b8 (some (3 : BitVec 3)) (5 : Reg) (6 : Reg) (7 :
       Reg), Instr.vfmax Lane.b8 (some (3 : BitVec 3)) (5 : Reg) (6 : Reg) (7 : Reg), Instr.vfabs Lane.b8 (some (3 : BitVec 3)) (5 : Reg) (6 :
       Reg), i', Instr.vrcp Lane.b8 (some (3 : BitVec 3)) (5 : Reg) (6 : Reg), Instr.vrsq Lane.b8 (some (3 : BitVec 3)) (5 : Reg) (6 : Reg)] ∧ i' ∈
       [i', Instr.vrcp Lane.b8 (some (3 : BitVec 3)) (5 : Reg) (6 : Reg), Instr.vrsq Lane.b8 (some (3 : BitVec 3)) (5 : Reg) (6 : Reg)] ∧
       convertible Fmt.fp32 Fmt.fp16 true = true ∧ laneBits Lane.w32 = Fmt.fp32.width.max Fmt.fp16.width ∧ BitVec.toNat (1 : BitVec 3) <
       Fmt.fp32.width.max Fmt.fp16.width / Fmt.fp32.width.min Fmt.fp16.width) ∧
    (let s : State := W.prefixed W.vec 0 0 3
     s.Accepts Form.vecPfx ∧ s.convFmts Fmt.fp16 Fmt.m8 = Except.ok (Fmt.fp32, Fmt.m8) ∧ (7 : Reg) ≠ (5 : Reg) ∧ Fmt.fp32.isWide = true ∧ (Fmt.m8 =
       Fmt.m8 ∨ Fmt.m8 = Fmt.m4) ∧ laneBits Lane.w32 = Fmt.fp32.width) ∧
    (let s : State := W.prefixed W.vec 3 0 0
     s.Accepts Form.vecPfx ∧ s.convFmts Fmt.fp16 Fmt.m8 = Except.ok (Fmt.m8, Fmt.fp32) ∧ (7 : Reg) ≠ (5 : Reg) ∧ (Fmt.m8 = Fmt.m8 ∨ Fmt.m8 =
       Fmt.m4) ∧ Fmt.fp32.isWide = true ∧ laneBits Lane.w32 = Fmt.fp32.width) :=
  ⟨⟨(accepts_iff _ _).1 (by decide +kernel), ok_of _ _ (by decide +kernel), illegal_of _ _ (by decide +kernel), ok_of _ _ (by decide +kernel), by
    decide +kernel⟩, ⟨(accepts_iff _ _).1 (by decide +kernel), ok_of _ _ (by decide +kernel), by decide +kernel⟩, ⟨(accepts_iff _ _).1 (by
    decide +kernel), ok_of _ _ (by decide +kernel), by decide +kernel⟩⟩

/-- States and operands that meet the hypotheses of GangsAndPushes (part 1). -/
theorem witness_gangs_and_pushes_1 :
    (let s : State := W.reserving [] (Core.reset 1)
     let r : Recv := W.recv (W.unitOf (0 : CoreName)) (W.unitOf (1 : CoreName)) (28 : BitVec 10) (Body.rsv 4)
     s.request 0 [28] = some r ∧ r.body = Body.rsv 4 ∧ (List.find? (fun (x : Gang) => x.id == 4) s.work.gangs = none)) ∧
    (let s : State := W.reserving [W.gang] { Core.reset 1 with ctl := { Control.reset with stopped := true } }
     let g : Gang := W.gang
     let r : Recv := W.recv (W.unitOf (0 : CoreName)) (W.unitOf (1 : CoreName)) (28 : BitVec 10) (Body.rsv 4)
     s.request 0 [28] = some r ∧ r.body = Body.rsv 4 ∧ (List.find? (fun (x : Gang) => x.id == 4) s.work.gangs = some g) ∧ s.joins g.slot.ctx g.prio
       (unitCore r.dst) = false ∧ s.work.gangs[0]? = some g) ∧
    (let s : State := W.reserving [W.gang] (Core.reset 1)
     let g : Gang := W.gang
     let r : Recv := W.recv (W.unitOf (0 : CoreName)) (W.unitOf (1 : CoreName)) (28 : BitVec 10) (Body.rsv 4)
     s.request 0 [28] = some r ∧ r.body = Body.rsv 4 ∧ (List.find? (fun (x : Gang) => x.id == 4) s.work.gangs = some g) ∧ s.joins g.slot.ctx g.prio
       (unitCore r.dst) = true) ∧
    (let s : State := W.ganged 1024
     let g : Gang := W.gang
     let w : Nat := g.cores.length * weight (recPcls g.slot.record)
     (∀ c ∈ g.cores, (s.getCore c).sched.reserved = some (Reserved.gang g.id) ∧ (s.getCore c).ctl.run = RunState.idle ∧ (s.getCore c).ctl.stopped =
       false) ∧ s.work.gangs[0]? = some g ∧ g.resume = [] ∧ g.cores.Nodup ∧ g.cores.head?.elim 0 dieOf = 0 ∧ s.admits 0 w g.prio = true ∧ s.mayRun
       g.slot.ctx (recCid g.slot.record) g.cores.length w = true) ∧
    (let s : State := W.ganged 0
     let g : Gang := W.gang
     let w : Nat := g.cores.length * weight (recPcls g.slot.record)
     (∀ c ∈ g.cores, (s.getCore c).sched.reserved = some (Reserved.gang g.id) ∧ (s.getCore c).ctl.run = RunState.idle ∧ (s.getCore c).ctl.stopped =
       false) ∧ s.work.gangs[0]? = some g ∧ g.resume = [] ∧ g.cores.Nodup ∧ g.cores.head?.elim 0 dieOf = 0 ∧ (s.admits 0 w g.prio = false ∨
       s.mayRun g.slot.ctx (recCid g.slot.record) g.cores.length w = false)) ∧
    (let s : State := W.queue (W.recv (W.unitOf 1) (W.unitOf 0) 20 (.push W.slot 0x20))
     let r : Recv := W.recv (W.unitOf (1 : CoreName)) (W.unitOf (0 : CoreName)) (20 : BitVec 10) (Body.push W.slot (32 : BitVec 6))
     s.request 0 [20] = some r ∧ r.body = Body.push W.slot (32 : BitVec 6) ∧ ((32 : BitVec 6) &&& ~~~coreGroups (unitCore r.dst) ≠ (0 : BitVec 6) ∨
       isWorker (unitCore r.dst) = false)) :=
  ⟨by decide +kernel, by decide +kernel, by decide +kernel, ⟨ball_of (by decide +kernel), by decide +kernel⟩, ⟨ball_of (by decide +kernel), by
    decide +kernel⟩, by decide +kernel⟩

/-- States and operands that meet the hypotheses of GangsAndPushes (part 2). -/
theorem witness_gangs_and_pushes_2 :
    (let s : State := W.queue (W.recv (W.unitOf 1) (W.unitOf 0) 20 (.push { W.slot with ctx := 9 } 0))
     let r : Recv :=
       { src := { pkg := 0x000#10, die := 0x00#5, unit := 0x01#8, slice := false }, dst := { pkg := 0x000#10, die := 0x00#5, unit := 0x00#8, slice := false }, epoch := 0x01#8, seq := 0x0004#16, cls := 0x014#10, ctx := 0x0001#16, nw := false, ns := false, body := Sys2Proof.Machine.Body.push { record := 0x5a8ebaa2000000010000000000000000000000000000000000000000000000000000000000000000000000010000000000000000000000000000000000000000#512, pcid := 0x00000001#32, head := false, rstd := false, passes := 0, ctx := 0x0009#16 } 0x00#6, left := [], pieces := [], notified := false, held := false, victim := none, stalled := false }
     let d : Slot :=
       { record := 0x5a8ebaa2000000010000000000000000000000000000000000000000000000000000000000000000000000010000000000000000000000000000000000000000#512, pcid := 0x00000001#32, head := false, rstd := false, passes := 0, ctx := 0x0009#16 }
     s.request 0 [20] = some r ∧ r.body = Body.push d (0 : BitVec 6) ∧ (0 : BitVec 6) &&& ~~~coreGroups (unitCore r.dst) = (0 : BitVec 6) ∧
       isWorker (unitCore r.dst) = true ∧ (∀ (h : Chamber), s.chamber d.ctx (recCid d.record) = some h → h.cst ≠ 1 ∧ h.cst ≠ 2)) ∧
    (let s : State := W.withCore (W.queue (W.recv (W.unitOf 1) (W.unitOf 0) 20 (.push W.slot 0))) fun k =>
       { k with sched := { k.sched with deque := List.replicate 256 W.slot } }
     let h : Chamber := W.root
     let r : Recv := W.recv (W.unitOf (1 : CoreName)) (W.unitOf (0 : CoreName)) (20 : BitVec 10) (Body.push W.slot (0 : BitVec 6))
     s.request 0 [20] = some r ∧ r.body = Body.push W.slot (0 : BitVec 6) ∧ (0 : BitVec 6) &&& ~~~coreGroups (unitCore r.dst) = (0 : BitVec 6) ∧
       isWorker (unitCore r.dst) = true ∧ s.chamber W.slot.ctx (recCid W.slot.record) = some h ∧ (h.cst = 1 ∨ h.cst = 2) ∧ 256 ≤ (s.getCore
       (unitCore r.dst)).sched.deque.length) ∧
    (let s : State := W.queue (W.recv (W.unitOf 1) (W.unitOf 0) 20 (.push W.slot 0))
     let h : Chamber := W.root
     let r : Recv := W.recv (W.unitOf (1 : CoreName)) (W.unitOf (0 : CoreName)) (20 : BitVec 10) (Body.push W.slot (0 : BitVec 6))
     s.request 0 [20] = some r ∧ r.body = Body.push W.slot (0 : BitVec 6) ∧ (0 : BitVec 6) &&& ~~~coreGroups (unitCore r.dst) = (0 : BitVec 6) ∧
       isWorker (unitCore r.dst) = true ∧ s.chamber W.slot.ctx (recCid W.slot.record) = some h ∧ (h.cst = 1 ∨ h.cst = 2) ∧ (s.getCore (unitCore
       r.dst)).sched.deque.length < 256) ∧
    (let s : State := W.queue (W.recv (W.unitOf 1) (W.unitOf 0) 21 (.claim 9 1))
     let r : Recv := W.recv (W.unitOf (1 : CoreName)) (W.unitOf (0 : CoreName)) (21 : BitVec 10) (Body.claim (9 : BitVec 16) (1 : W32))
     s.request 0 [21] = some r ∧ r.body = Body.claim (9 : BitVec 16) (1 : W32) ∧ (∀ (h : Chamber), s.chamber (9 : BitVec 16) (1 : W32) = some h →
       h.nest.act = false ∨ h.nest.next = h.nest.total)) ∧
    (let h : Chamber := { W.root with nest := ⟨1, true, 9, 10, 2⟩ }
     let s : State := W.nesting
     let r : Recv := W.recv (W.unitOf (1 : CoreName)) (W.unitOf (0 : CoreName)) (21 : BitVec 10) (Body.claim (1 : BitVec 16) (1 : W32))
     s.request 0 [21] = some r ∧ r.body = Body.claim (1 : BitVec 16) (1 : W32) ∧ s.chamber (1 : BitVec 16) (1 : W32) = some h ∧ h.nest.act = true ∧
       h.nest.next ≠ h.nest.total) ∧
    (let s : State := W.restarting
     let r : Restart := { core := (0 : CoreName), slot := W.slot, feat := (1 : BitVec 128), draw1 := (5 : W32), draw2 := (9 : W32) }
     let circles : List Nat := s.circle r.core 1 ++ s.circle r.core 2
     s.work.restarts[0]? = some r ∧ (∃ n ∈ circles, r.feat &&& ~~~BitVec.setWidth 128 (coreGroups (BitVec.ofNat 16 n)) = (0 : BitVec 128) ∧
       (s.getCore (BitVec.ofNat 16 n)).sched.deque.length < 256)) :=
  ⟨by decide +kernel, by decide +kernel, by decide +kernel, by decide +kernel, by decide +kernel, by decide +kernel⟩

/-- States and operands that meet the hypotheses of GangsAndPushes (part 3). -/
theorem witness_gangs_and_pushes_3 :
    (let s : State :=
       ({ W.restarting with work := { W.restarting.work with restarts := W.restarting.work.restarts.map fun r => { r with feat := -1 } } }:State)
     let r : Restart :=
       { core := 0x0000#16, slot := { record := 0x5a8ebaa2000000010000000000000000000000000000000000000000000000000000000000000000000000010000000000000000000000000000000000000000#512, pcid := 0x00000001#32, head := false, rstd := false, passes := 0, ctx := 0x0001#16 }, feat := 0xffffffffffffffffffffffffffffffff#128, draw1 := 0x00000005#32, draw2 := 0x00000009#32 }
     let circles : List Nat := s.circle r.core 1 ++ s.circle r.core 2
     s.work.restarts[0]? = some r ∧ (∀ n ∈ circles, ¬(r.feat &&& ~~~BitVec.setWidth 128 (coreGroups (BitVec.ofNat 16 n)) = (0 : BitVec 128) ∧
       (s.getCore (BitVec.ofNat 16 n)).sched.deque.length < 256))) ∧
    (let s : State := W.pushing
     let p : Push := (⟨0, W.slot, 1, false, false, false⟩:Sys2Proof.Machine.Push)
     s.work.pushes[0]? = some p ∧ (∀ q ∈ List.take 0 s.work.pushes, q.core ≠ p.core) ∧ (s.getCore p.core).sched.deque.length < 256 ∧ (p.reexec =
       true → Option.all (fun (x : Chamber) => x.waiting.isEmpty) (s.chamber p.slot.ctx p.cid) = true)) ∧
    (let s : State := W.withCore W.pushing fun k => { k with sched := { k.sched with deque := List.replicate 256 W.slot } }
     let p : Push := (⟨0, W.slot, 1, false, false, false⟩:Sys2Proof.Machine.Push)
     s.work.pushes[0]? = some p ∧ (∀ q ∈ List.take 0 s.work.pushes, q.core ≠ p.core) ∧ 256 ≤ (s.getCore p.core).sched.deque.length) :=
  ⟨by decide +kernel, by decide +kernel, by decide +kernel⟩

/-- States and operands that meet the hypotheses of NoiseAndPower (part 1). -/
theorem witness_noise_and_power_1 :
    (let s : State := W.start.setG 6 0x10007
     s.MatrixOn ∧ s.Accepts Form.nkey ∧ s.Accepts (Form.matrix false) ∧ s.held (6 : Reg) = false ∧ s.held (2 : Reg) = false ∧ bits (s.g (6 : Reg))
       17 15 = (0 : BitVec 15) ∧ bit (s.g (6 : Reg)) 16 = true) ∧
    (let s : State := W.pairs 7
     s.MatrixOn ∧ s.Accepts (Form.matrix false) ∧ s.held (6 : Reg) = false ∧ bits (s.g (6 : Reg)) 17 15 = (0 : BitVec 15) ∧ bit (s.g (6 : Reg)) 16
       = false ∧ BitVec.toNat (2 : BitVec 5) ≤ 3 ∧ descValid (s.core.mat.slot (BitVec.toNat (2 : BitVec 5))).desc = true ∧ descKind
       (s.core.mat.slot (BitVec.toNat (2 : BitVec 5))).desc = 4 ∧ descValid (s.core.mat.slot (BitVec.toNat (2 : BitVec 5) + 4)).desc = true ∧
       descKind (s.core.mat.slot (BitVec.toNat (2 : BitVec 5) + 4)).desc = 5 ∧ s.loadsDone [BitVec.toNat (2 : BitVec 5), BitVec.toNat (2 : BitVec
       5) + 4] none = true) ∧
    (let s : State := W.start.setG 6 0x500000000
     s.MatrixOn ∧ s.Accepts Form.ngen ∧ (s.pending = none ∨ ∃ (p : Prefix), s.pending = some p ∧ p.fd = (1 : BitVec 4)) ∧ (∀ (p : Prefix),
       s.pending = some p → p.fa = (0 : BitVec 4) ∧ p.fd = (0 : BitVec 4)) ∧ s.held (6 : Reg) = false ∧ bits (s.g (6 : Reg)) 0 32 = (0 : BitVec 32)
       ∧ BitVec.toNat (2 : Reg) % 2 = 0) ∧
    (let s : State := W.prefixed (W.vec.setG 6 0x500000000) 0 0 0
     let p : Prefix := { fa := 0x0#4, fb := 0x0#4, fd := 0x0#4, sa := 0x00#5, sb := 0x00#5, esA := false, esB := false }
     s.MatrixOn ∧ s.Accepts Form.ngen ∧ s.held (6 : Reg) = false ∧ bits (s.g (6 : Reg)) 0 32 = (0 : BitVec 32) ∧ s.pending = some p ∧ p.fd = (0 :
       BitVec 4)) ∧
    (let s : State := W.start.modCtl fun c => { c with k := { c.k with kpower := 1 } }
     s.Accepts (Form.matrix false) ∧ (bits s.core.ctl.k.kpower 0 2).toNat < 2 ∧ (s.getCore (0 : CoreName)).mat.power = MPower.awake ∧ (s.getCore (0
       : CoreName)).ctl.oc.ocx = 0) ∧
    (let s : State := W.power .asleep
     s.Accepts (Form.matrix false) ∧ 2 ≤ (bits s.core.ctl.k.kpower 0 2).toNat ∧ s.core.mat.power = MPower.asleep) :=
  ⟨⟨matrixOn_of _ (by decide +kernel), (accepts_iff _ _).1 (by decide +kernel), (accepts_iff _ _).1 (by decide +kernel), by decide +kernel⟩,
    ⟨matrixOn_of _ (by decide +kernel), (accepts_iff _ _).1 (by decide +kernel), by decide +kernel⟩, ⟨matrixOn_of _ (by decide +kernel),
    (accepts_iff _ _).1 (by decide +kernel), Or.inl (by decide +kernel), all_some_of (by decide +kernel), by decide +kernel⟩, ⟨matrixOn_of _ (by
    decide +kernel), (accepts_iff _ _).1 (by decide +kernel), by decide +kernel⟩, ⟨(accepts_iff _ _).1 (by decide +kernel), by decide +kernel⟩,
    ⟨(accepts_iff _ _).1 (by decide +kernel), by decide +kernel⟩⟩

/-- States and operands that meet the hypotheses of NoiseAndPower (part 2). -/
theorem witness_noise_and_power_2 :
    (let s : State := W.power .queued
     let rest : List CoreName := []
     (s.gov 0).wakes = (0 : CoreName) :: rest) ∧
    (let s : State := W.power .waking
     (s.getCore (0 : CoreName)).mat.power = MPower.waking) ∧
    (let o : EngineOp := W.op .copyIn { W.inMove with st := .done }
     let s : State := W.ended
     (∀ (p : Partial) (w : Bool) (y : Byte), o.kind ≠ OpKind.mmat p w y) ∧ (s.getCore (0 : CoreName)).mem.ops[0]? = some o ∧ o.kind.onTile = false
       ∧ (∀ m ∈ o.moves, m.st.ended = true) ∧ s.opQuiet (0 : CoreName) o.id = true ∧ (Option.any (fun (x : Machine.Task) => x.id == o.task)
       (s.getCore (0 : CoreName)).ctl.task = true) ∧ o.q = Seq.control ∧ o.reg ≠ (0 : Reg) ∧ isDetected o.result.1 = false) :=
  ⟨by decide +kernel, by decide +kernel, ⟨nofun, by decide +kernel⟩⟩

/-- States and operands that meet the hypotheses of DiagnosesAndLosses (part 1). -/
theorem witness_diagnoses_and_losses_1 :
    (let s : State := W.served
     let d : Rec := W.diagnosis 10 5 3
     let m : Nat := 1
     let q : Partition :=
       { dies := [0, 1, 2, 3, 4, 5, 6, 7, 8, 9, 10, 11, 12, 13, 14, 15, 16, 17, 18, 19, 20, 21], remote := [], share := 0, charged := 0, held := false, halted := [], bseq := 0, stopped := false, bound := false, table := 0 }
     (s.sp 0).state ≠ 0 ∧ diagForm d = true ∧ (s.sp 0).lost = false ∧ (s.sp (1 - 0)).lost = false ∧ diagPkg d = BitVec.setWidth 16
       s.mgmt.domain.pkg ∧ s.voteOn d = none ∧ (s.sp m).state ≠ 0 ∧ (true = true ∨ (assocGet 3 (s.sp m).missed).getD 0 ≠ 4) ∧ s.mgmt.votes = [] ∧
       s.part 0 = some q ∧ q.held = false ∧ (∃ c ∈ s.work.ctxs, c.part = 0 ∧ ∃ h ∈ c.chambers, h.live ≠ 0)) ∧
    (let s : State := W.voted (some (W.diagnosis 10 5 3)) false
     let d : Rec := W.diagnosis 10 5 3
     let r : Recv := W.recv (W.start.spUnit 1) (W.start.spUnit 0) (27 : BitVec 10) (Body.spmb (some (W.diagnosis 10 5 3)))
     let v : Vote :=
       { first := some 0x50e15fd100000000000000000000000000000000000000000000000000000000000000000000000000000000000000000000000000000000000000030000050a#512, second := some 0x50e15fd100000000000000000000000000000000000000000000000000000000000000000000000000000000000000000000000000000000000000030000050a#512, by_ := 0, referees := false, chosen := [] }
     (List.find? (fun (r : Recv) => decide (r.cls = (27 : BitVec 10) ∧ r.dst = s.spUnit 0) && r.left.isEmpty) s.fab.rxq = some r) ∧ r.body =
       Body.spmb (some d) ∧ s.voteOn d = some 0 ∧ s.mgmt.votes[0]? = some v ∧ v.by_ = 0 ∧ v.referees = false ∧ r.src.pkg = s.mgmt.domain.pkg ∧
       v.first = some d ∧ v.second = some d ∧ agree d d = true ∧ diagClass d ≠ 6) ∧
    (let s : State := W.voted none false
     let d : Rec := W.diagnosis 10 5 3
     let v : Vote :=
       { first := some 0x50e15fd100000000000000000000000000000000000000000000000000000000000000000000000000000000000000000000000000000000000000030000050a#512, second := none, by_ := 0, referees := false, chosen := [] }
     s.mgmt.votes[0]? = some v ∧ v.first = some d ∧ diagClass d ≠ 6 ∧ v.referees = false ∧ v.second = none ∧ s.mgmt.domain.packages ≤ 1) ∧
    (let s : State := W.oneDie (fun q => { q with dies := [3], stopped := true }) (W.passed 10 5 3 id)
     let d : Rec := W.diagnosis 10 5 3
     let u : State := ((s.consume d).recovering true).fence 3
     let e : BitVec 32 := 0xe0000011#32
     let v : State := ((((W.oneDie (fun (q : Partition) => { q with dies := [3], stopped := true }) (W.passed 10 5 3 id)).consume (W.diagnosis 10 5 3)).recovering
       true).fence 3).modMgmt fun (m : Management) =>
       { m with domain := { ((((W.oneDie (fun (q : Partition) => { q with dies := [3], stopped := true }) (W.passed 10 5 3 id)).consume (W.diagnosis 10 5 3)).recovering true).fence 3).mgmt.domain with spare := none } }
     u.spareEntry 3 = some (e, v) ∧ s.mayRecover 3 = true ∧ s.diagnosisFor 10 3 = some d) ∧
    (let s : State := W.oneDie (fun q => { q with dies := [3], stopped := true }) (W.passed 10 5 3 fun d => { d with spare := none })
     let d : Rec := W.diagnosis 10 5 3
     let u : State := ((s.consume d).recovering true).fence 3
     s.mayRecover 3 = true ∧ s.diagnosisFor 10 3 = some d ∧ u.spareEntry 3 = none) ∧
    (let s : State := W.rebuilding
     let r : Recovery := { die := 3, parts := [0], chambers := [] }
     (List.find? (fun (x : Recovery) => x.die == 3) s.mgmt.recov = some r) ∧ r.chambers = []) :=
  ⟨by decide +kernel, by decide +kernel, by decide +kernel, ⟨spare_of _ 3 17 _ (by decide +kernel) (by decide +kernel), by decide +kernel⟩, by
    decide +kernel, by decide +kernel⟩

/-- States and operands that meet the hypotheses of DiagnosesAndLosses (part 2). -/
theorem witness_diagnoses_and_losses_2 :
    (let s : State := W.oneDie (fun q => { q with dies := [17] }) (W.passed 11 6 17 fun d => { d with standby := [3] })
     let d : Rec := W.diagnosis 11 6 17
     s.mayRecover 17 = true ∧ s.diagnosisFor 11 17 = some d ∧ s.mgmt.domain.standby ≠ []) ∧
    (let s : State := W.oneDie (fun q => { q with dies := [17] }) (W.passed 11 6 17 fun d => { d with standby := [], packages := 4 })
     2 ≠ s.mgmt.domain.pkg.toNat ∧ 2 < s.mgmt.domain.packages ∧ s.mgmt.domain.standby = []) ∧
    (let s : State := W.oneDie (fun q => { q with dies := [17] }) (W.passed 11 6 17 fun d => { d with standby := [3], packages := 4 })
     let l : List Nat := []
     2 ≠ s.mgmt.domain.pkg.toNat ∧ 2 < s.mgmt.domain.packages ∧ s.mgmt.domain.standby = 3 :: l) :=
  ⟨by decide +kernel, by decide +kernel, by decide +kernel⟩

/-- States and operands that meet the hypotheses of HostAndPorts. -/
theorem witness_host_and_ports :
    (let s : State := W.start
     let a : Nat := W.hostLine
     let data : List W32 := ((List.range 32).map (BitVec.ofNat 32) : List W32)
     s.MemoryWf ∧ s.hostAddr 0 = some a ∧ s.place a = Place.memory ∧ s.lostAt a = false ∧ s.moving a = Moving.serve ∧ (∀ e ∈ s.homes.registry,
       e.line = a / 128 → e.owner = s.hostUnit) ∧ (s.setOf (a / 128)).length < 8 ∧ data.length = 32) ∧
    (let s : State := W.coreOwned
     let a : Nat := W.hostLine
     let e : RegEntry :=
       { owner := { pkg := 0x000#10, die := 0x00#5, unit := 0x05#8, slice := false }, line := 72567767433216, mask := 0xffffffff#32, rev := false, regs := [], stamp := 0 }
     s.hostAddr 0 = some a ∧ s.place a = Place.memory ∧ s.lostAt a = false ∧ s.moving a = Moving.serve ∧ s.ownersOf (a / 128) (BitVec.ofNat 32
       4294967295) = [e] ∧ e.owner ≠ s.hostUnit ∧ e.owner.die ≠ (31 : BitVec 5) ∧ e.rev = false ∧ s.canPost (s.home (128 * e.line)) e.owner 1 =
       true) ∧
    (let line : Nat := (W.hostLine/128:Nat)
     let s : State := W.snooped
     (List.find? (fun (x : Nat × W32) => x.1 == line) s.homes.snoops = some (line, (4294967295 : W32))) ∧ (∀ r ∈ s.fab.rxq, r.held = false) ∧
       s.homes.snoops[0]? = some (line, (4294967295 : W32)) ∧ s.place (128 * line) = Place.memory) ∧
    (let s : State := W.ueReady W.start
     let taken : Nat := (List.filter (fun (x : Nat × Nat) => x.1 == 0) s.mgmt.ue).length
     let n : Nat := s.ringHead (s.sendRing 0) + taken
     let n' : Nat := s.ringHead (s.receiveRing 0)
     let e : List Byte := s.ringEntry (s.receiveRing 0) n'
     s.MemoryWf ∧ s.uePort 0 = true ∧ s.ringHas (s.sendRing 0) taken = true ∧ ueForm (s.ringEntry (s.sendRing 0) n) = true ∧ s.ringHas
       (s.receiveRing 0) 0 = true ∧ ueForm e = true ∧ 1 ≤ [(1 : Byte), (2 : Byte), (3 : Byte)].length ∧ [(1 : Byte), (2 : Byte), (3 : Byte)].length
       ≤ field e 16 4 ∧ n' + 1 < 2 ^ 64 ∧ (s.sp 0).started = false ∧ s.mgmt.domain.fused = false ∧ s.fab.dead.contains 0 = false ∧ s.found.contains
       (5 : Word) = false ∧ s.mgmt.domain.images.contains [] = false) ∧
    (let s : State := W.ueTaken
     s.MemoryWf ∧ (0 : Byte) ∈ [BitVec.ofNat 8 0, BitVec.ofNat 8 21, BitVec.ofNat 8 15] ∧ (List.find? (fun (x : Nat × Nat) => x.1 == 0) s.mgmt.ue =
       some (0, 0)) ∧ 0 + 1 < 2 ^ 64) ∧
    (commonMajor 6 3 = some (6 &&& 3).log2 ∧ commonMajor 6 8 = none) :=
  ⟨⟨memoryWf_of _ (by decide +kernel), by decide +kernel⟩, by decide +kernel, by decide +kernel, ⟨memoryWf_of _ (by decide +kernel), by
    decide +kernel⟩, ⟨memoryWf_of _ (by decide +kernel), by decide +kernel⟩, by decide +kernel⟩

/-- States and operands that meet the hypotheses of TaskEnds. -/
theorem witness_task_ends :
    (let s : State := W.firmware
     s.Accepts { Form.control with exchange := true } ∧ s.MemoryWf ∧ s.pm = (2 : BitVec 2)) ∧
    (let s : State := W.leads fun p => { p with force := some (0x100, 0x104) }
     let k : Machine.Task := W.taskA
     let p : Pair := (fun (p : Pair) => { p with force := some ((256 : Word), (260 : Word)) }) (W.pairOf (W.start.setG (6 : Reg) (1 : Word)).core)
     s.Accepts Form.control ∧ s.Accepts Form.sched ∧ s.pm ≠ (2 : BitVec 2) ∧ s.seq = Seq.control ∧ s.core.ctl.task = some k ∧ s.tt = false ∧
       s.core.pair = some p ∧ s.released = true ∧ Instr.retire ∈ [Instr.retire, Instr.yield]) ∧
    (let k : Machine.Task := W.taskA
     let s : State := W.start
     s.Accepts Form.sched ∧ s.seq = Seq.control ∧ s.core.ctl.task = some k ∧ s.tt = false ∧ s.core.pair = none ∧ s.core.vs.opened = false ∧
       s.core.ms.opened = false ∧ k.windows = [] ∧ s.core.ctl.oc.isZero = true ∧ s.owedBy (recArg k.record 3) (recOwed k.record) = 0 ∧ s.released =
       true ∧ s.core.sched.resume.length < 32 ∧ s.core.quiet = true ∧ s.core.matrixBusy = false) ∧
    (let s : State := W.windowed
     let k : Machine.Task :=
       { id := 1, record := 0x00000000000000010000000000000000000000000000000000000000000000000000000000000000000000010000000000000000000000000000000000000000#512, ctx := 0x0001#16, cid := 0x00000001#32, rstd := false, team := none, fetcher := { next := 0x0000000000000000#64, fin := 0x0000000000000000#64, ext := 0x0000000000000000#64, gen := 0x00000000#32 }, groups := 0x01#6, windows := [0x003#12], scratch := [], frame := 0, stackBase := 0x0000000000000000#64, home := 0x0000000000000000#64, pend := [], errs := [], started := 0, unseen := [] }
     let l : List (BitVec 12) := []
     s.Accepts Form.sched ∧ s.seq = Seq.control ∧ s.core.ctl.task = some k ∧ s.tt = false ∧ s.core.pair = none ∧ s.core.vs.opened = false ∧
       s.core.ms.opened = false ∧ k.windows = (3 : BitVec 12) :: l) ∧
    (let s : State := W.fullResume
     let k : Machine.Task := W.taskA
     s.Accepts Form.sched ∧ s.seq = Seq.control ∧ s.core.ctl.task = some k ∧ s.tt = false ∧ s.core.pair = none ∧ 32 ≤ s.core.sched.resume.length) :=
  ⟨⟨(accepts_iff _ _).1 (by decide +kernel), memoryWf_of _ (by decide +kernel), by decide +kernel⟩, ⟨(accepts_iff _ _).1 (by decide +kernel),
    (accepts_iff _ _).1 (by decide +kernel), by decide +kernel⟩, ⟨(accepts_iff _ _).1 (by decide +kernel), by decide +kernel⟩, ⟨(accepts_iff _ _).1
    (by decide +kernel), by decide +kernel⟩, ⟨(accepts_iff _ _).1 (by decide +kernel), by decide +kernel⟩⟩

/-- States and operands that meet the hypotheses of GeneralRegisters. -/
theorem witness_general_registers :
    ((0 : W32) ∈ (State.reset.getCore (3 : CoreName)).ctl.idx.toList) ∧
    (let s : State := W.start
     s.core.HasSeq s.seq ∧ s.Accepts Form.shared ∧ s.Free [(5 : Reg)] ∧ s.seq = Seq.control) :=
  ⟨by decide +kernel, ⟨nofun, (accepts_iff _ _).1 (by decide +kernel), free_of _ _ (by decide +kernel), by decide +kernel⟩⟩

/-- The task of core 0 is to migrate to a page core (MissesAndMoves, MIGRATION). -/
theorem witness_migration :
    (let s : State := W.toPages
     let k : Machine.Task := W.taskA
     (s.getCore 0).ctl.task = some k ∧ (s.getCore 0).ctl.run = .task ∧ (s.getCore 0).ctl.stopped = false ∧ k.team = none ∧
       ((s.getCore 0).ctl.stalls.any fun e => e.1 == .control && e.2 == .migration) = true ∧ (s.getCore 0).drained = true ∧
       ∃ d, ((coresOf (dieOf 0)).find? fun d => (isWorker d && bit (coreGroups d) 4 &&
           decide ((s.getCore d).sched.resume.length < 32)) && cluster d == cluster 0) = some d ∧
         s.canPost (coreUnit s 0) (coreUnit s d) 1 = true) :=
  ⟨by decide +kernel, by decide +kernel, by decide +kernel, by decide +kernel, by decide +kernel, by decide +kernel,
    some_of (by decide +kernel)⟩

/-- A redirected load (MissesAndMoves, REDIR). -/
theorem witness_redir :
    (let s : State := W.redirected
     ∃ o, s.fab.outst[0]? = some o ∧ o.answer = some (0, .redir (W.hbm + 0x8000)) ∧ (∀ c i l m, o.purpose ≠ .reg c i l m) ∧
       s.canPost o.src (s.newUnit o.body (W.hbm + 0x8000)) 1 = true) :=
  ⟨_, rfl, rfl, nofun, by decide +kernel⟩

/-- A vote that both referees have, with one diagnosis (DiagnosesAndLosses, REFEREE_TIMEOUT). -/
theorem witness_referee_timeout :
    (let s : State := W.voted none true
     ∃ v, (s.mgmt.votes[0]? : Option Vote) = some v ∧ v.first = some (W.diagnosis 10 5 3) ∧ diagClass (W.diagnosis 10 5 3) ≠ 6 ∧
       v.referees = true ∧ ∀ b, v.second = some b → diagRung b < diagRung (W.diagnosis 10 5 3)) :=
  ⟨⟨some (W.diagnosis 10 5 3), none, 0, true, []⟩, rfl, rfl, by decide +kernel, rfl, fun b h => by simp at h⟩

/-- A store request served at its home, and one that waits for an owner (HomeRequests). -/
theorem witness_home_stores :
    (let r : Recv := W.recv (W.unitOf 0) W.home 2 (.st W.pa 4 0x01020304)
     let s : State := W.queue r
     let bs : List Byte := [4, 3, 2, 1]
     (s.request 0 [2] = some r ∧ ∃ v : Word, r.body = .st W.pa bs.length v ∧ bs = toBytes bs.length v.toNat) ∧ s.lostAt W.pa = false ∧
       s.moving W.pa = .serve ∧ (s.place W.pa = .memory → s.reclaim (W.pa / 128) (wordMask W.pa bs.length) (wholeWords W.pa bs.length) = none) ∧
       (s.place W.pa ≠ .memory → s.agentStatus W.pa bs.length = 0) ∧ s.place W.pa ≠ .window ∧ s.place W.pa ≠ .mailbox ∧ s.MemoryWf) ∧
    (let r : Recv := W.recv (W.unitOf 0) W.home 3 (.stl W.pa [1, 2])
     let s : State := W.owned 1 (-1) (W.queue r)
     s.request 0 [3] = some r ∧ r.body = .stl W.pa [1, 2] ∧ s.lostAt W.pa = false ∧ s.moving W.pa = .serve ∧ s.place W.pa = .memory ∧
       ∃ u, s.reclaim (W.pa / 128) (wordMask W.pa 2) (wholeWords W.pa 2) = some u) :=
  ⟨⟨⟨by decide +kernel, _, rfl, by decide +kernel⟩, by decide +kernel, by decide +kernel, fun _ => none_of (by decide +kernel),
    by decide +kernel, by decide +kernel, by decide +kernel, memoryWf_of _ (by decide +kernel)⟩,
    by decide +kernel, rfl, by decide +kernel, by decide +kernel, by decide +kernel, isSome_of (by decide +kernel)⟩

/-- A context with a chamber in which tasks live, in a partition that is not held (DiagnosesAndLosses, WATCHDOG). -/
theorem witness_watchdog :
    (let s : State := W.served
     ∃ q, s.part 0 = some q ∧ q.held = false ∧ ∃ c ∈ s.work.ctxs, c.part = 0 ∧ ∃ h ∈ c.chambers, h.live ≠ 0) :=
  ⟨_, rfl, rfl, W.ctxA, List.Mem.head _, rfl, W.root, List.Mem.head _, by decide⟩

/-! ### Encoding, memory and the step -/

/-- A 32-bit and a 16-bit instruction, and an immediate at the end of its range (DecodeEncode). -/
theorem witness_decode_encode :
    [Instr.add .w32 5 6 7, .add16 5 7, .shlImmD 1 2 63, .jal 31 0x3FF].all WellFormed = true := by decide

/-- Bytes that decode (EncodeDecode). -/
theorem witness_encode_decode :
    decode [0x03, 0x25, 0x73, 0x00, 9] = .ok (.add .w32 5 6 7, [9]) ∧ decode [0x42, 0x39] = .ok (.add16 5 7, []) := ⟨rfl, rfl⟩

/-- A memory in canonical form, and a step that answers a next state (StepKeepsMemory). -/
theorem witness_step_keeps_memory : W.record.MemoryWf ∧ ∃ t, step W.record = .next t :=
  ⟨memoryWf_of _ (by decide +kernel), next_of (by decide +kernel)⟩

/-- A privilege that occurs (NeverStops). -/
theorem witness_never_stops : W.start.pm ≠ 3 ∧ State.reset.pm ≠ 3 := by decide +kernel

/-- A 32-bit instruction at the pc: fetched, decoded and run (StepRunsDecoded). -/
theorem witness_step_runs_word :
    (let s : State := codeAt [0x03, 0x25, 0x73, 0x00]
     let pa : Nat := W.sram + 0x100
     s.moves = true ∧ s.boundary.isNone = true ∧ fetched s [0x03, 0x25, 0x73, 0x00] = true ∧ s.agenda = [] ∧ s.seq = .control ∧
       s.core.msg.bank.isNone = true ∧ s.atHome = false ∧ bit s.pc 0 = false ∧ (s.translate s.pc .fetch = .ok pa) ∧
       s.poisoned pa 2 = false ∧ (s.translate (s.pc + 2) .fetch = .ok (pa + 2)) ∧ s.poisoned (pa + 2) 2 = false ∧
       bit ((s.currents pa 2).headD 0) 0 = true ∧ s.currents pa 2 ++ s.currents (pa + 2) 2 = [0x03, 0x25, 0x73, 0x00]) ∧
    decode [0x03, 0x25, 0x73, 0x00] = .ok (.add .w32 5 6 7, []) :=
  ⟨⟨by decide +kernel, by decide +kernel, by decide +kernel, rfl, rfl, by decide +kernel, by decide +kernel, by decide +kernel,
    ok_of _ _ (by decide +kernel), by decide +kernel, ok_of _ _ (by decide +kernel), by decide +kernel, by decide +kernel,
    by decide +kernel⟩, rfl⟩

/-- A 16-bit instruction, bytes that are none, and an odd pc (StepRunsDecoded). -/
theorem witness_step_runs_short :
    (let s : State := codeAt [0x42, 0x39]
     s.moves = true ∧ s.boundary.isNone = true ∧ s.currents (W.sram + 0x100) 2 = [0x42, 0x39]) ∧
    (let s : State := codeAt [0x1E, 0x00]
     s.moves = true ∧ s.boundary.isNone = true ∧ fetched s [0x1E, 0x00] = true ∧
       (match decode [0x1E, 0x00] with | .error _ => true | .ok _ => false) = true) ∧
    (let s : State := W.start.modThr fun r => { r with pc := 0x101 }
     s.moves = true ∧ s.boundary.isNone = true ∧ bit s.pc 0 = true) := by
  decide +kernel

/-- Turns of the agenda: an event that acts, one after the stop latch is set, and another core's (StepRunsDecoded). -/
theorem witness_step_takes_turns :
    (let s : State := { W.start with agenda := [.event .coldReset] }
     s.agenda = [.event .coldReset] ∧ s.actsOn .coldReset = true) ∧
    (let s : State := { W.start with agenda := [.event (.ejectFlit 0)], mgmt := { W.start.mgmt with
       reserve := { W.start.mgmt.reserve with stop := true } } }
     s.agenda = [.event (.ejectFlit 0)] ∧ s.mgmt.reserve.stop = true ∧ Instr.ejectFlit 0 ≠ .coldReset) ∧
    (let s : State := { W.start with agenda := [.core 3 .control] }
     s.agenda = [.core 3 .control]) :=
  ⟨⟨rfl, rfl⟩, ⟨rfl, rfl, nofun⟩, rfl⟩

/-- A chamber is opened with a budget that its line cannot bear (OpenAndClose). -/
theorem witness_budget_too_high :
    (let s : State := W.rcb.setG 7 0x100000000000
     let bs : List Byte := W.rcbBytes ++ toBytes 4 0xE71C7D7C
     let parent : Option Chamber := (s.deviceTranslate W.ctxA.ctx (BitVec.ofNat 64 (field bs 0 8)) .load).bind fun p => W.ctxA.chambers.find? (·.rcb == p)
     let line : List Chamber := chamberOf bs (W.sram + 0x200) W.ctxA.freshCid 0 :: parent.elim [] fun h => s.lineOf W.ctxA.ctx h.cid
     s.Accepts .sched ∧ s.Free [5, 6, 7] ∧ s.readRecord (s.g 6) 256 = .ok (.inl bs) ∧ s.refuseChamber W.ctxA bs = 0 ∧
       s.translate (s.g 6) .load = .ok (W.sram + 0x200) ∧ s.findCtx s.ctx = some W.ctxA ∧ s.g 7 ≠ 0 ∧
       s.mayCharge W.ctxA line (pagesOf (s.g 7).toNat) = false) :=
  ⟨(accepts_iff _ _).1 (by decide +kernel), free_of _ _ (by decide +kernel), ok_of _ _ (by decide +kernel),
    (by rw [State.refuseChamber, rcbCrc_eq]; decide +kernel), ok_of _ _ (by decide +kernel), by decide +kernel⟩

/-- A vector store that goes away to its home (VectorAccesses). -/
theorem witness_vector_store_away :
    (let s : State := W.vec.setG 6 0x4000
     let segs : List (Nat × Nat × Nat) := [(0, W.hbm + 0x4000, 128)]
     s.Accepts .vec ∧ s.Free [6] ∧ s.accessSegs (s.g 6 + (0 : BitVec 12).signExtend 64) 128 4 .store = .ok segs ∧
       (∀ g ∈ segs, ∃ u, s.route g.2.1 = .away u ∧ s.canPost s.unit u 32 = true) ∧ s.core.pair = none ∧ s.oc.ocs < 32) :=
  ⟨(accepts_iff _ _).1 (by decide +kernel), free_of _ _ (by decide +kernel), ok_of _ _ (by decide +kernel),
    fun g h => by
      rw [List.mem_singleton.1 h]
      exact ⟨⟨0, 8, 0, true⟩, by decide +kernel, by decide +kernel⟩,
    by decide +kernel⟩

/-- NaN operands of a compare (VectorCompares). -/
theorem witness_compare_nan : Machine.Num.quiet.isNaN = true := rfl

/-- A saved record is offered under the tag (MustSave, `msquery` with selector 3). -/
theorem witness_must_save_3 :
    (let s : State :=
      (fun x : State => { x with mgmt := { x.mgmt with reserve := { x.mgmt.reserve with offered := some 0 } } })
        ((W.reserve 0 0 3 [] [] 100).write ((W.reserve 0 0 3 [] [] 100).imageTables 0 + 12) [1])
     s.Accepts Form.reserve ∧ s.Free [(5 : Reg), (6 : Reg), (6 : Reg) + (1 : Reg), (8 : Reg)] ∧ s.g (8 : Reg) = (3 : Word) ∧
       s.offeredRecords (s.g (6 : Reg)) = [(0, List.replicate 64 0)]) :=
  ⟨(accepts_iff _ _).1 (by decide +kernel), free_of _ _ (by decide +kernel), by decide +kernel, by decide +kernel⟩

end Sys2Proof.Tests
end

/-! The integer sequencer: what a plain instruction gives once its operands are free, and with it the address forms, the 16-bit
integer forms, branches, jumps, and the general and index registers (spec/06_sequencer.md). -/

namespace Sys2Proof.Machine

/-! ## One rule per shape of plain instruction -/

theorem State.held_zero (s : State) : s.held 0 = false := by simp [State.held]

section
variable {s t : State} {i : Instr} {f : Form}

/-- An instruction that runs `body` under form `f` ends in the state that `body` gives, with the group noted. -/
theorem State.does_of_run {body : Try State} {p : State → Prop} (hi : exec i s = run f s body) (ha : s.Accepts f)
    (hb : body = .ok t) (hp : p (t.useGroup f)) : s.Does i p :=
  ⟨_, hi.trans (run_ok s t f body ha hb), hp⟩

/-- A register write that retires and moves past the instruction. -/
theorem State.gives_next (s : State) (f : Form) (n : Nat) (d : Reg) (x : Word) :
    s.Gives (((s.setG d x).next n).useGroup f) d x (s.pc + BitVec.ofNat 64 n) := by
  rw [State.next, State.pc_setG]
  exact gives_setG s f d x _

/-- A retirement that only moves the pc. -/
theorem State.goes_jump (s : State) (f : Form) (a : Word) : s.Goes ((s.jump a).useGroup f) a := by
  obtain ⟨hpc, hg, hp⟩ := retire_setPc s a
  exact ⟨fun r => (useGroup_g _ f r).trans (hg r), (useGroup_pc _ f).trans hpc, plain_useGroup _ _ _ hp⟩

/-- `g[d] := x` (R159). -/
theorem State.does_putConst {d : Reg} {x : Word} (hi : exec i s = s.putConst f d x) (ha : s.Accepts f) (hd : s.held d = false) :
    s.Does i fun t => s.Gives t d x (s.pc + BitVec.ofNat 64 f.len) :=
  does_of_run hi ha (by rw [dst_free s d hd]; rfl) (s.gives_next f f.len d x)

/-- `g[d] := F(g[a], y)` at width W (R158). -/
theorem State.does_aluImm {o : AluOp} {w : Width} {d a : Reg} {y : Word} (hi : exec i s = s.aluImm f o w d a y)
    (ha : s.Accepts f) (hd : s.held d = false) (hs : s.held a = false) :
    s.Does i fun t => s.Gives t d (atWidth w o.apply (s.g a) y) (s.pc + BitVec.ofNat 64 f.len) :=
  does_of_run hi ha (by rw [src_free s a hs, dst_free s d hd]; rfl) (s.gives_next f f.len d _)

/-- `g[d] := F(g[a], g[b])` at width W (R157). -/
theorem State.does_alu {o : AluOp} {w : Width} {d a b : Reg} (hi : exec i s = s.alu f o w d a b) (ha : s.Accepts f)
    (hd : s.held d = false) (hs : s.held a = false) (hb : s.held b = false) :
    s.Does i fun t => s.Gives t d (atWidth w o.apply (s.g a) (s.g b)) (s.pc + BitVec.ofNat 64 f.len) :=
  does_of_run hi ha (by rw [src_free s a hs, src_free s b hb, dst_free s d hd]; rfl) (s.gives_next f f.len d _)

/-- A jump that needs no register (R162). -/
theorem State.does_jump {a : Word} (hi : exec i s = run f s (.ok (s.jump a))) (ha : s.Accepts f) :
    s.Does i fun t => s.Goes t a :=
  does_of_run hi ha rfl (s.goes_jump f a)

/-- A jump through a register (R163). -/
theorem State.does_jumpReg {a : Reg} {off : Word} (hi : exec i s = s.jumpReg f a off) (ha : s.Accepts f)
    (hs : s.held a = false) : s.Does i fun t => s.Goes t (s.g a + off) :=
  does_of_run hi ha (by rw [src_free s a hs]; rfl) (s.goes_jump f _)

/-- A conditional branch: to its own address plus the offset, or past itself (R161). -/
theorem State.does_branch {c : Cond} {a b : Reg} {off : Word} (hi : exec i s = s.branch f c a b off) (ha : s.Accepts f)
    (hs : s.held a = false) (hb : s.held b = false) :
    s.Does i fun t => s.Goes t (if c.holds (s.g a) (s.g b) then s.pc + off else s.pc + BitVec.ofNat 64 f.len) := by
  refine does_of_run hi ha (by rw [src_free s a hs, src_free s b hb]; rfl) ?_
  split
  · exact s.goes_jump f _
  · exact s.goes_jump f _

end

/-! ## Operands of the 16-bit forms (R108) -/

/-- The signed immediate of a 16-bit form, extended in two steps, is the immediate extended. -/
theorem imm12_imm6 (i : BitVec 6) : imm12 (imm6 i) = i.signExtend 64 :=
  BitVec.eq_of_toInt_eq (by
    rw [imm12, imm6, BitVec.toInt_signExtend_of_le (by decide), BitVec.toInt_signExtend_of_le (by decide),
      BitVec.toInt_signExtend_of_le (by decide)])

/-- A 6-bit shift amount stays below 64. -/
theorem shiftAmount_setWidth (i : BitVec 6) : (i.setWidth 64).toNat % 64 = i.toNat := by
  rw [BitVec.toNat_setWidth_of_le (by decide), Nat.mod_eq_of_lt i.isLt]

/-! ## Address forms and 16-bit integer forms -/

theorem addressForms : Clauses.AddressForms := by
  intro s d a i o ha hf
  have hd : s.held d = false := hf d (by simp)
  have hs : s.held a = false := hf a (by simp)
  exact ⟨State.does_putConst rfl ha hd, State.does_putConst rfl ha hd,
    State.does_aluImm (o := .add) (w := .d64) rfl ha hd hs⟩

theorem shortIntegerForms : Clauses.ShortIntegerForms := by
  intro s d a i ha hf
  have hd : s.held d = false := hf d (by simp)
  have hs : s.held a = false := hf a (by simp)
  refine ⟨State.does_alu (o := .add) (w := .d64) rfl ha hd hd hs, State.does_alu (o := .sub) (w := .d64) rfl ha hd hd hs,
    State.does_alu (o := .and) (w := .d64) rfl ha hd hd hs, State.does_alu (o := .or) (w := .d64) rfl ha hd hd hs,
    State.does_alu (o := .xor) (w := .d64) rfl ha hd hd hs, ?_, ?_, ?_, ?_, ?_, State.does_jump rfl ha⟩
  · rw [← imm12_imm6]
    exact State.does_aluImm (o := .add) (w := .d64) rfl ha hd hd
  · rw [← imm12_imm6]
    exact State.does_putConst rfl ha hd
  · rw [← shiftAmount_setWidth]
    exact State.does_aluImm (o := .shl) (w := .d64) rfl ha hd hd
  · rw [← shiftAmount_setWidth]
    exact State.does_aluImm (o := .shr) (w := .d64) rfl ha hd hd
  · rw [← shiftAmount_setWidth]
    exact State.does_aluImm (o := .sar) (w := .d64) rfl ha hd hd

/-- Settles O33: each form runs as a constant, an immediate form or a register form whose operands are free. -/
theorem addressAndShortForms : Obligations.AddressAndShortForms := ⟨addressForms, shortIntegerForms⟩

/-! ## Branches and jumps -/

/-- Every conditional branch is the one operation at its condition (R161). -/
theorem exec_branch (s : State) (c : Cond) (a b : Reg) (o : BitVec 11) :
    exec (c.branch a b o) s = s.branch .base c a b (off12 o) := by
  cases c <;> rfl

theorem conditionalBranches : Clauses.ConditionalBranches := by
  intro s a b hf
  have hs : s.held a = false := hf a (by simp)
  have hb : s.held b = false := hf b (by simp)
  refine ⟨fun c o ha => State.does_branch (exec_branch s c a b o) ha hs hb, fun o ha => ⟨?_, ?_⟩⟩
  · have h : s.Does (.beq16 a o) fun t =>
        s.Goes t (if Cond.eq.holds (s.g a) (s.g 0) then s.pc + (o ++ 0#1).signExtend 64 else s.pc + 2) :=
      State.does_branch rfl ha hs s.held_zero
    simpa only [State.g_zero, Cond.holds, beq_iff_eq] using h
  · have h : s.Does (.bne16 a o) fun t =>
        s.Goes t (if Cond.ne.holds (s.g a) (s.g 0) then s.pc + (o ++ 0#1).signExtend 64 else s.pc + 2) :=
      State.does_branch rfl ha hs s.held_zero
    simpa only [State.g_zero, Cond.holds, bne_iff_ne, ne_eq, ite_not] using h

/-- `jal` writes the address of the next instruction and goes to its own address plus the offset (R162). -/
theorem State.does_jal {s : State} {d : Reg} (o : BitVec 19) (ha : s.Accepts .base) (hd : s.held d = false) :
    s.Does (.jal d o) fun t => s.Gives t d (s.pc + 4) (s.pc + off20 o) :=
  does_of_run (body := do s.dst d; return (s.setG d (s.pc + 4)).jump (s.pc + off20 o)) rfl ha
    (by rw [dst_free s d hd]; rfl) (gives_setG s .base d _ _)

theorem jumps : Clauses.Jumps := by
  intro s d a hf
  have hd : s.held d = false := hf d (by simp)
  have hs : s.held a = false := hf a (by simp)
  refine ⟨fun ha o i => ⟨State.does_jal o ha hd, State.does_jump rfl ha, State.does_jumpReg rfl ha hs⟩,
    fun ha o => ⟨State.does_jump rfl ha, ?_⟩⟩
  have h : s.Does (.jr16 a) fun t => s.Goes t (s.g a + 0#64) := State.does_jumpReg rfl ha hs
  rwa [BitVec.add_zero] at h

/-- Settles O34: a branch or a jump retires and sets the pc, and `jal` writes one register before it does. -/
theorem branchesAndJumps : Obligations.BranchesAndJumps := ⟨conditionalBranches, jumps⟩

/-! ## General and index registers -/

/-- After cold reset every core is as `Core.reset` has it. -/
theorem State.getCore_reset (c : CoreName) : State.reset.getCore c = .reset c := by
  unfold State.getCore
  split
  · subst c; rfl
  · rfl

/-- A register file of zeros reads zero at every register. -/
theorem regGet_replicate_zero (r : Reg) : regGet (Vector.replicate 32 0) r = 0 := by
  unfold regGet
  split
  · rfl
  · exact Vector.getElem_replicate _

/-- The register written reads as `written` says: g0 takes nothing (R117). -/
theorem State.g_setG_self (s : State) (r : Reg) (x : Word) : (s.setG r x).g r = written r x := by
  rw [State.g_setG, written]
  by_cases hr : r = 0
  · rw [if_neg fun e => e.2 hr, if_pos hr, hr, State.g_zero]
  · rw [if_pos ⟨rfl, hr⟩, if_neg hr]

/-- The control register number of index register `i` (R154). -/
def idxNumber (i : Fin 4) : BitVec 8 := 0x40 + BitVec.ofNat 8 i.val

/-- The acting core with `x` in index register `i`. -/
def State.setIdx (s : State) (i : Fin 4) (x : W32) : State :=
  s.modCtl fun c => { c with idx := c.idx.set i x i.isLt }

/-- The number of an index register reads it, zero-extended. -/
theorem controlReg_idxNumber (s : State) (i : Fin 4) :
    s.controlReg (idxNumber i) = some (s.core.ctl.idx[i].setWidth 64) := by
  match i with
  | 0 | 1 | 2 | 3 => rfl

/-- Outside a routine, a write to the number of an index register puts the low 32 bits there. -/
theorem writeControl_idxNumber (s : State) (i : Fin 4) (x : Word) (hq : s.seq ≠ .routine) :
    s.writeControl (idxNumber i) x = .ok (s.setIdx i (x.setWidth 32)) := by
  have hthread : s.writeThread (idxNumber i) x = none := by
    match i with
    | 0 | 1 | 2 | 3 => rfl
  unfold State.writeControl
  rw [hthread]
  simp only [if_neg hq]
  match i with
  | 0 | 1 | 2 | 3 => rfl

/-- `krd` of a register that exists gives its value (R154). -/
theorem State.does_krd {s : State} {d : Reg} {k : BitVec 8} {x : Word} (ha : s.Accepts .shared) (hd : s.held d = false)
    (hk : s.controlReg k = some x) : s.Does (.krd d k) fun t => s.Gives t d x (s.pc + 4) :=
  does_of_run (f := .shared) rfl ha (by rw [hk, dst_free s d hd]; rfl) (s.gives_next .shared 4 d x)

/-- `kwr` of an index register retires and writes it (R154). -/
theorem exec_kwr_idx {s : State} {a : Reg} (i : Fin 4) (ha : s.Accepts .shared) (hs : s.held a = false)
    (hq : s.seq ≠ .routine) :
    exec (.kwr a (idxNumber i)) s = .next ((s.next 4).setIdx i ((s.g a).setWidth 32)) := by
  refine run_ok s _ .shared _ ha ?_
  rw [src_free s a hs]
  show (do let _ ← s.writeControl (idxNumber i) (s.g a); (s.next 4).writeControl (idxNumber i) (s.g a)) = _
  rw [writeControl_idxNumber s i _ hq]
  exact writeControl_idxNumber (s.next 4) i _ hq

theorem State.does_kwr_idx {s : State} {a : Reg} (i : Fin 4) (ha : s.Accepts .shared) (hs : s.held a = false)
    (hq : s.seq ≠ .routine) :
    s.Does (.kwr a (idxNumber i)) fun t => t.core.ctl.idx[i] = (s.g a).setWidth 32 ∧
      (∀ j : Fin 4, j ≠ i → t.core.ctl.idx[j] = s.core.ctl.idx[j]) ∧ (∀ r, t.g r = s.g r) ∧ t.pc = s.pc + 4 ∧
      s.KeepsOutside t := by
  obtain ⟨hpc, hg, houtside, -, ⟨hidx, -⟩, -⟩ := retire_setPc s (s.pc + 4)
  refine ⟨_, exec_kwr_idx i ha hs hq, Vector.getElem_set_self _, fun j hj => ?_, hg, hpc, houtside⟩
  rw [← hidx]
  exact Vector.getElem_set_ne i.isLt j.isLt fun e => hj (Fin.ext e.symm)

/-- Settles O56: the reset cores hold zeros, and `krd` and `kwr` of the four index registers follow their numbers. -/
theorem generalRegisters : Obligations.GeneralRegisters := by
  refine ⟨fun c r => ?_, fun c x hx => ?_, fun s _ => ⟨s.g_zero, fun r x => ⟨s.g_setG_self r x, fun q hq => ?_⟩, ?_⟩⟩
  · rw [State.getCore_reset]
    exact regGet_replicate_zero r
  · rw [State.getCore_reset] at hx
    exact List.eq_of_mem_replicate hx
  · rw [State.g_setG, if_neg fun e => hq e.1]
  · intro i d ha hseq hf
    have hd : s.held d = false := hf d (by simp)
    exact ⟨State.does_krd ha hd (controlReg_idxNumber s i), State.does_kwr_idx i ha hd (by simp [hseq])⟩

end Sys2Proof.Machine
